-- ==== Sys2Proof/Word.lean ====
section
/-! DEFINITION. The word types of the device: bytes, instruction words, scalar registers, samples, tiles (R4, R79). -/
namespace Sys2Proof

/-- Eight bits. -/
abbrev Byte := BitVec 8
/-- One instruction word, header or literal (R52). -/
abbrev Word32 := BitVec 32
/-- One scalar register (R137). -/
abbrev Word := BitVec 64
/-- One vector register or sample (R158, R182). -/
abbrev VReg := BitVec 4096
/-- One mask register (R160). -/
abbrev Mask := BitVec 256
/-- One tile register, 32 KiB (R206). -/
abbrev Tile := BitVec 262144

end Sys2Proof
end

