-- ==== Sys2Proof/Config.lean ====
section
/-! DEFINITION. What the spec leaves open: the free choices (log 5), and two opaque functions of a standard outside the spec
(log 6). -/
namespace Sys2Proof

/-- ML-DSA-44 verification of a digest against a public key and a signature, all given as numbers (R358).
The spec names the algorithm and does not define it, so nothing is assumed of it. -/
opaque Config.mldsaVerify : (digest key sig : Nat) → Bool

/-- The ML-DSA-44 signature that heartwood makes of an attestation message with the secret key (R359). -/
opaque Config.mldsaSign : (key message : Nat) → Nat

/-- The free choices that the spec leaves open (an order, a delay, a value), by number. Nothing is assumed of them (log 5). -/
opaque Config.freeChoice : Nat → Nat

end Sys2Proof
end

