-- ==== Sys2Proof/Places.lean ====
section
/-! DEFINITION. The names that instructions and events carry: slots, places that hold data, table changes, boot images. -/
namespace Sys2Proof

/-- The six slots of a bundle, in the order of R52. -/
inductive Slot where
  | S | V0 | V1 | M | C0 | C1
  deriving DecidableEq, Repr

/-- The two vector slots (R158). -/
inductive VSlot where
  | v0 | v1
  deriving DecidableEq, Repr

/-- The two copy slots (R72). -/
inductive CSlot where
  | c0 | c1
  deriving DecidableEq, Repr

/-- Position of a slot in the order S, V0, V1, M, C0, C1; also its bit in a present mask (R54). -/
def Slot.idx : Slot → Nat
  | .S => 0 | .V0 => 1 | .V1 => 2 | .M => 3 | .C0 => 4 | .C1 => 5

def VSlot.slot : VSlot → Slot
  | .v0 => .V0 | .v1 => .V1

def CSlot.slot : CSlot → Slot
  | .c0 => .C0 | .c1 => .C1

/-- The slots in issue order. -/
def Slot.all : List Slot := [.S, .V0, .V1, .M, .C0, .C1]

/-- R313, R349: an error in storage, at a place, that its code corrects when it is read or cannot correct. -/
inductive StoreError (α : Type) where
  | corrected (place : α)
  | uncorrectable (place : α)
  deriving DecidableEq, Repr

/-- A place of a core that an instruction reads or writes (R257, R349).
`word` is the 8-byte word inside the place where it matters. -/
inductive Place where
  | sreg (ctx n : Nat)
  | flag (ctx n : Nat)
  | vreg (ctx n : Nat)
  | mask (ctx n : Nat)
  | basin (ctx n : Nat)
  | tile (t word : Nat)
  | spad (word : Nat)
  | isp (word : Nat)
  | sig (id lag word : Nat)
  | sigNext (id word : Nat)
  | lqs (ctx entry : Nat)
  | lqv (ctx entry : Nat)
  | acc (cell : Nat)
  deriving DecidableEq, Repr

/-- A change to the tables that heartwood guards (R292). -/
inductive TableChange where
  /-- the physical address of an ASID's level-1 table -/
  | root (asid addr : Nat)
  /-- one 16-byte entry of an ASID's table at a level 1-5 -/
  | entry (asid va level : Nat) (val : BitVec 128)
  /-- one buffer header -/
  | header (asid bid : Nat) (val : BitVec 512)
  /-- one first-stage key-value entry -/
  | kvEntry (asid page : Nat) (val : Word)
  /-- grant of a key-value block of a chip: the block's header, with the ASID in owner and the frame in aux (R299) -/
  | block (chip block : Nat) (val : BitVec 512)
  /-- the address-space id of a stream -/
  | streamAsid (stream asid : Nat)
  /-- a window of device memory that a host port may map (R353) -/
  | window (port lo hi : Nat)
  /-- the routes of the domain: Sizen port and the chip that it leads to (R357) -/
  | routes (tbl : List (Nat × Nat))
  deriving DecidableEq, Repr

/-- What heartwood loads when a device joins a domain: the domain's gauge, the device's chip number and its routes, as Sizen
port and chip (R317, R357). -/
structure Domain where
  gauge : Word
  chip : Nat
  routes : List (Nat × Nat)
  deriving DecidableEq, Repr

/-- A boot image with the fields that R358 checks. -/
structure Image where
  magic : Nat
  length : Nat
  version : Nat
  body : List Byte
  key : List Byte
  sig : List Byte
  deriving DecidableEq, Repr

/-- What a host port can train to, lowest first (R353). -/
inductive HostGen where
  | pcie5 | pcie6 | pcie7 | cxl20 | cxl31
  deriving DecidableEq, Repr

def HostGen.rank : HostGen → Nat
  | .pcie5 => 0 | .pcie6 => 1 | .pcie7 => 2 | .cxl20 => 3 | .cxl31 => 4

end Sys2Proof
end

