-- ==== Sys2Proof/Syntax.lean ====
section
/-! DEFINITION. The instructions and events of spec/opcode_table.json: one constructor a row, fields as the table gives them. -/
namespace Sys2Proof

/-- One row of the opcode table. `g` is the guard of R59 (bit 3 inverts, bits 2:0 name the flag); the vector and copy
forms name the slot they stand in, which decides their registers (R63) and their place in the bundle. The events after
the copy slot are the steps of spec/95 that no slot word encodes. -/
inductive Instr where
  /-- R62: A present slot word with opcode 0x00 that does nothing; bits 20:0 must be zero. -/
  | nop (sl : Slot) (g : BitVec 4)
  /-- R140: Writes the 64-bit wrapping sum of two scalar registers. -/
  | add (g : BitVec 4) (d a b : BitVec 5)
  /-- R140: Writes the 64-bit wrapping difference of two scalar registers. -/
  | sub (g : BitVec 4) (d a b : BitVec 5)
  /-- R140: Writes the low 64 bits of the product, with latency 3. -/
  | mul (g : BitVec 4) (d a b : BitVec 5)
  /-- R140: Writes the high 64 bits of the signed 128-bit product. -/
  | mulhi (g : BitVec 4) (d a b : BitVec 5)
  /-- R140: Writes the high 64 bits of the unsigned 128-bit product. -/
  | mulhn (g : BitVec 4) (d a b : BitVec 5)
  /-- R141: Writes the signed quotient, truncated toward zero, with the borderline cases fixed and latency 20. -/
  | div (g : BitVec 4) (d a b : BitVec 5)
  /-- R141: Writes the unsigned quotient, with all ones for a zero divisor. -/
  | divn (g : BitVec 4) (d a b : BitVec 5)
  /-- R141: Writes the signed remainder, which takes the dividend's sign. -/
  | rem (g : BitVec 4) (d a b : BitVec 5)
  /-- R141: Writes the unsigned remainder. -/
  | remn (g : BitVec 4) (d a b : BitVec 5)
  /-- R140: Writes the bitwise AND of two scalar registers. -/
  | and (g : BitVec 4) (d a b : BitVec 5)
  /-- R140: Writes the bitwise OR of two scalar registers. -/
  | or (g : BitVec 4) (d a b : BitVec 5)
  /-- R140: Writes the bitwise XOR of two scalar registers. -/
  | xor (g : BitVec 4) (d a b : BitVec 5)
  /-- R140: Shifts left by bits 5:0 of the second operand. -/
  | shl (g : BitVec 4) (d a b : BitVec 5)
  /-- R140: Shifts right logically by bits 5:0 of the second operand. -/
  | shr (g : BitVec 4) (d a b : BitVec 5)
  /-- R140: Shifts right arithmetically by bits 5:0 of the second operand. -/
  | sra (g : BitVec 4) (d a b : BitVec 5)
  /-- R140: Writes the signed lesser of two scalar registers. -/
  | min (g : BitVec 4) (d a b : BitVec 5)
  /-- R140: Writes the signed greater of two scalar registers. -/
  | max (g : BitVec 4) (d a b : BitVec 5)
  /-- R140: Writes the unsigned lesser of two scalar registers. -/
  | minn (g : BitVec 4) (d a b : BitVec 5)
  /-- R140: Writes the unsigned greater of two scalar registers. -/
  | maxn (g : BitVec 4) (d a b : BitVec 5)
  /-- R140: Writes the count of leading zero bits. -/
  | clz (g : BitVec 4) (d a : BitVec 5)
  /-- R140: Writes the count of one bits. -/
  | popc (g : BitVec 4) (d a : BitVec 5)
  /-- R146: Writes one of two scalar registers, chosen by a flag. -/
  | sel (g : BitVec 4) (d a b : BitVec 5) (f : BitVec 3)
  /-- R145: Writes a flag from a signed or unsigned comparison of two scalar registers. -/
  | scmp (g : BitVec 4) (f : BitVec 3) (a b : BitVec 5) (c : BitVec 4)
  /-- R145: Writes a flag from a comparison of a register with the sign-extended literal word. -/
  | scmpl (g : BitVec 4) (f : BitVec 3) (a : BitVec 5) (c : BitVec 4)
  /-- R142: Adds a sign-extended 11-bit immediate. -/
  | addi (g : BitVec 4) (d a : BitVec 5) (i : BitVec 11)
  /-- R142: ANDs with a sign-extended immediate. -/
  | andi (g : BitVec 4) (d a : BitVec 5) (i : BitVec 11)
  /-- R142: ORs with a sign-extended immediate. -/
  | ori (g : BitVec 4) (d a : BitVec 5) (i : BitVec 11)
  /-- R142: XORs with a sign-extended immediate. -/
  | xori (g : BitVec 4) (d a : BitVec 5) (i : BitVec 11)
  /-- R142: Shifts left by an immediate of 0 to 63. -/
  | shli (g : BitVec 4) (d a : BitVec 5) (i : BitVec 11)
  /-- R142: Shifts right logically by an immediate of 0 to 63. -/
  | shri (g : BitVec 4) (d a : BitVec 5) (i : BitVec 11)
  /-- R142: Shifts right arithmetically by an immediate of 0 to 63. -/
  | srai (g : BitVec 4) (d a : BitVec 5) (i : BitVec 11)
  /-- R143: Loads a sign-extended 16-bit immediate. -/
  | ldi (g : BitVec 4) (d : BitVec 5) (i : BitVec 16)
  /-- R144: Loads the sign-extended 32-bit literal word. -/
  | lit (g : BitVec 4) (d : BitVec 5)
  /-- R144: Replaces bits 63:32 of a register with the literal word. -/
  | lith (g : BitVec 4) (d : BitVec 5)
  /-- R147: Removes the oldest lqs entry and writes it to a scalar register. -/
  | lqpop (g : BitVec 4) (d : BitVec 5)
  /-- R147: Reads the oldest lqs entry without removing it. -/
  | lqpeek (g : BitVec 4) (d : BitVec 5)
  /-- R151: Branches to a PC-relative target after two delay bundles. -/
  | br (g : BitVec 4) (o : BitVec 21)
  /-- R151: Branches to a PC-relative target and writes the link to s31. -/
  | call (g : BitVec 4) (o : BitVec 21)
  /-- R151: Branches to the address held in a register. -/
  | bri (g : BitVec 4) (a : BitVec 5)
  /-- R151: Branches to the address held in s31. -/
  | ret (g : BitVec 4)
  /-- R153: Opens a hardware loop with a register count, or skips a zero-count loop. -/
  | loop (g : BitVec 4) (a : BitVec 5) (e : BitVec 16)
  /-- R153: Opens a hardware loop with an immediate count. -/
  | loopi (g : BitVec 4) (c : BitVec 9) (e : BitVec 12)
  /-- R266: Flips the live-half bit and branches into the other instruction half. -/
  | bswap (g : BitVec 4) (o : BitVec 21)
  /-- R265: Discards the bundles that were fetched but not decoded, so that later bundles see instruction writes. -/
  | ifence (g : BitVec 4)
  /-- R189: Advances T and the context's due signals, or parks on an empty piped signal. -/
  | tick (g : BitVec 4)
  /-- R197: Reads a signal's state word. -/
  | snow (g : BitVec 4) (d : BitVec 5) (s : BitVec 8)
  /-- R198: Clears one signal to its cleared state. -/
  | sclr (g : BitVec 4) (s : BitVec 8)
  /-- R260: Waits, parking if needed, until a pipe holds a visible entry. -/
  | waitp (g : BitVec 4) (p : BitVec 6)
  /-- R262: Arms the context and takes a ticket at a confluence; the arrival is counted later. -/
  | arrive (g : BitVec 4) (c : BitVec 9)
  /-- R262: Waits at a confluence until its generation passes the ticket. -/
  | waitc (g : BitVec 4) (c : BitVec 9)
  /-- R281: Parks the context until a scratchpad word carries an expected sequence number. -/
  | mwait (g : BitVec 4) (a b : BitVec 5)
  /-- R334: Waits until the earlier accesses that its scope covers have performed, and orders them before later ones. -/
  | fence (g : BitVec 4) (s : BitVec 3)
  /-- R148: Reads the gauge step current in the issue cycle. -/
  | gauge (g : BitVec 4) (d : BitVec 5)
  /-- R148: Reads the context's own count of issuing cycles. -/
  | cycles (g : BitVec 4) (d : BitVec 5)
  /-- R89: Checks a value and copies it into the format register at issue+4. -/
  | fmtset (g : BitVec 4) (a : BitVec 5)
  /-- R90: Reads the format register. -/
  | fmtget (g : BitVec 4) (d : BitVec 5)
  /-- R236: Sets a grove slot's seed at issue+2. -/
  | gseed (g : BitVec 4) (n : BitVec 2) (a : BitVec 5)
  /-- R243: Reads the best seed or the residual of the last search. -/
  | gbest (g : BitVec 4) (d : BitVec 5) (s : BitVec 11)
  /-- R103: Reads a tile's status word after 6 cycles. -/
  | tstat (g : BitVec 4) (d t : BitVec 5)
  /-- R348: Removes and returns the oldest statistics record, or 0 when the queue is empty. -/
  | sqpop (g : BitVec 4) (d : BitVec 5)
  /-- R132: Reads a control register of the issuing context. -/
  | ctlrd (g : BitVec 4) (d : BitVec 5) (n : BitVec 6)
  /-- R132: Checks a value and writes it to a control register of the issuing context. -/
  | ctlwr (g : BitVec 4) (d : BitVec 5) (n : BitVec 6)
  /-- R156: Raises cause 0x70 on purpose, carrying a code. -/
  | trap (g : BitVec 4) (c : BitVec 16)
  /-- R120: Ends the context's kernel, discards its register results in flight, and lets its other work continue. -/
  | retire (g : BitVec 4)
  /-- R122: Starts a dormant context of the gang and returns its handle, or 0 when the context is busy. -/
  | spawn (g : BitVec 4) (d a b : BitVec 5)
  /-- R126: Resumes, skips or retires a context that is stopped by a fault. -/
  | fresume (g : BitVec 4) (a : BitVec 5) (x : BitVec 11)
  /-- R156: Raises cause 0x71 on purpose, carrying a code. -/
  | brk (g : BitVec 4) (c : BitVec 16)
  /-- R164: Adds lane by lane, rounded, wrapped or saturated. -/
  | vadd (sl : VSlot) (g : BitVec 4) (d a b : BitVec 5) (t m : BitVec 3)
  /-- R164: Subtracts lane by lane. -/
  | vsub (sl : VSlot) (g : BitVec 4) (d a b : BitVec 5) (t m : BitVec 3)
  /-- R164: Multiplies lane by lane. -/
  | vmul (sl : VSlot) (g : BitVec 4) (d a b : BitVec 5) (t m : BitVec 3)
  /-- R165: Writes the lesser operand of each lane. -/
  | vmin (sl : VSlot) (g : BitVec 4) (d a b : BitVec 5) (t m : BitVec 3)
  /-- R165: Writes the greater operand of each lane. -/
  | vmax (sl : VSlot) (g : BitVec 4) (d a b : BitVec 5) (t m : BitVec 3)
  /-- R164: Writes the absolute value of each lane. -/
  | vabs (sl : VSlot) (g : BitVec 4) (d a : BitVec 5) (t m : BitVec 3)
  /-- R164: Writes the negation of each lane. -/
  | vneg (sl : VSlot) (g : BitVec 4) (d a : BitVec 5) (t m : BitVec 3)
  /-- R167: Writes a mask from a lane-wise comparison. -/
  | vcmp (sl : VSlot) (g : BitVec 4) (k : BitVec 3) (a b : BitVec 5) (t : BitVec 3) (u : BitVec 1) (c : BitVec 2)
  /-- R168: Merges two registers lane by lane under a mask. -/
  | vsel (sl : VSlot) (g : BitVec 4) (d a b : BitVec 5) (t k : BitVec 3)
  /-- R164: Writes the lane-wise bitwise AND. -/
  | vand (sl : VSlot) (g : BitVec 4) (d a b : BitVec 5) (t m : BitVec 3)
  /-- R164: Writes the lane-wise bitwise OR. -/
  | vor (sl : VSlot) (g : BitVec 4) (d a b : BitVec 5) (t m : BitVec 3)
  /-- R164: Writes the lane-wise bitwise XOR. -/
  | vxor (sl : VSlot) (g : BitVec 4) (d a b : BitVec 5) (t m : BitVec 3)
  /-- R164: Shifts each lane left. -/
  | vshl (sl : VSlot) (g : BitVec 4) (d a b : BitVec 5) (t m : BitVec 3)
  /-- R164: Shifts each lane right logically. -/
  | vshr (sl : VSlot) (g : BitVec 4) (d a b : BitVec 5) (t m : BitVec 3)
  /-- R164: Shifts each lane right arithmetically. -/
  | vsra (sl : VSlot) (g : BitVec 4) (d a b : BitVec 5) (t m : BitVec 3)
  /-- R169: Converts lanes from one type to another. -/
  | vcvt (sl : VSlot) (g : BitVec 4) (d a : BitVec 5) (x y : BitVec 1) (s t r : BitVec 3)
  /-- R170: Divides lane by lane, correctly rounded. -/
  | vdiv (sl : VSlot) (g : BitVec 4) (d a b : BitVec 5) (t r : BitVec 3)
  /-- R170: Writes the square root of each lane. -/
  | vsqrt (sl : VSlot) (g : BitVec 4) (d a : BitVec 5) (t r : BitVec 3)
  /-- R170: Writes the reciprocal of each lane. -/
  | vrcp (sl : VSlot) (g : BitVec 4) (d a : BitVec 5) (t r : BitVec 3)
  /-- R170: Writes the reciprocal square root of each lane. -/
  | vrsq (sl : VSlot) (g : BitVec 4) (d a : BitVec 5) (t r : BitVec 3)
  /-- R170: Writes 2 to the power of each lane. -/
  | vexp2 (sl : VSlot) (g : BitVec 4) (d a : BitVec 5) (t r : BitVec 3)
  /-- R170: Writes the base-2 logarithm of each lane. -/
  | vlog2 (sl : VSlot) (g : BitVec 4) (d a : BitVec 5) (t r : BitVec 3)
  /-- R171: Reduces the lanes by a fixed pairwise addition tree into lane 0. -/
  | vredadd (sl : VSlot) (g : BitVec 4) (d a : BitVec 5) (t m : BitVec 3)
  /-- R171: Reduces the lanes to their maximum. -/
  | vredmax (sl : VSlot) (g : BitVec 4) (d a : BitVec 5) (t m : BitVec 3)
  /-- R171: Reduces the lanes to their minimum. -/
  | vredmin (sl : VSlot) (g : BitVec 4) (d a : BitVec 5) (t m : BitVec 3)
  /-- R172: Writes the index of the winning largest lane. -/
  | vargmx (sl : VSlot) (g : BitVec 4) (d a : BitVec 5) (t m : BitVec 3)
  /-- R173: Broadcasts a scalar register into every lane. -/
  | vbcast (sl : VSlot) (g : BitVec 4) (d a : BitVec 5) (t : BitVec 3)
  /-- R173: Permutes lanes by an index vector. -/
  | vperm (sl : VSlot) (g : BitVec 4) (d a b : BitVec 5) (t : BitVec 3)
  /-- R173: Copies a vector register within its cluster. -/
  | vmov (sl : VSlot) (g : BitVec 4) (d a : BitVec 5)
  /-- R173: Copies a vector register into either cluster. -/
  | xmov (sl : VSlot) (g : BitVec 4) (d a : BitVec 5)
  /-- R166: Forms a lane-wise FP64 fused multiply-add with one rounding. -/
  | vfma_d (sl : VSlot) (g : BitVec 4) (d a b c : BitVec 5) (n : BitVec 1)
  /-- R166: Forms a lane-wise FP32 fused multiply-add. -/
  | vfma_s (sl : VSlot) (g : BitVec 4) (d a b c : BitVec 5) (n : BitVec 1)
  /-- R166: Forms a lane-wise FP16 fused multiply-add. -/
  | vfma_h (sl : VSlot) (g : BitVec 4) (d a b c : BitVec 5) (n : BitVec 1)
  /-- R166: Forms a lane-wise BF16 fused multiply-add. -/
  | vfma_b (sl : VSlot) (g : BitVec 4) (d a b c : BitVec 5) (n : BitVec 1)
  /-- R177: Clears a basin's value, state and ov. -/
  | bclr (sl : VSlot) (g : BitVec 4) (n : BitVec 2)
  /-- R177: Adds every lane product exactly into a basin. -/
  | bacc (sl : VSlot) (g : BitVec 4) (n : BitVec 2) (a b : BitVec 5) (t : BitVec 3)
  /-- R177: Adds one basin exactly into another. -/
  | badd (sl : VSlot) (g : BitVec 4) (n m : BitVec 2)
  /-- R178: Rounds a basin once into lane 0 of a vector register. -/
  | brnd (sl : VSlot) (g : BitVec 4) (d : BitVec 5) (n : BitVec 2) (t r : BitVec 3)
  /-- R178: Writes a flag from the exact sign or state of a basin. -/
  | bsgn (sl : VSlot) (g : BitVec 4) (f : BitVec 3) (n c : BitVec 2)
  /-- R178: Reads one part of a basin into a vector register. -/
  | bmovb (sl : VSlot) (g : BitVec 4) (d : BitVec 5) (n : BitVec 2) (p : BitVec 1)
  /-- R174: Sets a flag when any bit of a mask is set. -/
  | vsumm (sl : VSlot) (g : BitVec 4) (f k : BitVec 3)
  /-- R174: Writes the number of set mask bits to a scalar register. -/
  | vcount (sl : VSlot) (g : BitVec 4) (d : BitVec 5) (k : BitVec 3)
  /-- R175: ANDs two masks. -/
  | kand (sl : VSlot) (g : BitVec 4) (d a b : BitVec 3)
  /-- R175: ORs two masks. -/
  | kor (sl : VSlot) (g : BitVec 4) (d a b : BitVec 3)
  /-- R175: XORs two masks. -/
  | kxor (sl : VSlot) (g : BitVec 4) (d a b : BitVec 3)
  /-- R175: Inverts a mask. -/
  | knot (sl : VSlot) (g : BitVec 4) (d a : BitVec 3)
  /-- R193: Writes a signal's next slot at issue+2. -/
  | sfeed (sl : VSlot) (g : BitVec 4) (a : BitVec 5) (s : BitVec 8)
  /-- R209: Writes a row of a tile from a vector register, converting the lanes. -/
  | twrow (sl : VSlot) (g : BitVec 4) (t a : BitVec 5) (i : BitVec 8) (y : BitVec 3)
  /-- R209: Reads a column of a tile into a vector register. -/
  | trcol (sl : VSlot) (g : BitVec 4) (d t : BitVec 5) (i : BitVec 8) (y : BitVec 3)
  /-- R209: Reads a row of a tile into a vector register. -/
  | trrow (sl : VSlot) (g : BitVec 4) (d t : BitVec 5) (i : BitVec 8) (y : BitVec 3)
  /-- R259: Takes a pipe entry and makes the sample visible at the tail at issue+4. -/
  | psend (sl : VSlot) (g : BitVec 4) (a : BitVec 5) (p : BitVec 6)
  /-- R259: Removes the visible head of a pipe into a register. -/
  | ptake (sl : VSlot) (g : BitVec 4) (d : BitVec 5) (p : BitVec 6)
  /-- R259: Copies the visible head of a pipe into a register and leaves it there. -/
  | plook (sl : VSlot) (g : BitVec 4) (d : BitVec 5) (p : BitVec 6)
  /-- R181: Divides accumulators by running sums and writes the row-empty mask to k7. -/
  | vsnorm (sl : VSlot) (g : BitVec 4) (d a b : BitVec 5) (t r : BitVec 3)
  /-- R179: Quantises lanes to c4 codebook indices. -/
  | vcbq (sl : VSlot) (g : BitVec 4) (d a : BitVec 5) (t : BitVec 3)
  /-- R180: Expands c4 indices into lanes through the codebook. -/
  | vcbx (sl : VSlot) (g : BitVec 4) (d a : BitVec 5) (t : BitVec 3)
  /-- R99: Loads the 16-entry codebook table and its type. -/
  | cbld (sl : VSlot) (g : BitVec 4) (a : BitVec 5) (t : BitVec 3)
  /-- R221: Pushes one step of K through the array as a beat. -/
  | mpush (g : BitVec 4) (a b : BitVec 5) (k : BitVec 7) (x y : BitVec 1) (m : BitVec 2)
  /-- R221: A beat that changes no cell. -/
  | mshift (g : BitVec 4)
  /-- R221: Adds a tile row into accumulator row k. -/
  | macc (g : BitVec 4) (t : BitVec 5) (k : BitVec 7) (w : BitVec 1)
  /-- R222: Drains accumulator row k into a tile row by overwrite, add or argmax. -/
  | mdrain (g : BitVec 4) (t : BitVec 5) (k : BitVec 7) (m : BitVec 2)
  /-- R221: Clears every accumulator and wrap bit. -/
  | mclr (g : BitVec 4)
  /-- R221: Sets the array's active rows and columns. -/
  | mmask (g : BitVec 4) (r c : BitVec 7)
  /-- R238: Pushes one step of K with the B row grown from a grove. -/
  | mpushg (g : BitVec 4) (a : BitVec 5) (n : BitVec 2) (k : BitVec 7) (w : BitVec 1) (m : BitVec 2)
  /-- R237: Loads a grove slot from a record held in a tile. -/
  | mgload (g : BitVec 4) (t : BitVec 5) (n : BitVec 2) (w : BitVec 1)
  /-- R241: Queues a seed-search job over consecutive seeds. -/
  | msrch (g : BitVec 4) (t : BitVec 5) (n : BitVec 2) (c : BitVec 7) (w : BitVec 1)
  /-- R242: Queues a job that writes the grove record for the slot's seed into a tile. -/
  | msproj (g : BitVec 4) (t d : BitVec 5) (n : BitVec 7) (w : BitVec 1)
  /-- R221: A push beat that acts only on the diagonal cells. -/
  | mpushd (g : BitVec 4) (a b : BitVec 5) (k : BitVec 7) (x y : BitVec 1) (m : BitVec 2)
  /-- R254: Pushes a scalar load; its data enters lqs later. -/
  | lda (sl : CSlot) (g : BitVec 4) (a : BitVec 5) (w : BitVec 2) (o : BitVec 9)
  /-- R254: Pushes a 512-byte load; its data enters lqv later. -/
  | vlda (sl : CSlot) (g : BitVec 4) (a : BitVec 5) (o : BitVec 9)
  /-- R210: Loads one 128-byte tile line from scratchpad. -/
  | tlrow (sl : CSlot) (g : BitVec 4) (t a : BitVec 5) (n : BitVec 8)
  /-- R254: Stores the low bytes of a scalar register to scratchpad. -/
  | st (sl : CSlot) (g : BitVec 4) (d a : BitVec 5) (w : BitVec 2) (o : BitVec 9)
  /-- R254: Stores a whole vector register to scratchpad. -/
  | vst (sl : CSlot) (g : BitVec 4) (d a : BitVec 5) (o : BitVec 9)
  /-- R210: Stores one 128-byte tile line to scratchpad. -/
  | tsrow (sl : CSlot) (g : BitVec 4) (t a : BitVec 5) (n : BitVec 8)
  /-- R255: Performs a scratchpad read-modify-write in one bank cycle. -/
  | atom (sl : CSlot) (g : BitVec 4) (d a b : BitVec 5) (o : BitVec 3) (u : BitVec 1) (w : BitVec 2)
  /-- R256: Steps an address register by an immediate. -/
  | aupd (sl : CSlot) (g : BitVec 4) (d : BitVec 5) (i : BitVec 11)
  /-- R256: Steps an address register by another register. -/
  | aupds (sl : CSlot) (g : BitVec 4) (d a : BitVec 5)
  /-- R274: Enters a ferry command that copies one block in chunks. -/
  | fcopy (sl : CSlot) (g : BitVec 4) (t a b e : BitVec 5)
  /-- R273: Enters a ferry command that loads a shape entry from a record. -/
  | fshape (sl : CSlot) (g : BitVec 4) (a e : BitVec 5)
  /-- R278: Closes the batch; a stamp is written once the batch has completed. -/
  | fstamp (sl : CSlot) (g : BitVec 4) (a b : BitVec 5)
  /-- R285: Enters a ferry command that encodes BF16 data into HRC or QRC blocks. -/
  | fquant (sl : CSlot) (g : BitVec 4) (t a b e : BitVec 5)
  /-- R310: Writes a key-value page, sharing an existing block of equal content. -/
  | fdedup (sl : CSlot) (g : BitVec 4) (t a b e : BitVec 5) (x : BitVec 1)
  /-- R307: Allocates a buddy block from a pool. -/
  | falloc (sl : CSlot) (g : BitVec 4) (t a b c : BitVec 5) (x : BitVec 1)
  /-- R307: Frees a pool block and merges buddies. -/
  | ffree (sl : CSlot) (g : BitVec 4) (t a b : BitVec 5) (x : BitVec 1)
  /-- R314: Performs a read-modify-write in device memory at the home chip. -/
  | fatom (sl : CSlot) (g : BitVec 4) (t a b o : BitVec 5) (x : BitVec 1)
  /-- R315: Changes a buffer's tag fields, possibly sealing it. -/
  | fmtag (sl : CSlot) (g : BitVec 4) (t a b : BitVec 5)
  /-- R301: Writes a first-stage key-value entry and adjusts dref. -/
  | fkvmap (sl : CSlot) (g : BitVec 4) (t a b : BitVec 5) (x : BitVec 1)
  /-- R287: Submits an attention job card to the scheduler. -/
  | fcard (sl : CSlot) (g : BitVec 4) (t a : BitVec 5)
  /-- R286: Computes the CRC-32C of a block and writes it in stamp form. -/
  | fsum (sl : CSlot) (g : BitVec 4) (t a b e : BitVec 5)
  /-- R288: Reads a ferry's free buffer entries and eddies. -/
  | froom (sl : CSlot) (g : BitVec 4) (d : BitVec 5)
  /-- R54: A bundle with an empty present mask issues as a one-cycle bubble, with its header bits acting. -/
  | emptyBundle (core : Nat)
  /-- R118: The pause count exceeds ctl.pausebound and the next bundle takes fault 0x53. -/
  | pauseOverdue (core : Nat)
  /-- R117: An idle core chooses a context that has become ready and issues it, relocking if needed. -/
  | idleCoreChoose (core : Nat)
  /-- R113: Once per gauge step the scheduler takes the eligible head record of highest effective priority. -/
  | admissionDecision
  /-- R114: A head left ineligible through two aging steps at priority 3 starts reserving resources. -/
  | headReserving (stream : Nat)
  /-- R115: At the start step every start-role context of the gang becomes ready. -/
  | startStep (gang : Nat)
  /-- R122: A spawned context becomes ready at its entry offset, at least 64 steps after the SPAWN. -/
  | spawnStart (core ctx : Nat)
  /-- R128: A card is written into an idle server's mailbox, followed by the doorbell. -/
  | cardDeliver (card : Nat)
  /-- R129: After the server's earlier ferry commands perform, the card's stamp and completion record are written. -/
  | cardComplete (card : Nat)
  /-- R130: The card deadline expires: the server's core contexts are reset and the card is replayed or fails with 0x77. -/
  | cardWatchdog (card : Nat)
  /-- R340: At quiescence the fault record is written and a handler host is chosen, or the fault is queued. -/
  | faultRecordWrite (core ctx : Nat)
  /-- R124: The host context starts the handler kernel, at least 64 steps after the fault. -/
  | handlerStart (core ctx : Nat)
  /-- R121: After the gang's last command performs, the occupancy area and then the completion record are written. -/
  | completionRecordWrite (gang : Nat)
  /-- R119: Canopy asks for a gang to be evicted, and its contexts stop at their next switch points. -/
  | evictionRequest (gang : Nat)
  /-- R119: Once all contexts have stopped, state is saved, resources are released and a kind-4 record is written. -/
  | evictionSave (gang : Nat)
  /-- R364: Canopy asks for a checkpoint, and the gang's contexts stop at their switch points. -/
  | checkpointRequest (gang : Nat)
  /-- R364: State and buffers are written to the next ckarea slot, a kind-5 record is written, and the gang continues. -/
  | checkpointComplete (gang : Nat)
  /-- R352: Canopy terminates a gang through heartwood with status 0x7E. -/
  | gangTerminate (gang : Nat)
  /-- R135: The oldest unsignalled record reaches the time threshold and an interrupt is raised. -/
  | eventRingTimeTrigger (ring : Nat)
  /-- R135: A host advance of ECONS lets held records be written and lets waiting stream heads go on. -/
  | econsWrite (ring : Nat) (val : Word)
  /-- R135: Writing 1 to ECTL.ov clears it. -/
  | eventRingOvClear (port ring : Nat)
  /-- R104: Writing 1 to QCTL.err clears the sticky error. -/
  | qctlErrClear (stream : Nat)
  /-- R104: Writing QCTL.en starts or holds the reading of a stream. -/
  | qctlEnable (stream : Nat) (en : Bool)
  /-- R354: A write to a management register that has no row of its own, checked against its writers. -/
  | registerWrite (port off : Nat) (val : Word)
  /-- R356: A port claims management ownership when no owner is set. -/
  | mownClaim (port : Nat)
  /-- R356: The owner releases management ownership by writing 0. -/
  | mownRelease (port : Nat)
  /-- R356: The owner clears MSTATUS.err by writing bit 63. -/
  | mownErrorClear (port : Nat)
  /-- R356: A host port whose link goes down loses ownership. -/
  | hostLinkDown (port : Nat)
  /-- R321: Writing 1 to a trip bit of the droop word clears it. -/
  | tripClear (port core : Nat) (bits : BitVec 16)
  /-- R321: Writing the peak field of the droop word clears it. -/
  | peakClear (port core : Nat)
  /-- R320: The droop detectors report levels that stretch the next elastic cycle and set trip bits. -/
  | droopReport (core : Nat) (levels : BitVec 48)
  /-- R318: A device that cannot hold the gauge bound sets unsync and sends canopy an event. -/
  | gaugeUnsync
  /-- R357: A link flit arrives carrying the sender's gauge, which steers the local gauge. -/
  | sizenFlit (port : Nat) (gauge : Word)
  /-- R357: A failed Sizen port is removed from the routes and its traffic is retried. -/
  | linkFail (port : Nat)
  /-- R363: A failed device is quarantined, a spare is promoted and affected gangs are readmitted from checkpoints. -/
  | deviceFailureRecovery (chip : Nat) (spare : Bool)
  /-- R358: The board controller releases the ranger cores, which run the boot stages. -/
  | powerUp (img : Image) (domain : Option Domain)
  /-- R358: After a failed boot check, boot returns to stage 1 after 1 s, or stops after eight failures. -/
  | bootRetry (img : Image) (domain : Option Domain)
  /-- R362: With no gang admitted, the device enters standby with memory in self-refresh. -/
  | standbyEnter
  /-- R362: A power-management or Ethernet message wakes the device and reruns boot from stage 2. -/
  | standbyWake (domain : Option Domain)
  /-- R361: Temperature or power above its limit lowers the elastic clock, stops admission and terminates gangs. -/
  | thermalMonitor (temp : BitVec 8) (vmin : BitVec 12) (watts : Nat)
  /-- R359: Heartwood returns a signed attestation for a caller's nonce. -/
  | attestationRequest (nonce : List Byte)
  /-- R292: Canopy asks heartwood to change tables; heartwood validates the change and removes stale TLB entries. -/
  | heartwoodTableChange (change : TableChange)
  /-- R271: Each gauge step a ferry issues the due command of lowest issue step into a stream. -/
  | ferryIssue (ferry : Nat)
  /-- R275: A stream translates and performs a 4 KiB chunk of a command, parking it in an eddy on a fault. -/
  | ferryChunk (ferry stream : Nat)
  /-- R276: Canopy resolves a page fault; the parked command leaves its eddy, or ends with 0x42. -/
  | pageArrive (ferry cmd : Nat) (resolved : Bool)
  /-- R278: When every command of a batch has completed, the detail word and the stamp word are written. -/
  | stampWrite (ferry cmd : Nat)
  /-- R282: A line of a counted FCOPY performs at step t + land + i. -/
  | countedLine (ferry cmd : Nat)
  /-- R315: Once earlier commands have completed and busy is 0, the new tag fields are written as one step. -/
  | fmtagApply (ferry cmd : Nat)
  /-- R303: Canopy sets mig on an unpinned buffer and holds new transfers into it. -/
  | migrationStart (asid bid : Nat) (frames : List Nat)
  /-- R303: With busy at 0 the buffer is copied and rebound, and the held commands are released. -/
  | migrationCopy (asid bid : Nat)
  /-- R312: Canopy re-encodes one block of a buffer and flips its block header. -/
  | requantBlock (asid bid block : Nat)
  /-- R311: Canopy copies a shared block into an idle one and rebinds the writing entry, or ends the command with 0x44. -/
  | cowService (ferry cmd : Nat)
  /-- R313: An uncorrectable device-memory error poisons its sector and sends canopy an event; one that is corrected is counted. -/
  | memoryPoison (chip : Nat) (error : StoreError Nat)
  /-- R349: An uncorrectable soft error poisons a core storage word and sends canopy an event; one that is corrected is counted. -/
  | coreStorageError (core : Nat) (error : StoreError Place)
  /-- R239: A seed-searcher job ends and writes the search result or the projected rows. -/
  | searchJobEnd (core : Nat)
  /-- R262: An arrival is counted after its earlier stores perform; a full count advances the generation and wakes waiters. -/
  | arriveCount (core conf : Nat)
  /-- R255: A peer port grants a step to a waiting elastic peer access, releasing its slot. -/
  | peerGrant (core access : Nat)
  /-- R74: A slot word whose opcode is missing from its slot's map issues and faults 0x01 in that slot. -/
  | illegalOpcode (slot : Slot) (word : Word32)
  /-- R357: A Sizen port trains and its link status sets up, with the peer chip number. -/
  | sizenLinkTrained (port peer : Nat)
  /-- R353: A host port trains to the highest PCIe or CXL generation that both ends support. -/
  | hostPortTraining (port : Nat) (near far : List HostGen)
  /-- R353: A host load or store through a CXL.mem window of device memory, refused with 0x45 on a sealed buffer. -/
  | cxlMemAccess (port addr len : Nat) (store : Option (List Byte))
  deriving DecidableEq, Repr

end Sys2Proof
end

