-- ==== Sys2Proof/WellFormed.lean ====
section
/-! DEFINITION. Which operand fields are legal in each instruction (R62-R72, R209): what the spec refuses with 0x06 or 0x04. -/
namespace Sys2Proof

/-- R59: guard 1000 is illegal. -/
def guardOk (g : BitVec 4) : Bool := g != 8
/-- R63: a vector source field of a V slot names a register of the slot's cluster, the tap, the pop or the peek. -/
def vsrcOk (a : BitVec 5) : Bool := a.toNat ≤ 18
/-- R63: a vector destination field of a V slot names a register. -/
def vdstOk (d : BitVec 5) : Bool := d.toNat < 16
/-- R66: type codes 0-3 are floating. -/
def isFloatT (t : BitVec 3) : Bool := t.toNat < 4
/-- R66: a rounding code. -/
def roundOk (m : BitVec 3) : Bool := m.toNat ≤ 4
/-- R66: m 2:0 of a form that rounds or saturates. -/
def mSat (t m : BitVec 3) : Bool := if isFloatT t then roundOk m else (m.extractLsb' 0 2).toNat ≤ 1
/-- R66: m 2:0 of a form that neither rounds nor saturates. -/
def mPlain (t m : BitVec 3) : Bool := if isFloatT t then m == 0 else m.extractLsb' 0 2 == 0
/-- R164: m 2:0 of VABS and VNEG, which saturate but do not round. -/
def mAbs (t m : BitVec 3) : Bool := if isFloatT t then m == 0 else (m.extractLsb' 0 2).toNat ≤ 1
/-- R164: m 2:0 of a logic or shift form, integer types only. -/
def mLogic (t m : BitVec 3) : Bool := !isFloatT t && m.extractLsb' 0 2 == 0
/-- Width in bits of a type code (R66, R159). -/
def widthT (t : BitVec 3) : Nat :=
  match t.toNat with
  | 0 => 64 | 1 => 32 | 2 => 16 | 3 => 16 | 4 => 64 | 5 => 32 | 6 => 16 | _ => 8
/-- R209: the row index limit of TWROW and TRROW by type. -/
def rowIndexOk (y : BitVec 3) (i : BitVec 8) : Bool :=
  match widthT y with
  | 8 => true
  | 16 => i.toNat < 128
  | _ => i.toNat < 64
/-- R209: the column index limit of TRCOL by type. -/
def colIndexOk (y : BitVec 3) (i : BitVec 8) : Bool := widthT y == 8 || i.toNat < 128
/-- R314: the FATOM operation codes. -/
def fatomOk (o : BitVec 5) : Bool :=
  let c := (o.extractLsb' 0 4).toNat
  c ≤ 8 || (c == 9 && !o.getLsbD 4)

/-- The operand checks of R76 for every constructor; events carry no fields that an encoding could spoil. -/
def Instr.wf : Instr → Bool
  | .nop _ g => guardOk g
  | .add g _ _ _ => guardOk g
  | .sub g _ _ _ => guardOk g
  | .mul g _ _ _ => guardOk g
  | .mulhi g _ _ _ => guardOk g
  | .mulhn g _ _ _ => guardOk g
  | .div g _ _ _ => guardOk g
  | .divn g _ _ _ => guardOk g
  | .rem g _ _ _ => guardOk g
  | .remn g _ _ _ => guardOk g
  | .and g _ _ _ => guardOk g
  | .or g _ _ _ => guardOk g
  | .xor g _ _ _ => guardOk g
  | .shl g _ _ _ => guardOk g
  | .shr g _ _ _ => guardOk g
  | .sra g _ _ _ => guardOk g
  | .min g _ _ _ => guardOk g
  | .max g _ _ _ => guardOk g
  | .minn g _ _ _ => guardOk g
  | .maxn g _ _ _ => guardOk g
  | .clz g _ _ => guardOk g
  | .popc g _ _ => guardOk g
  | .sel g _ _ _ _ => guardOk g
  | .scmp g _ _ _ c => guardOk g && c.toNat ≤ 9
  | .scmpl g _ _ c => guardOk g && c.toNat ≤ 9
  | .addi g _ _ _ => guardOk g
  | .andi g _ _ _ => guardOk g
  | .ori g _ _ _ => guardOk g
  | .xori g _ _ _ => guardOk g
  | .shli g _ _ i => guardOk g && i.toNat < 64
  | .shri g _ _ i => guardOk g && i.toNat < 64
  | .srai g _ _ i => guardOk g && i.toNat < 64
  | .ldi g _ _ => guardOk g
  | .lit g _ => guardOk g
  | .lith g _ => guardOk g
  | .lqpop g _ => guardOk g
  | .lqpeek g _ => guardOk g
  | .br g _ => guardOk g
  | .call g _ => guardOk g
  | .bri g _ => guardOk g
  | .ret g => guardOk g
  | .loop g _ e => guardOk g && e != 0
  | .loopi g c e => guardOk g && c != 0 && e != 0
  | .bswap g o => guardOk g && o.toNat < 16384
  | .ifence g => guardOk g
  | .tick g => guardOk g
  | .snow g _ _ => guardOk g
  | .sclr g _ => guardOk g
  | .waitp g _ => guardOk g
  | .arrive g _ => guardOk g
  | .waitc g _ => guardOk g
  | .mwait g _ _ => guardOk g
  | .fence g s => guardOk g && s.toNat ≤ 4
  | .gauge g _ => guardOk g
  | .cycles g _ => guardOk g
  | .fmtset g _ => guardOk g
  | .fmtget g _ => guardOk g
  | .gseed g _ _ => guardOk g
  | .gbest g _ s => guardOk g && s.toNat ≤ 1
  | .tstat g _ _ => guardOk g
  | .sqpop g _ => guardOk g
  | .ctlrd g _ _ => guardOk g
  | .ctlwr g _ _ => guardOk g
  | .trap g _ => guardOk g
  | .retire g => guardOk g
  | .spawn g _ _ _ => guardOk g
  | .fresume g _ x => guardOk g && x.toNat ≤ 2
  | .brk g _ => guardOk g
  | .vadd _ g d a b t m => guardOk g && vdstOk d && vsrcOk a && vsrcOk b && mSat t m
  | .vsub _ g d a b t m => guardOk g && vdstOk d && vsrcOk a && vsrcOk b && mSat t m
  | .vmul _ g d a b t m => guardOk g && vdstOk d && vsrcOk a && vsrcOk b && mSat t m
  | .vmin _ g d a b t m => guardOk g && vdstOk d && vsrcOk a && vsrcOk b && mPlain t m
  | .vmax _ g d a b t m => guardOk g && vdstOk d && vsrcOk a && vsrcOk b && mPlain t m
  | .vabs _ g d a t m => guardOk g && vdstOk d && vsrcOk a && mAbs t m
  | .vneg _ g d a t m => guardOk g && vdstOk d && vsrcOk a && mAbs t m
  | .vcmp _ g _ a b t u _ => guardOk g && vsrcOk a && vsrcOk b && (!isFloatT t || u == 0)
  | .vsel _ g d a b _ _ => guardOk g && vdstOk d && vsrcOk a && vsrcOk b
  | .vand _ g d a b t m => guardOk g && vdstOk d && vsrcOk a && vsrcOk b && mLogic t m
  | .vor _ g d a b t m => guardOk g && vdstOk d && vsrcOk a && vsrcOk b && mLogic t m
  | .vxor _ g d a b t m => guardOk g && vdstOk d && vsrcOk a && vsrcOk b && mLogic t m
  | .vshl _ g d a b t m => guardOk g && vdstOk d && vsrcOk a && vsrcOk b && mLogic t m
  | .vshr _ g d a b t m => guardOk g && vdstOk d && vsrcOk a && vsrcOk b && mLogic t m
  | .vsra _ g d a b t m => guardOk g && vdstOk d && vsrcOk a && vsrcOk b && mLogic t m
  | .vcvt _ g d a x y s t r =>
      guardOk g && vdstOk d && vsrcOk a
      && (if isFloatT t then x == 0 && roundOk r else r.toNat ≤ 1)
      && (!isFloatT s || y == 0)
  | .vdiv _ g d a b t r => guardOk g && vdstOk d && vsrcOk a && vsrcOk b && isFloatT t && roundOk r
  | .vsqrt _ g d a t r => guardOk g && vdstOk d && vsrcOk a && isFloatT t && roundOk r
  | .vrcp _ g d a t r => guardOk g && vdstOk d && vsrcOk a && isFloatT t && roundOk r
  | .vrsq _ g d a t r => guardOk g && vdstOk d && vsrcOk a && isFloatT t && roundOk r
  | .vexp2 _ g d a t r => guardOk g && vdstOk d && vsrcOk a && isFloatT t && roundOk r
  | .vlog2 _ g d a t r => guardOk g && vdstOk d && vsrcOk a && isFloatT t && roundOk r
  | .vredadd _ g d a t m => guardOk g && vdstOk d && vsrcOk a && mSat t m
  | .vredmax _ g d a t m => guardOk g && vdstOk d && vsrcOk a && mPlain t m
  | .vredmin _ g d a t m => guardOk g && vdstOk d && vsrcOk a && mPlain t m
  | .vargmx _ g d a t m => guardOk g && vdstOk d && vsrcOk a && mPlain t m
  | .vbcast _ g d _ _ => guardOk g && vdstOk d
  | .vperm _ g d a b _ => guardOk g && vdstOk d && vsrcOk a && vsrcOk b
  | .vmov _ g d a => guardOk g && vdstOk d && vsrcOk a
  | .xmov _ g _ a => guardOk g && vsrcOk a
  | .vfma_d _ g d a b c _ => guardOk g && vdstOk d && vsrcOk a && vsrcOk b && vsrcOk c
  | .vfma_s _ g d a b c _ => guardOk g && vdstOk d && vsrcOk a && vsrcOk b && vsrcOk c
  | .vfma_h _ g d a b c _ => guardOk g && vdstOk d && vsrcOk a && vsrcOk b && vsrcOk c
  | .vfma_b _ g d a b c _ => guardOk g && vdstOk d && vsrcOk a && vsrcOk b && vsrcOk c
  | .bclr _ g _ => guardOk g
  | .bacc _ g _ a b t => guardOk g && vsrcOk a && vsrcOk b && isFloatT t
  | .badd _ g _ _ => guardOk g
  | .brnd _ g d _ t r => guardOk g && vdstOk d && isFloatT t && roundOk r
  | .bsgn _ g _ _ _ => guardOk g
  | .bmovb _ g d _ _ => guardOk g && vdstOk d
  | .vsumm _ g _ _ => guardOk g
  | .vcount _ g _ _ => guardOk g
  | .kand _ g _ _ _ => guardOk g
  | .kor _ g _ _ _ => guardOk g
  | .kxor _ g _ _ _ => guardOk g
  | .knot _ g _ _ => guardOk g
  | .sfeed _ g a _ => guardOk g && vsrcOk a
  | .twrow _ g _ a i y => guardOk g && vsrcOk a && rowIndexOk y i
  | .trcol _ g d _ i y => guardOk g && vdstOk d && colIndexOk y i
  | .trrow _ g d _ i y => guardOk g && vdstOk d && rowIndexOk y i
  | .psend _ g a _ => guardOk g && vsrcOk a
  | .ptake _ g d _ => guardOk g && vdstOk d
  | .plook _ g d _ => guardOk g && vdstOk d
  | .vsnorm _ g d a b t r => guardOk g && vdstOk d && vsrcOk a && vsrcOk b && isFloatT t && roundOk r
  | .vcbq _ g d a t => guardOk g && vdstOk d && vsrcOk a && isFloatT t
  | .vcbx _ g d a t => guardOk g && vdstOk d && vsrcOk a && isFloatT t
  | .cbld _ g a t => guardOk g && vsrcOk a && isFloatT t
  | .mpush g _ _ _ _ _ m => guardOk g && m.toNat ≤ 1
  | .mshift g => guardOk g
  | .macc g _ _ _ => guardOk g
  | .mdrain g _ _ m => guardOk g && m.toNat ≤ 2
  | .mclr g => guardOk g
  | .mmask g _ _ => guardOk g
  | .mpushg g _ _ _ _ m => guardOk g && m.toNat ≤ 1
  | .mgload g _ _ _ => guardOk g
  | .msrch g _ _ _ _ => guardOk g
  | .msproj g _ _ n _ => guardOk g && n.toNat ≤ 3
  | .mpushd g _ _ _ _ _ m => guardOk g && m.toNat ≤ 1
  | .lda _ g _ _ _ => guardOk g
  | .vlda _ g _ _ => guardOk g
  | .tlrow _ g _ _ _ => guardOk g
  | .st _ g _ _ _ _ => guardOk g
  | .vst _ g _ _ _ => guardOk g
  | .tsrow _ g _ _ _ => guardOk g
  | .atom _ g _ _ _ o u w => guardOk g && o != 7 && (u == 0 || o == 4 || o == 5) && 2 ≤ w.toNat
  | .aupd _ g _ _ => guardOk g
  | .aupds _ g _ _ => guardOk g
  | .fcopy _ g _ _ _ _ => guardOk g
  | .fshape _ g _ _ => guardOk g
  | .fstamp _ g _ _ => guardOk g
  | .fquant _ g _ _ _ _ => guardOk g
  | .fdedup _ g _ _ _ _ _ => guardOk g
  | .falloc _ g _ _ _ c _ => guardOk g && c.toNat ≤ 18
  | .ffree _ g _ _ _ _ => guardOk g
  | .fatom _ g _ _ _ o _ => guardOk g && fatomOk o
  | .fmtag _ g _ _ _ => guardOk g
  | .fkvmap _ g _ _ _ _ => guardOk g
  | .fcard _ g _ _ => guardOk g
  | .fsum _ g _ _ _ _ => guardOk g
  | .froom _ g _ => guardOk g
  | .emptyBundle _ => true
  | .pauseOverdue _ => true
  | .idleCoreChoose _ => true
  | .admissionDecision => true
  | .headReserving _ => true
  | .startStep _ => true
  | .spawnStart _ _ => true
  | .cardDeliver _ => true
  | .cardComplete _ => true
  | .cardWatchdog _ => true
  | .faultRecordWrite _ _ => true
  | .handlerStart _ _ => true
  | .completionRecordWrite _ => true
  | .evictionRequest _ => true
  | .evictionSave _ => true
  | .checkpointRequest _ => true
  | .checkpointComplete _ => true
  | .gangTerminate _ => true
  | .eventRingTimeTrigger _ => true
  | .econsWrite _ _ => true
  | .eventRingOvClear _ _ => true
  | .qctlErrClear _ => true
  | .qctlEnable _ _ => true
  | .registerWrite _ _ _ => true
  | .mownClaim _ => true
  | .mownRelease _ => true
  | .mownErrorClear _ => true
  | .hostLinkDown _ => true
  | .tripClear _ _ _ => true
  | .peakClear _ _ => true
  | .droopReport _ _ => true
  | .gaugeUnsync => true
  | .sizenFlit _ _ => true
  | .linkFail _ => true
  | .deviceFailureRecovery _ _ => true
  | .powerUp _ _ => true
  | .bootRetry _ _ => true
  | .standbyEnter => true
  | .standbyWake _ => true
  | .thermalMonitor _ _ _ => true
  | .attestationRequest _ => true
  | .heartwoodTableChange _ => true
  | .ferryIssue _ => true
  | .ferryChunk _ _ => true
  | .pageArrive _ _ _ => true
  | .stampWrite _ _ => true
  | .countedLine _ _ => true
  | .fmtagApply _ _ => true
  | .migrationStart _ _ _ => true
  | .migrationCopy _ _ => true
  | .requantBlock _ _ _ => true
  | .cowService _ _ => true
  | .memoryPoison _ _ => true
  | .coreStorageError _ _ => true
  | .searchJobEnd _ => true
  | .arriveCount _ _ => true
  | .peerGrant _ _ => true
  | .illegalOpcode _ _ => true
  | .sizenLinkTrained _ _ => true
  | .hostPortTraining _ _ _ => true
  | .cxlMemAccess _ _ _ _ => true

end Sys2Proof
end

