-- ==== Sys2Proof/Decode.lean ====
section
/-! DEFINITION. The decoder of slot words (R59-R74) and the encoder written from the same tables. -/
namespace Sys2Proof

/-- Why a slot word is not an instruction, in the order of R76. -/
inductive DecErr where
  /-- R74: the opcode is missing from the slot's map (0x01) -/
  | illegalOpcode
  /-- R59: guard 1000 (0x04) -/
  | illegalGuard
  /-- R62: a nonzero unused bit or a reserved field value (0x06) -/
  | reservedOperand
  deriving DecidableEq, Repr

/-- Bits 31:25 of a slot word (R59). -/
def opcodeOf (w : Word32) : BitVec 7 := w.extractLsb' 25 7
/-- Bits 24:21 of a slot word (R59). -/
def guardOf (w : Word32) : BitVec 4 := w.extractLsb' 21 4

/-- R69: the S-slot map. The first part of an answer holds the bits that must be zero (R62). -/
def rawScalar (w : Word32) : Option (Word32 × Instr) :=
  let g := guardOf w
  match (opcodeOf w).toNat with
  | 0x00 => some (0x001FFFFF, .nop .S g)
  | 0x01 => some (0x0000003F, .add g (w.extractLsb' 16 5) (w.extractLsb' 11 5) (w.extractLsb' 6 5))
  | 0x02 => some (0x0000003F, .sub g (w.extractLsb' 16 5) (w.extractLsb' 11 5) (w.extractLsb' 6 5))
  | 0x03 => some (0x0000003F, .mul g (w.extractLsb' 16 5) (w.extractLsb' 11 5) (w.extractLsb' 6 5))
  | 0x04 => some (0x0000003F, .mulhi g (w.extractLsb' 16 5) (w.extractLsb' 11 5) (w.extractLsb' 6 5))
  | 0x05 => some (0x0000003F, .mulhn g (w.extractLsb' 16 5) (w.extractLsb' 11 5) (w.extractLsb' 6 5))
  | 0x06 => some (0x0000003F, .div g (w.extractLsb' 16 5) (w.extractLsb' 11 5) (w.extractLsb' 6 5))
  | 0x07 => some (0x0000003F, .divn g (w.extractLsb' 16 5) (w.extractLsb' 11 5) (w.extractLsb' 6 5))
  | 0x08 => some (0x0000003F, .rem g (w.extractLsb' 16 5) (w.extractLsb' 11 5) (w.extractLsb' 6 5))
  | 0x09 => some (0x0000003F, .remn g (w.extractLsb' 16 5) (w.extractLsb' 11 5) (w.extractLsb' 6 5))
  | 0x0A => some (0x0000003F, .and g (w.extractLsb' 16 5) (w.extractLsb' 11 5) (w.extractLsb' 6 5))
  | 0x0B => some (0x0000003F, .or g (w.extractLsb' 16 5) (w.extractLsb' 11 5) (w.extractLsb' 6 5))
  | 0x0C => some (0x0000003F, .xor g (w.extractLsb' 16 5) (w.extractLsb' 11 5) (w.extractLsb' 6 5))
  | 0x0D => some (0x0000003F, .shl g (w.extractLsb' 16 5) (w.extractLsb' 11 5) (w.extractLsb' 6 5))
  | 0x0E => some (0x0000003F, .shr g (w.extractLsb' 16 5) (w.extractLsb' 11 5) (w.extractLsb' 6 5))
  | 0x0F => some (0x0000003F, .sra g (w.extractLsb' 16 5) (w.extractLsb' 11 5) (w.extractLsb' 6 5))
  | 0x10 => some (0x0000003F, .min g (w.extractLsb' 16 5) (w.extractLsb' 11 5) (w.extractLsb' 6 5))
  | 0x11 => some (0x0000003F, .max g (w.extractLsb' 16 5) (w.extractLsb' 11 5) (w.extractLsb' 6 5))
  | 0x12 => some (0x0000003F, .minn g (w.extractLsb' 16 5) (w.extractLsb' 11 5) (w.extractLsb' 6 5))
  | 0x13 => some (0x0000003F, .maxn g (w.extractLsb' 16 5) (w.extractLsb' 11 5) (w.extractLsb' 6 5))
  | 0x14 => some (0x000007FF, .clz g (w.extractLsb' 16 5) (w.extractLsb' 11 5))
  | 0x15 => some (0x000007FF, .popc g (w.extractLsb' 16 5) (w.extractLsb' 11 5))
  | 0x16 => some (0x00000038, .sel g (w.extractLsb' 16 5) (w.extractLsb' 11 5) (w.extractLsb' 6 5) (w.extractLsb' 0 3))
  | 0x17 => some (0x00180030, .scmp g (w.extractLsb' 16 3) (w.extractLsb' 11 5) (w.extractLsb' 6 5) (w.extractLsb' 0 4))
  | 0x18 => some (0x001807F0, .scmpl g (w.extractLsb' 16 3) (w.extractLsb' 11 5) (w.extractLsb' 0 4))
  | 0x20 => some (0x00000000, .addi g (w.extractLsb' 16 5) (w.extractLsb' 11 5) (w.extractLsb' 0 11))
  | 0x21 => some (0x00000000, .andi g (w.extractLsb' 16 5) (w.extractLsb' 11 5) (w.extractLsb' 0 11))
  | 0x22 => some (0x00000000, .ori g (w.extractLsb' 16 5) (w.extractLsb' 11 5) (w.extractLsb' 0 11))
  | 0x23 => some (0x00000000, .xori g (w.extractLsb' 16 5) (w.extractLsb' 11 5) (w.extractLsb' 0 11))
  | 0x24 => some (0x00000000, .shli g (w.extractLsb' 16 5) (w.extractLsb' 11 5) (w.extractLsb' 0 11))
  | 0x25 => some (0x00000000, .shri g (w.extractLsb' 16 5) (w.extractLsb' 11 5) (w.extractLsb' 0 11))
  | 0x26 => some (0x00000000, .srai g (w.extractLsb' 16 5) (w.extractLsb' 11 5) (w.extractLsb' 0 11))
  | 0x28 => some (0x00000000, .ldi g (w.extractLsb' 16 5) (w.extractLsb' 0 16))
  | 0x29 => some (0x0000FFFF, .lit g (w.extractLsb' 16 5))
  | 0x2A => some (0x0000FFFF, .lith g (w.extractLsb' 16 5))
  | 0x30 => some (0x0000FFFF, .lqpop g (w.extractLsb' 16 5))
  | 0x31 => some (0x0000FFFF, .lqpeek g (w.extractLsb' 16 5))
  | 0x40 => some (0x00000000, .br g (w.extractLsb' 0 21))
  | 0x41 => some (0x00000000, .call g (w.extractLsb' 0 21))
  | 0x42 => some (0x001F07FF, .bri g (w.extractLsb' 11 5))
  | 0x43 => some (0x001FFFFF, .ret g)
  | 0x44 => some (0x00000000, .loop g (w.extractLsb' 16 5) (w.extractLsb' 0 16))
  | 0x45 => some (0x00000000, .loopi g (w.extractLsb' 12 9) (w.extractLsb' 0 12))
  | 0x46 => some (0x00000000, .bswap g (w.extractLsb' 0 21))
  | 0x47 => some (0x001FFFFF, .ifence g)
  | 0x50 => some (0x001FFFFF, .tick g)
  | 0x51 => some (0x0000FF00, .snow g (w.extractLsb' 16 5) (w.extractLsb' 0 8))
  | 0x52 => some (0x001FFF00, .sclr g (w.extractLsb' 0 8))
  | 0x53 => some (0x001FFFC0, .waitp g (w.extractLsb' 0 6))
  | 0x54 => some (0x001FFE00, .arrive g (w.extractLsb' 0 9))
  | 0x55 => some (0x001FFE00, .waitc g (w.extractLsb' 0 9))
  | 0x56 => some (0x001F003F, .mwait g (w.extractLsb' 11 5) (w.extractLsb' 6 5))
  | 0x57 => some (0x001FFFF8, .fence g (w.extractLsb' 0 3))
  | 0x58 => some (0x0000FFFF, .gauge g (w.extractLsb' 16 5))
  | 0x59 => some (0x0000FFFF, .cycles g (w.extractLsb' 16 5))
  | 0x5A => some (0x001F07FF, .fmtset g (w.extractLsb' 11 5))
  | 0x5B => some (0x0000FFFF, .fmtget g (w.extractLsb' 16 5))
  | 0x5C => some (0x001C07FF, .gseed g (w.extractLsb' 16 2) (w.extractLsb' 11 5))
  | 0x5D => some (0x0000F800, .gbest g (w.extractLsb' 16 5) (w.extractLsb' 0 11))
  | 0x5E => some (0x000007FF, .tstat g (w.extractLsb' 16 5) (w.extractLsb' 11 5))
  | 0x5F => some (0x0000FFFF, .sqpop g (w.extractLsb' 16 5))
  | 0x60 => some (0x0000FFC0, .ctlrd g (w.extractLsb' 16 5) (w.extractLsb' 0 6))
  | 0x61 => some (0x0000FFC0, .ctlwr g (w.extractLsb' 16 5) (w.extractLsb' 0 6))
  | 0x62 => some (0x001F0000, .trap g (w.extractLsb' 0 16))
  | 0x63 => some (0x001FFFFF, .retire g)
  | 0x64 => some (0x0000003F, .spawn g (w.extractLsb' 16 5) (w.extractLsb' 11 5) (w.extractLsb' 6 5))
  | 0x65 => some (0x001F0000, .fresume g (w.extractLsb' 11 5) (w.extractLsb' 0 11))
  | 0x66 => some (0x001F0000, .brk g (w.extractLsb' 0 16))
  | _ => none

/-- R70: the V-slot map. The first part of an answer holds the bits that must be zero (R62). -/
def rawVector (sl : VSlot) (w : Word32) : Option (Word32 × Instr) :=
  let g := guardOf w
  match (opcodeOf w).toNat with
  | 0x00 => some (0x001FFFFF, .nop sl.slot g)
  | 0x01 => some (0x00000000, .vadd sl g (w.extractLsb' 16 5) (w.extractLsb' 11 5) (w.extractLsb' 6 5) (w.extractLsb' 3 3) (w.extractLsb' 0 3))
  | 0x02 => some (0x00000000, .vsub sl g (w.extractLsb' 16 5) (w.extractLsb' 11 5) (w.extractLsb' 6 5) (w.extractLsb' 3 3) (w.extractLsb' 0 3))
  | 0x03 => some (0x00000000, .vmul sl g (w.extractLsb' 16 5) (w.extractLsb' 11 5) (w.extractLsb' 6 5) (w.extractLsb' 3 3) (w.extractLsb' 0 3))
  | 0x04 => some (0x00000000, .vmin sl g (w.extractLsb' 16 5) (w.extractLsb' 11 5) (w.extractLsb' 6 5) (w.extractLsb' 3 3) (w.extractLsb' 0 3))
  | 0x05 => some (0x00000000, .vmax sl g (w.extractLsb' 16 5) (w.extractLsb' 11 5) (w.extractLsb' 6 5) (w.extractLsb' 3 3) (w.extractLsb' 0 3))
  | 0x06 => some (0x000007C0, .vabs sl g (w.extractLsb' 16 5) (w.extractLsb' 11 5) (w.extractLsb' 3 3) (w.extractLsb' 0 3))
  | 0x07 => some (0x000007C0, .vneg sl g (w.extractLsb' 16 5) (w.extractLsb' 11 5) (w.extractLsb' 3 3) (w.extractLsb' 0 3))
  | 0x08 => some (0x00180000, .vcmp sl g (w.extractLsb' 16 3) (w.extractLsb' 11 5) (w.extractLsb' 6 5) (w.extractLsb' 3 3) (w.extractLsb' 2 1) (w.extractLsb' 0 2))
  | 0x09 => some (0x00000000, .vsel sl g (w.extractLsb' 16 5) (w.extractLsb' 11 5) (w.extractLsb' 6 5) (w.extractLsb' 3 3) (w.extractLsb' 0 3))
  | 0x0A => some (0x00000000, .vand sl g (w.extractLsb' 16 5) (w.extractLsb' 11 5) (w.extractLsb' 6 5) (w.extractLsb' 3 3) (w.extractLsb' 0 3))
  | 0x0B => some (0x00000000, .vor sl g (w.extractLsb' 16 5) (w.extractLsb' 11 5) (w.extractLsb' 6 5) (w.extractLsb' 3 3) (w.extractLsb' 0 3))
  | 0x0C => some (0x00000000, .vxor sl g (w.extractLsb' 16 5) (w.extractLsb' 11 5) (w.extractLsb' 6 5) (w.extractLsb' 3 3) (w.extractLsb' 0 3))
  | 0x0D => some (0x00000000, .vshl sl g (w.extractLsb' 16 5) (w.extractLsb' 11 5) (w.extractLsb' 6 5) (w.extractLsb' 3 3) (w.extractLsb' 0 3))
  | 0x0E => some (0x00000000, .vshr sl g (w.extractLsb' 16 5) (w.extractLsb' 11 5) (w.extractLsb' 6 5) (w.extractLsb' 3 3) (w.extractLsb' 0 3))
  | 0x0F => some (0x00000000, .vsra sl g (w.extractLsb' 16 5) (w.extractLsb' 11 5) (w.extractLsb' 6 5) (w.extractLsb' 3 3) (w.extractLsb' 0 3))
  | 0x10 => some (0x00000000, .vcvt sl g (w.extractLsb' 16 5) (w.extractLsb' 11 5) (w.extractLsb' 10 1) (w.extractLsb' 9 1) (w.extractLsb' 6 3) (w.extractLsb' 3 3) (w.extractLsb' 0 3))
  | 0x11 => some (0x00000000, .vdiv sl g (w.extractLsb' 16 5) (w.extractLsb' 11 5) (w.extractLsb' 6 5) (w.extractLsb' 3 3) (w.extractLsb' 0 3))
  | 0x12 => some (0x000007C0, .vsqrt sl g (w.extractLsb' 16 5) (w.extractLsb' 11 5) (w.extractLsb' 3 3) (w.extractLsb' 0 3))
  | 0x13 => some (0x000007C0, .vrcp sl g (w.extractLsb' 16 5) (w.extractLsb' 11 5) (w.extractLsb' 3 3) (w.extractLsb' 0 3))
  | 0x14 => some (0x000007C0, .vrsq sl g (w.extractLsb' 16 5) (w.extractLsb' 11 5) (w.extractLsb' 3 3) (w.extractLsb' 0 3))
  | 0x15 => some (0x000007C0, .vexp2 sl g (w.extractLsb' 16 5) (w.extractLsb' 11 5) (w.extractLsb' 3 3) (w.extractLsb' 0 3))
  | 0x16 => some (0x000007C0, .vlog2 sl g (w.extractLsb' 16 5) (w.extractLsb' 11 5) (w.extractLsb' 3 3) (w.extractLsb' 0 3))
  | 0x17 => some (0x000007C0, .vredadd sl g (w.extractLsb' 16 5) (w.extractLsb' 11 5) (w.extractLsb' 3 3) (w.extractLsb' 0 3))
  | 0x18 => some (0x000007C0, .vredmax sl g (w.extractLsb' 16 5) (w.extractLsb' 11 5) (w.extractLsb' 3 3) (w.extractLsb' 0 3))
  | 0x19 => some (0x000007C0, .vredmin sl g (w.extractLsb' 16 5) (w.extractLsb' 11 5) (w.extractLsb' 3 3) (w.extractLsb' 0 3))
  | 0x1A => some (0x000007C0, .vargmx sl g (w.extractLsb' 16 5) (w.extractLsb' 11 5) (w.extractLsb' 3 3) (w.extractLsb' 0 3))
  | 0x1B => some (0x000007C7, .vbcast sl g (w.extractLsb' 16 5) (w.extractLsb' 11 5) (w.extractLsb' 3 3))
  | 0x1C => some (0x00000007, .vperm sl g (w.extractLsb' 16 5) (w.extractLsb' 11 5) (w.extractLsb' 6 5) (w.extractLsb' 3 3))
  | 0x1D => some (0x000007FF, .vmov sl g (w.extractLsb' 16 5) (w.extractLsb' 11 5))
  | 0x1E => some (0x000007FF, .xmov sl g (w.extractLsb' 16 5) (w.extractLsb' 11 5))
  | 0x20 => some (0x00000000, .vfma_d sl g (w.extractLsb' 16 5) (w.extractLsb' 11 5) (w.extractLsb' 6 5) (w.extractLsb' 1 5) (w.extractLsb' 0 1))
  | 0x21 => some (0x00000000, .vfma_s sl g (w.extractLsb' 16 5) (w.extractLsb' 11 5) (w.extractLsb' 6 5) (w.extractLsb' 1 5) (w.extractLsb' 0 1))
  | 0x22 => some (0x00000000, .vfma_h sl g (w.extractLsb' 16 5) (w.extractLsb' 11 5) (w.extractLsb' 6 5) (w.extractLsb' 1 5) (w.extractLsb' 0 1))
  | 0x23 => some (0x00000000, .vfma_b sl g (w.extractLsb' 16 5) (w.extractLsb' 11 5) (w.extractLsb' 6 5) (w.extractLsb' 1 5) (w.extractLsb' 0 1))
  | 0x28 => some (0x001CFFFF, .bclr sl g (w.extractLsb' 16 2))
  | 0x29 => some (0x001C0007, .bacc sl g (w.extractLsb' 16 2) (w.extractLsb' 11 5) (w.extractLsb' 6 5) (w.extractLsb' 3 3))
  | 0x2A => some (0x001CE7FF, .badd sl g (w.extractLsb' 16 2) (w.extractLsb' 11 2))
  | 0x2B => some (0x0000E7C0, .brnd sl g (w.extractLsb' 16 5) (w.extractLsb' 11 2) (w.extractLsb' 3 3) (w.extractLsb' 0 3))
  | 0x2C => some (0x0018E7FC, .bsgn sl g (w.extractLsb' 16 3) (w.extractLsb' 11 2) (w.extractLsb' 0 2))
  | 0x2D => some (0x0000E7FE, .bmovb sl g (w.extractLsb' 16 5) (w.extractLsb' 11 2) (w.extractLsb' 0 1))
  | 0x30 => some (0x0018C7FF, .vsumm sl g (w.extractLsb' 16 3) (w.extractLsb' 11 3))
  | 0x31 => some (0x0000C7FF, .vcount sl g (w.extractLsb' 16 5) (w.extractLsb' 11 3))
  | 0x32 => some (0x0018C63F, .kand sl g (w.extractLsb' 16 3) (w.extractLsb' 11 3) (w.extractLsb' 6 3))
  | 0x33 => some (0x0018C63F, .kor sl g (w.extractLsb' 16 3) (w.extractLsb' 11 3) (w.extractLsb' 6 3))
  | 0x34 => some (0x0018C63F, .kxor sl g (w.extractLsb' 16 3) (w.extractLsb' 11 3) (w.extractLsb' 6 3))
  | 0x35 => some (0x0018C7FF, .knot sl g (w.extractLsb' 16 3) (w.extractLsb' 11 3))
  | 0x40 => some (0x001F0007, .sfeed sl g (w.extractLsb' 11 5) (w.extractLsb' 3 8))
  | 0x48 => some (0x00000000, .twrow sl g (w.extractLsb' 16 5) (w.extractLsb' 11 5) (w.extractLsb' 3 8) (w.extractLsb' 0 3))
  | 0x49 => some (0x00000000, .trcol sl g (w.extractLsb' 16 5) (w.extractLsb' 11 5) (w.extractLsb' 3 8) (w.extractLsb' 0 3))
  | 0x4A => some (0x00000000, .trrow sl g (w.extractLsb' 16 5) (w.extractLsb' 11 5) (w.extractLsb' 3 8) (w.extractLsb' 0 3))
  | 0x50 => some (0x001F001F, .psend sl g (w.extractLsb' 11 5) (w.extractLsb' 5 6))
  | 0x51 => some (0x0000F81F, .ptake sl g (w.extractLsb' 16 5) (w.extractLsb' 5 6))
  | 0x52 => some (0x0000F81F, .plook sl g (w.extractLsb' 16 5) (w.extractLsb' 5 6))
  | 0x58 => some (0x00000000, .vsnorm sl g (w.extractLsb' 16 5) (w.extractLsb' 11 5) (w.extractLsb' 6 5) (w.extractLsb' 3 3) (w.extractLsb' 0 3))
  | 0x5C => some (0x000007C7, .vcbq sl g (w.extractLsb' 16 5) (w.extractLsb' 11 5) (w.extractLsb' 3 3))
  | 0x5D => some (0x000007C7, .vcbx sl g (w.extractLsb' 16 5) (w.extractLsb' 11 5) (w.extractLsb' 3 3))
  | 0x5E => some (0x001F07C7, .cbld sl g (w.extractLsb' 11 5) (w.extractLsb' 3 3))
  | _ => none

/-- R71: the M-slot map. The first part of an answer holds the bits that must be zero (R62). -/
def rawBeat (w : Word32) : Option (Word32 × Instr) :=
  let g := guardOf w
  match (opcodeOf w).toNat with
  | 0x00 => some (0x001FFFFF, .nop .M g)
  | 0x01 => some (0x00000000, .mpush g (w.extractLsb' 16 5) (w.extractLsb' 11 5) (w.extractLsb' 4 7) (w.extractLsb' 3 1) (w.extractLsb' 2 1) (w.extractLsb' 0 2))
  | 0x02 => some (0x001FFFFF, .mshift g)
  | 0x03 => some (0x0000F807, .macc g (w.extractLsb' 16 5) (w.extractLsb' 4 7) (w.extractLsb' 3 1))
  | 0x04 => some (0x0000F80C, .mdrain g (w.extractLsb' 16 5) (w.extractLsb' 4 7) (w.extractLsb' 0 2))
  | 0x05 => some (0x001FFFFF, .mclr g)
  | 0x06 => some (0x0000007F, .mmask g (w.extractLsb' 14 7) (w.extractLsb' 7 7))
  | 0x07 => some (0x0000E004, .mpushg g (w.extractLsb' 16 5) (w.extractLsb' 11 2) (w.extractLsb' 4 7) (w.extractLsb' 3 1) (w.extractLsb' 0 2))
  | 0x08 => some (0x0000E7F7, .mgload g (w.extractLsb' 16 5) (w.extractLsb' 11 2) (w.extractLsb' 3 1))
  | 0x09 => some (0x0000E007, .msrch g (w.extractLsb' 16 5) (w.extractLsb' 11 2) (w.extractLsb' 4 7) (w.extractLsb' 3 1))
  | 0x0A => some (0x00000007, .msproj g (w.extractLsb' 16 5) (w.extractLsb' 11 5) (w.extractLsb' 4 7) (w.extractLsb' 3 1))
  | 0x0B => some (0x00000000, .mpushd g (w.extractLsb' 16 5) (w.extractLsb' 11 5) (w.extractLsb' 4 7) (w.extractLsb' 3 1) (w.extractLsb' 2 1) (w.extractLsb' 0 2))
  | _ => none

/-- R72: the map of C0 and C1. The first part of an answer holds the bits that must be zero (R62). -/
def rawCopy (sl : CSlot) (w : Word32) : Option (Word32 × Instr) :=
  let g := guardOf w
  match (opcodeOf w).toNat with
  | 0x00 => some (0x001FFFFF, .nop sl.slot g)
  | 0x01 => some (0x001F0000, .lda sl g (w.extractLsb' 11 5) (w.extractLsb' 9 2) (w.extractLsb' 0 9))
  | 0x02 => some (0x001F0600, .vlda sl g (w.extractLsb' 11 5) (w.extractLsb' 0 9))
  | 0x03 => some (0x00000700, .tlrow sl g (w.extractLsb' 16 5) (w.extractLsb' 11 5) (w.extractLsb' 0 8))
  | 0x04 => some (0x00000000, .st sl g (w.extractLsb' 16 5) (w.extractLsb' 11 5) (w.extractLsb' 9 2) (w.extractLsb' 0 9))
  | 0x05 => some (0x00000600, .vst sl g (w.extractLsb' 16 5) (w.extractLsb' 11 5) (w.extractLsb' 0 9))
  | 0x06 => some (0x00000700, .tsrow sl g (w.extractLsb' 16 5) (w.extractLsb' 11 5) (w.extractLsb' 0 8))
  | 0x07 => some (0x00000000, .atom sl g (w.extractLsb' 16 5) (w.extractLsb' 11 5) (w.extractLsb' 6 5) (w.extractLsb' 3 3) (w.extractLsb' 2 1) (w.extractLsb' 0 2))
  | 0x08 => some (0x0000F800, .aupd sl g (w.extractLsb' 16 5) (w.extractLsb' 0 11))
  | 0x09 => some (0x000007FF, .aupds sl g (w.extractLsb' 16 5) (w.extractLsb' 11 5))
  | 0x10 => some (0x00000001, .fcopy sl g (w.extractLsb' 16 5) (w.extractLsb' 11 5) (w.extractLsb' 6 5) (w.extractLsb' 1 5))
  | 0x11 => some (0x001F07C1, .fshape sl g (w.extractLsb' 11 5) (w.extractLsb' 1 5))
  | 0x12 => some (0x001F003F, .fstamp sl g (w.extractLsb' 11 5) (w.extractLsb' 6 5))
  | 0x13 => some (0x00000001, .fquant sl g (w.extractLsb' 16 5) (w.extractLsb' 11 5) (w.extractLsb' 6 5) (w.extractLsb' 1 5))
  | 0x14 => some (0x00000000, .fdedup sl g (w.extractLsb' 16 5) (w.extractLsb' 11 5) (w.extractLsb' 6 5) (w.extractLsb' 1 5) (w.extractLsb' 0 1))
  | 0x15 => some (0x00000000, .falloc sl g (w.extractLsb' 16 5) (w.extractLsb' 11 5) (w.extractLsb' 6 5) (w.extractLsb' 1 5) (w.extractLsb' 0 1))
  | 0x16 => some (0x0000003E, .ffree sl g (w.extractLsb' 16 5) (w.extractLsb' 11 5) (w.extractLsb' 6 5) (w.extractLsb' 0 1))
  | 0x17 => some (0x00000000, .fatom sl g (w.extractLsb' 16 5) (w.extractLsb' 11 5) (w.extractLsb' 6 5) (w.extractLsb' 1 5) (w.extractLsb' 0 1))
  | 0x18 => some (0x0000003F, .fmtag sl g (w.extractLsb' 16 5) (w.extractLsb' 11 5) (w.extractLsb' 6 5))
  | 0x19 => some (0x0000003E, .fkvmap sl g (w.extractLsb' 16 5) (w.extractLsb' 11 5) (w.extractLsb' 6 5) (w.extractLsb' 0 1))
  | 0x1A => some (0x000007FF, .fcard sl g (w.extractLsb' 16 5) (w.extractLsb' 11 5))
  | 0x1B => some (0x00000001, .fsum sl g (w.extractLsb' 16 5) (w.extractLsb' 11 5) (w.extractLsb' 6 5) (w.extractLsb' 1 5))
  | 0x1C => some (0x0000FFFF, .froom sl g (w.extractLsb' 16 5))
  | _ => none

/-- The map of each slot (R69-R72). -/
def rawDecode (sl : Slot) (w : Word32) : Option (Word32 × Instr) :=
  match sl with
  | .S => rawScalar w
  | .V0 => rawVector .v0 w
  | .V1 => rawVector .v1 w
  | .M => rawBeat w
  | .C0 => rawCopy .c0 w
  | .C1 => rawCopy .c1 w

/-- The instruction a slot word stands for, or the first check of R76 that it fails (the literal check of R56 apart,
which needs the header). Total on every word. -/
def decodeSlot (sl : Slot) (w : Word32) : Except DecErr Instr :=
  match rawDecode sl w with
  | none => .error .illegalOpcode
  | some (z, i) =>
    if guardOf w = 8 then .error .illegalGuard
    else if w &&& z ≠ 0 then .error .reservedOperand
    else if i.wf then .ok i
    else .error .reservedOperand

/-- The word of an instruction, laid out as R59, R61 and R69-R72 give it; an illegal opcode's word is the word itself,
and an event has none (0). -/
def encode : Instr → Word32
  | .nop _ g => 0x00#7 ++ g ++ 0#21
  | .add g d a b => 0x01#7 ++ g ++ d ++ a ++ b ++ 0#6
  | .sub g d a b => 0x02#7 ++ g ++ d ++ a ++ b ++ 0#6
  | .mul g d a b => 0x03#7 ++ g ++ d ++ a ++ b ++ 0#6
  | .mulhi g d a b => 0x04#7 ++ g ++ d ++ a ++ b ++ 0#6
  | .mulhn g d a b => 0x05#7 ++ g ++ d ++ a ++ b ++ 0#6
  | .div g d a b => 0x06#7 ++ g ++ d ++ a ++ b ++ 0#6
  | .divn g d a b => 0x07#7 ++ g ++ d ++ a ++ b ++ 0#6
  | .rem g d a b => 0x08#7 ++ g ++ d ++ a ++ b ++ 0#6
  | .remn g d a b => 0x09#7 ++ g ++ d ++ a ++ b ++ 0#6
  | .and g d a b => 0x0A#7 ++ g ++ d ++ a ++ b ++ 0#6
  | .or g d a b => 0x0B#7 ++ g ++ d ++ a ++ b ++ 0#6
  | .xor g d a b => 0x0C#7 ++ g ++ d ++ a ++ b ++ 0#6
  | .shl g d a b => 0x0D#7 ++ g ++ d ++ a ++ b ++ 0#6
  | .shr g d a b => 0x0E#7 ++ g ++ d ++ a ++ b ++ 0#6
  | .sra g d a b => 0x0F#7 ++ g ++ d ++ a ++ b ++ 0#6
  | .min g d a b => 0x10#7 ++ g ++ d ++ a ++ b ++ 0#6
  | .max g d a b => 0x11#7 ++ g ++ d ++ a ++ b ++ 0#6
  | .minn g d a b => 0x12#7 ++ g ++ d ++ a ++ b ++ 0#6
  | .maxn g d a b => 0x13#7 ++ g ++ d ++ a ++ b ++ 0#6
  | .clz g d a => 0x14#7 ++ g ++ d ++ a ++ 0#11
  | .popc g d a => 0x15#7 ++ g ++ d ++ a ++ 0#11
  | .sel g d a b f => 0x16#7 ++ g ++ d ++ a ++ b ++ 0#3 ++ f
  | .scmp g f a b c => 0x17#7 ++ g ++ 0#2 ++ f ++ a ++ b ++ 0#2 ++ c
  | .scmpl g f a c => 0x18#7 ++ g ++ 0#2 ++ f ++ a ++ 0#7 ++ c
  | .addi g d a i => 0x20#7 ++ g ++ d ++ a ++ i
  | .andi g d a i => 0x21#7 ++ g ++ d ++ a ++ i
  | .ori g d a i => 0x22#7 ++ g ++ d ++ a ++ i
  | .xori g d a i => 0x23#7 ++ g ++ d ++ a ++ i
  | .shli g d a i => 0x24#7 ++ g ++ d ++ a ++ i
  | .shri g d a i => 0x25#7 ++ g ++ d ++ a ++ i
  | .srai g d a i => 0x26#7 ++ g ++ d ++ a ++ i
  | .ldi g d i => 0x28#7 ++ g ++ d ++ i
  | .lit g d => 0x29#7 ++ g ++ d ++ 0#16
  | .lith g d => 0x2A#7 ++ g ++ d ++ 0#16
  | .lqpop g d => 0x30#7 ++ g ++ d ++ 0#16
  | .lqpeek g d => 0x31#7 ++ g ++ d ++ 0#16
  | .br g o => 0x40#7 ++ g ++ o
  | .call g o => 0x41#7 ++ g ++ o
  | .bri g a => 0x42#7 ++ g ++ 0#5 ++ a ++ 0#11
  | .ret g => 0x43#7 ++ g ++ 0#21
  | .loop g a e => 0x44#7 ++ g ++ a ++ e
  | .loopi g c e => 0x45#7 ++ g ++ c ++ e
  | .bswap g o => 0x46#7 ++ g ++ o
  | .ifence g => 0x47#7 ++ g ++ 0#21
  | .tick g => 0x50#7 ++ g ++ 0#21
  | .snow g d s => 0x51#7 ++ g ++ d ++ 0#8 ++ s
  | .sclr g s => 0x52#7 ++ g ++ 0#13 ++ s
  | .waitp g p => 0x53#7 ++ g ++ 0#15 ++ p
  | .arrive g c => 0x54#7 ++ g ++ 0#12 ++ c
  | .waitc g c => 0x55#7 ++ g ++ 0#12 ++ c
  | .mwait g a b => 0x56#7 ++ g ++ 0#5 ++ a ++ b ++ 0#6
  | .fence g s => 0x57#7 ++ g ++ 0#18 ++ s
  | .gauge g d => 0x58#7 ++ g ++ d ++ 0#16
  | .cycles g d => 0x59#7 ++ g ++ d ++ 0#16
  | .fmtset g a => 0x5A#7 ++ g ++ 0#5 ++ a ++ 0#11
  | .fmtget g d => 0x5B#7 ++ g ++ d ++ 0#16
  | .gseed g n a => 0x5C#7 ++ g ++ 0#3 ++ n ++ a ++ 0#11
  | .gbest g d s => 0x5D#7 ++ g ++ d ++ 0#5 ++ s
  | .tstat g d t => 0x5E#7 ++ g ++ d ++ t ++ 0#11
  | .sqpop g d => 0x5F#7 ++ g ++ d ++ 0#16
  | .ctlrd g d n => 0x60#7 ++ g ++ d ++ 0#10 ++ n
  | .ctlwr g d n => 0x61#7 ++ g ++ d ++ 0#10 ++ n
  | .trap g c => 0x62#7 ++ g ++ 0#5 ++ c
  | .retire g => 0x63#7 ++ g ++ 0#21
  | .spawn g d a b => 0x64#7 ++ g ++ d ++ a ++ b ++ 0#6
  | .fresume g a x => 0x65#7 ++ g ++ 0#5 ++ a ++ x
  | .brk g c => 0x66#7 ++ g ++ 0#5 ++ c
  | .vadd _ g d a b t m => 0x01#7 ++ g ++ d ++ a ++ b ++ t ++ m
  | .vsub _ g d a b t m => 0x02#7 ++ g ++ d ++ a ++ b ++ t ++ m
  | .vmul _ g d a b t m => 0x03#7 ++ g ++ d ++ a ++ b ++ t ++ m
  | .vmin _ g d a b t m => 0x04#7 ++ g ++ d ++ a ++ b ++ t ++ m
  | .vmax _ g d a b t m => 0x05#7 ++ g ++ d ++ a ++ b ++ t ++ m
  | .vabs _ g d a t m => 0x06#7 ++ g ++ d ++ a ++ 0#5 ++ t ++ m
  | .vneg _ g d a t m => 0x07#7 ++ g ++ d ++ a ++ 0#5 ++ t ++ m
  | .vcmp _ g k a b t u c => 0x08#7 ++ g ++ 0#2 ++ k ++ a ++ b ++ t ++ u ++ c
  | .vsel _ g d a b t k => 0x09#7 ++ g ++ d ++ a ++ b ++ t ++ k
  | .vand _ g d a b t m => 0x0A#7 ++ g ++ d ++ a ++ b ++ t ++ m
  | .vor _ g d a b t m => 0x0B#7 ++ g ++ d ++ a ++ b ++ t ++ m
  | .vxor _ g d a b t m => 0x0C#7 ++ g ++ d ++ a ++ b ++ t ++ m
  | .vshl _ g d a b t m => 0x0D#7 ++ g ++ d ++ a ++ b ++ t ++ m
  | .vshr _ g d a b t m => 0x0E#7 ++ g ++ d ++ a ++ b ++ t ++ m
  | .vsra _ g d a b t m => 0x0F#7 ++ g ++ d ++ a ++ b ++ t ++ m
  | .vcvt _ g d a x y s t r => 0x10#7 ++ g ++ d ++ a ++ x ++ y ++ s ++ t ++ r
  | .vdiv _ g d a b t r => 0x11#7 ++ g ++ d ++ a ++ b ++ t ++ r
  | .vsqrt _ g d a t r => 0x12#7 ++ g ++ d ++ a ++ 0#5 ++ t ++ r
  | .vrcp _ g d a t r => 0x13#7 ++ g ++ d ++ a ++ 0#5 ++ t ++ r
  | .vrsq _ g d a t r => 0x14#7 ++ g ++ d ++ a ++ 0#5 ++ t ++ r
  | .vexp2 _ g d a t r => 0x15#7 ++ g ++ d ++ a ++ 0#5 ++ t ++ r
  | .vlog2 _ g d a t r => 0x16#7 ++ g ++ d ++ a ++ 0#5 ++ t ++ r
  | .vredadd _ g d a t m => 0x17#7 ++ g ++ d ++ a ++ 0#5 ++ t ++ m
  | .vredmax _ g d a t m => 0x18#7 ++ g ++ d ++ a ++ 0#5 ++ t ++ m
  | .vredmin _ g d a t m => 0x19#7 ++ g ++ d ++ a ++ 0#5 ++ t ++ m
  | .vargmx _ g d a t m => 0x1A#7 ++ g ++ d ++ a ++ 0#5 ++ t ++ m
  | .vbcast _ g d a t => 0x1B#7 ++ g ++ d ++ a ++ 0#5 ++ t ++ 0#3
  | .vperm _ g d a b t => 0x1C#7 ++ g ++ d ++ a ++ b ++ t ++ 0#3
  | .vmov _ g d a => 0x1D#7 ++ g ++ d ++ a ++ 0#11
  | .xmov _ g d a => 0x1E#7 ++ g ++ d ++ a ++ 0#11
  | .vfma_d _ g d a b c n => 0x20#7 ++ g ++ d ++ a ++ b ++ c ++ n
  | .vfma_s _ g d a b c n => 0x21#7 ++ g ++ d ++ a ++ b ++ c ++ n
  | .vfma_h _ g d a b c n => 0x22#7 ++ g ++ d ++ a ++ b ++ c ++ n
  | .vfma_b _ g d a b c n => 0x23#7 ++ g ++ d ++ a ++ b ++ c ++ n
  | .bclr _ g n => 0x28#7 ++ g ++ 0#3 ++ n ++ 0#16
  | .bacc _ g n a b t => 0x29#7 ++ g ++ 0#3 ++ n ++ a ++ b ++ t ++ 0#3
  | .badd _ g n m => 0x2A#7 ++ g ++ 0#3 ++ n ++ 0#3 ++ m ++ 0#11
  | .brnd _ g d n t r => 0x2B#7 ++ g ++ d ++ 0#3 ++ n ++ 0#5 ++ t ++ r
  | .bsgn _ g f n c => 0x2C#7 ++ g ++ 0#2 ++ f ++ 0#3 ++ n ++ 0#9 ++ c
  | .bmovb _ g d n p => 0x2D#7 ++ g ++ d ++ 0#3 ++ n ++ 0#10 ++ p
  | .vsumm _ g f k => 0x30#7 ++ g ++ 0#2 ++ f ++ 0#2 ++ k ++ 0#11
  | .vcount _ g d k => 0x31#7 ++ g ++ d ++ 0#2 ++ k ++ 0#11
  | .kand _ g d a b => 0x32#7 ++ g ++ 0#2 ++ d ++ 0#2 ++ a ++ 0#2 ++ b ++ 0#6
  | .kor _ g d a b => 0x33#7 ++ g ++ 0#2 ++ d ++ 0#2 ++ a ++ 0#2 ++ b ++ 0#6
  | .kxor _ g d a b => 0x34#7 ++ g ++ 0#2 ++ d ++ 0#2 ++ a ++ 0#2 ++ b ++ 0#6
  | .knot _ g d a => 0x35#7 ++ g ++ 0#2 ++ d ++ 0#2 ++ a ++ 0#11
  | .sfeed _ g a s => 0x40#7 ++ g ++ 0#5 ++ a ++ s ++ 0#3
  | .twrow _ g t a i y => 0x48#7 ++ g ++ t ++ a ++ i ++ y
  | .trcol _ g d t i y => 0x49#7 ++ g ++ d ++ t ++ i ++ y
  | .trrow _ g d t i y => 0x4A#7 ++ g ++ d ++ t ++ i ++ y
  | .psend _ g a p => 0x50#7 ++ g ++ 0#5 ++ a ++ p ++ 0#5
  | .ptake _ g d p => 0x51#7 ++ g ++ d ++ 0#5 ++ p ++ 0#5
  | .plook _ g d p => 0x52#7 ++ g ++ d ++ 0#5 ++ p ++ 0#5
  | .vsnorm _ g d a b t r => 0x58#7 ++ g ++ d ++ a ++ b ++ t ++ r
  | .vcbq _ g d a t => 0x5C#7 ++ g ++ d ++ a ++ 0#5 ++ t ++ 0#3
  | .vcbx _ g d a t => 0x5D#7 ++ g ++ d ++ a ++ 0#5 ++ t ++ 0#3
  | .cbld _ g a t => 0x5E#7 ++ g ++ 0#5 ++ a ++ 0#5 ++ t ++ 0#3
  | .mpush g a b k x y m => 0x01#7 ++ g ++ a ++ b ++ k ++ x ++ y ++ m
  | .mshift g => 0x02#7 ++ g ++ 0#21
  | .macc g t k w => 0x03#7 ++ g ++ t ++ 0#5 ++ k ++ w ++ 0#3
  | .mdrain g t k m => 0x04#7 ++ g ++ t ++ 0#5 ++ k ++ 0#2 ++ m
  | .mclr g => 0x05#7 ++ g ++ 0#21
  | .mmask g r c => 0x06#7 ++ g ++ r ++ c ++ 0#7
  | .mpushg g a n k w m => 0x07#7 ++ g ++ a ++ 0#3 ++ n ++ k ++ w ++ 0#1 ++ m
  | .mgload g t n w => 0x08#7 ++ g ++ t ++ 0#3 ++ n ++ 0#7 ++ w ++ 0#3
  | .msrch g t n c w => 0x09#7 ++ g ++ t ++ 0#3 ++ n ++ c ++ w ++ 0#3
  | .msproj g t d n w => 0x0A#7 ++ g ++ t ++ d ++ n ++ w ++ 0#3
  | .mpushd g a b k x y m => 0x0B#7 ++ g ++ a ++ b ++ k ++ x ++ y ++ m
  | .lda _ g a w o => 0x01#7 ++ g ++ 0#5 ++ a ++ w ++ o
  | .vlda _ g a o => 0x02#7 ++ g ++ 0#5 ++ a ++ 0#2 ++ o
  | .tlrow _ g t a n => 0x03#7 ++ g ++ t ++ a ++ 0#3 ++ n
  | .st _ g d a w o => 0x04#7 ++ g ++ d ++ a ++ w ++ o
  | .vst _ g d a o => 0x05#7 ++ g ++ d ++ a ++ 0#2 ++ o
  | .tsrow _ g t a n => 0x06#7 ++ g ++ t ++ a ++ 0#3 ++ n
  | .atom _ g d a b o u w => 0x07#7 ++ g ++ d ++ a ++ b ++ o ++ u ++ w
  | .aupd _ g d i => 0x08#7 ++ g ++ d ++ 0#5 ++ i
  | .aupds _ g d a => 0x09#7 ++ g ++ d ++ a ++ 0#11
  | .fcopy _ g t a b e => 0x10#7 ++ g ++ t ++ a ++ b ++ e ++ 0#1
  | .fshape _ g a e => 0x11#7 ++ g ++ 0#5 ++ a ++ 0#5 ++ e ++ 0#1
  | .fstamp _ g a b => 0x12#7 ++ g ++ 0#5 ++ a ++ b ++ 0#6
  | .fquant _ g t a b e => 0x13#7 ++ g ++ t ++ a ++ b ++ e ++ 0#1
  | .fdedup _ g t a b e x => 0x14#7 ++ g ++ t ++ a ++ b ++ e ++ x
  | .falloc _ g t a b c x => 0x15#7 ++ g ++ t ++ a ++ b ++ c ++ x
  | .ffree _ g t a b x => 0x16#7 ++ g ++ t ++ a ++ b ++ 0#5 ++ x
  | .fatom _ g t a b o x => 0x17#7 ++ g ++ t ++ a ++ b ++ o ++ x
  | .fmtag _ g t a b => 0x18#7 ++ g ++ t ++ a ++ b ++ 0#6
  | .fkvmap _ g t a b x => 0x19#7 ++ g ++ t ++ a ++ b ++ 0#5 ++ x
  | .fcard _ g t a => 0x1A#7 ++ g ++ t ++ a ++ 0#11
  | .fsum _ g t a b e => 0x1B#7 ++ g ++ t ++ a ++ b ++ e ++ 0#1
  | .froom _ g d => 0x1C#7 ++ g ++ d ++ 0#16
  | .illegalOpcode _ w => w
  | .emptyBundle _ => 0
  | .pauseOverdue _ => 0
  | .idleCoreChoose _ => 0
  | .admissionDecision => 0
  | .headReserving _ => 0
  | .startStep _ => 0
  | .spawnStart _ _ => 0
  | .cardDeliver _ => 0
  | .cardComplete _ => 0
  | .cardWatchdog _ => 0
  | .faultRecordWrite _ _ => 0
  | .handlerStart _ _ => 0
  | .completionRecordWrite _ => 0
  | .evictionRequest _ => 0
  | .evictionSave _ => 0
  | .checkpointRequest _ => 0
  | .checkpointComplete _ => 0
  | .gangTerminate _ => 0
  | .eventRingTimeTrigger _ => 0
  | .econsWrite _ _ => 0
  | .eventRingOvClear _ _ => 0
  | .qctlErrClear _ => 0
  | .qctlEnable _ _ => 0
  | .registerWrite _ _ _ => 0
  | .mownClaim _ => 0
  | .mownRelease _ => 0
  | .mownErrorClear _ => 0
  | .hostLinkDown _ => 0
  | .tripClear _ _ _ => 0
  | .peakClear _ _ => 0
  | .droopReport _ _ => 0
  | .gaugeUnsync => 0
  | .sizenFlit _ _ => 0
  | .linkFail _ => 0
  | .deviceFailureRecovery _ _ => 0
  | .powerUp _ _ => 0
  | .bootRetry _ _ => 0
  | .standbyEnter => 0
  | .standbyWake _ => 0
  | .thermalMonitor _ _ _ => 0
  | .attestationRequest _ => 0
  | .heartwoodTableChange _ => 0
  | .ferryIssue _ => 0
  | .ferryChunk _ _ => 0
  | .pageArrive _ _ _ => 0
  | .stampWrite _ _ => 0
  | .countedLine _ _ => 0
  | .fmtagApply _ _ => 0
  | .migrationStart _ _ _ => 0
  | .migrationCopy _ _ => 0
  | .requantBlock _ _ _ => 0
  | .cowService _ _ => 0
  | .memoryPoison _ _ => 0
  | .coreStorageError _ _ => 0
  | .searchJobEnd _ => 0
  | .arriveCount _ _ => 0
  | .peerGrant _ _ => 0
  | .sizenLinkTrained _ _ => 0
  | .hostPortTraining _ _ _ => 0
  | .cxlMemAccess _ _ _ _ => 0

/-- The instruction that the first map, in the order S, V, M, C, reads from the bits of a table row. A word does not name
its slot: the four maps share the opcode values, so a word that is legal in an earlier map is read there (log 7). -/
def decodeTableWord (nbits w : Nat) : Option Instr :=
  if nbits ≠ 32 then none
  else
    let x : Word32 := BitVec.ofNat 32 w
    match decodeSlot .S x, decodeSlot .V0 x, decodeSlot .M x, decodeSlot .C0 x with
    | .ok i, _, _, _ => some i
    | .error _, .ok i, _, _ => some i
    | .error _, .error _, .ok i, _ => some i
    | .error _, .error _, .error _, .ok i => some i
    | .error _, .error _, .error _, .error _ => none

end Sys2Proof
end

