-- ==== Sys2Proof/Machine/Store.lean ====
section
/-! DEFINITION. Sparse stores: sorted lists of (key, value) with the entries that differ from a default, in one canonical form. -/
namespace Sys2Proof.Machine

/-- A sparse store. Keys rise strictly and no entry equals the store's default, so equal stores are equal lists. -/
abbrev SMap (α : Type) := List (Nat × α)

/-- The value at a key, the default where the list has no entry. -/
def mapGet {α : Type} (d : α) : SMap α → Nat → α
  | [], _ => d
  | (k, v) :: m, n => if k = n then v else mapGet d m n

/-- The store with no entry at a key. -/
def mapDrop {α : Type} : SMap α → Nat → SMap α
  | [], _ => []
  | (k, v) :: m, n => if k = n then mapDrop m n else (k, v) :: mapDrop m n

/-- The store with an entry at a key, whatever its value. -/
def mapPut {α : Type} : SMap α → Nat → α → SMap α
  | [], n, x => [(n, x)]
  | (k, v) :: m, n, x =>
    if k = n then (n, x) :: m else if n < k then (n, x) :: (k, v) :: m else (k, v) :: mapPut m n x

/-- Writes a value, keeping the canonical form: writing the default removes the entry. -/
def mapSet {α : Type} [DecidableEq α] (d : α) (m : SMap α) (n : Nat) (x : α) : SMap α :=
  if x = d then mapDrop m n else mapPut m n x

/-- The canonical form: keys rise strictly and no entry equals the default. -/
def mapWf {α : Type} [DecidableEq α] (d : α) : SMap α → Bool
  | [] => true
  | [(_, v)] => decide (v ≠ d)
  | (k, v) :: (k', v') :: m => decide (v ≠ d) && decide (k < k') && mapWf d ((k', v') :: m)

/-- The keys that hold an entry, in rising order. -/
def mapKeys {α : Type} (m : SMap α) : List Nat := m.map Prod.fst

/-- Drops every entry whose key lies in [lo, lo + n). -/
def mapClearRange {α : Type} (m : SMap α) (lo n : Nat) : SMap α :=
  m.filter fun e => !(decide (lo ≤ e.1) && decide (e.1 < lo + n))

/-- The entries whose key lies in [lo, lo + n). -/
def mapRange {α : Type} (m : SMap α) (lo n : Nat) : SMap α :=
  m.filter fun e => decide (lo ≤ e.1) && decide (e.1 < lo + n)

end Sys2Proof.Machine
end

