-- ==== Sys2Proof/Machine/Bits.lean ====
section
/-! DEFINITION. Bytes, lanes and numbers: little-endian assembly (R4, R79), sign extension, fields. -/
namespace Sys2Proof.Machine

/-- The number that bytes make, the first least significant (R4). -/
def bytesToNat : List Byte → Nat
  | [] => 0
  | b :: bs => b.toNat + 256 * bytesToNat bs

/-- The low `n` bytes of a number, least significant first (R4). -/
def natToBytes : Nat → Nat → List Byte
  | 0, _ => []
  | n + 1, x => BitVec.ofNat 8 (x % 256) :: natToBytes n (x / 256)

/-- `n` bytes of a memory from an address on; an unlisted byte reads 0x00. -/
def readBytes (m : List (Nat × Byte)) (a n : Nat) : List Byte :=
  (List.range n).map fun i => mapGet 0 m (a + i)

/-- Writes bytes from an address on, in the canonical form. -/
def writeBytes (m : List (Nat × Byte)) (a : Nat) : List Byte → List (Nat × Byte)
  | [] => m
  | b :: bs => writeBytes (mapSet 0 m a b) (a + 1) bs

/-- The little-endian number of `n` bytes at an address. -/
def readNat (m : List (Nat × Byte)) (a n : Nat) : Nat := bytesToNat (readBytes m a n)

/-- Lane `i` of width `w` of a register read as a number (R159). -/
def lane (w : Nat) (v i : Nat) : Nat := (v >>> (i * w)) % 2 ^ w

/-- The first `n` lanes (R159). -/
def lanes (w n v : Nat) : List Nat := (List.range n).map (lane w v)

/-- The number whose lanes of width `w` are given, lane 0 first. -/
def packLanes (w : Nat) : List Nat → Nat
  | [] => 0
  | x :: xs => x % 2 ^ w + 2 ^ w * packLanes w xs

/-- A number with `n` bits from bit `lo` on replaced. -/
def setField (v lo n x : Nat) : Nat :=
  (v >>> (lo + n)) <<< (lo + n) + ((x % 2 ^ n) <<< lo) + v % 2 ^ lo

/-- `n` bits of a number from bit `lo` on. -/
def field (v lo n : Nat) : Nat := (v >>> lo) % 2 ^ n

/-- A number of `w` bits read as two's complement. -/
def toSigned (w x : Nat) : Int := if x % 2 ^ w < 2 ^ (w - 1) then (x % 2 ^ w : Nat) else (x % 2 ^ w : Nat) - (2 ^ w : Nat)

/-- The low `w` bits of an integer in two's complement (R80). -/
def ofInt (w : Nat) (x : Int) : Nat := (x % (2 ^ w : Nat)).toNat

/-- The number of one bits among the low `n`. -/
def popcountN : Nat → Nat → Nat
  | 0, _ => 0
  | n + 1, x => x % 2 + popcountN n (x / 2)

/-- The number of bits of a number: 0 for 0, else the position of its top bit plus 1. -/
def bitLen (x : Nat) : Nat := if x = 0 then 0 else Nat.log2 x + 1

/-- Sign extension of a field to a scalar register. -/
def sext64 {n : Nat} (x : BitVec n) : Word := x.signExtend 64

/-- Zero extension of a field to a scalar register. -/
def zext64 {n : Nat} (x : BitVec n) : Word := x.setWidth 64

/-- A scalar word from a number. -/
def word (x : Nat) : Word := BitVec.ofNat 64 x

/-- ⌈a / b⌉. -/
def ceilDiv (a b : Nat) : Nat := (a + b - 1) / b

/-- Inserts into a list sorted by a key that rises, after equal keys. -/
def insertBy {α : Type} (key : α → Nat) (x : α) : List α → List α
  | [] => [x]
  | y :: ys => if key x < key y then x :: y :: ys else y :: insertBy key x ys

/-- Sorts by a key, keeping the order of equal keys. -/
def sortBy {α : Type} (key : α → Nat) : List α → List α
  | [] => []
  | x :: xs =>
    let rec put : List α → List α
      | [] => [x]
      | y :: ys => if key x ≤ key y then x :: y :: ys else y :: put ys
    put (sortBy key xs)

/-- The element of least key, the earliest among equals. -/
def minBy {α : Type} (key : α → Nat) : List α → Option α
  | [] => none
  | x :: xs =>
    match minBy key xs with
    | none => some x
    | some y => if key x ≤ key y then some x else some y

end Sys2Proof.Machine
end

