-- ==== Sys2Proof/Machine/State.lean ====
section
/-! DEFINITION. Everything the spec gives the device to hold, as plain data, and the state after reset. -/
namespace Sys2Proof.Machine

/-- Bytes of a memory: (address, byte) pairs in the canonical form of `SMap`; an unlisted address reads 0x00 (log 2). -/
abbrev Mem := List Host.Cell

/-- A memory is in its canonical form. -/
def Memory.wf (m : Mem) : Bool := mapWf 0 m

/-! ## Context state -/

/-- What a parked context waits for (R192, R260, R262, R281). -/
inductive Wait where
  /-- WAITP: a visible entry in a pipe of the cluster -/
  | pipe (p : Nat)
  /-- WAITC: the generation of a confluence differs from the ticket -/
  | conf (c : Nat)
  /-- MWAIT: bits 55:0 of a scratchpad word, given by target core and offset -/
  | word (core off : Nat) (val : BitVec 56)
  /-- a blocked TICK -/
  | tick
  deriving DecidableEq, Repr

/-- Where a context stands in its life (R116, R120, R122, R124, R130). -/
inductive Life where
  /-- held by no gang -/
  | free
  /-- held and not started: dormant, handler or server -/
  | idle
  /-- admitted with the start role: waits for the start step -/
  | toStart
  /-- a SPAWN, handler start or watchdog restart, not before a gauge step -/
  | starting (step : Nat) (handler : Bool)
  /-- becomes ready at a gauge step -/
  | waking (step : Nat)
  /-- resumed by a FRESUME; ready in the next cycle of the core that issued it (R126) -/
  | resuming
  | ready
  | parked (w : Wait)
  | stopped
  | retired
  deriving DecidableEq, Repr

/-- A basin (R95). State 0 finite, 1 +inf, 2 -inf, 3 NaN. -/
structure Basin where
  val : BitVec 4352 := 0
  st : BitVec 2 := 0
  ov : Bool := false
  deriving DecidableEq, Repr

/-- An entry of a load-data queue (R252): outstanding until popped, arrived when it holds a value. -/
structure LqEntry where
  id : Nat
  val : Option VReg := none
  poison : Bool := false
  /-- pushed by an FATOM (R314): quiescence does not wait for it (R338) -/
  ferry : Bool := false
  deriving DecidableEq, Repr

/-- An entry of the loop stack (R152). -/
structure LoopEntry where
  start : Nat
  stop : Nat
  count : Word
  deriving DecidableEq, Repr

/-- How the S slot, or the bundle, ended its context's run in this cycle (R116). -/
inductive EndKind where
  | none
  /-- a wait whose condition holds at issue -/
  | met
  | parks (w : Wait)
  | retires
  deriving DecidableEq, Repr

/-- A bundle whose header has been processed and that some slot has still to issue or pass (R215). -/
structure Bundle where
  pos : Nat
  addr : Nat
  hdr : Word32
  lit : Word32
  /-- present slots by number, with their words -/
  words : List (Nat × Word32)
  level : Bool
  /-- a delay bundle of a taken branch (R341) -/
  delay : Bool
  /-- what its S slot asked for at its end -/
  fin : EndKind := .none
  deriving DecidableEq, Repr

/-- A taken branch whose target issues at a position (R150); `pops` for BR and BRI (R155). -/
structure Target where
  pos : Nat
  addr : Nat
  pops : Bool
  deriving DecidableEq, Repr

/-- A bundle-level cause that waits for the next bundle (R283, R302, R322, R339). -/
structure Deferred where
  cause : BitVec 7
  /-- came from a ferry command (state bit 7 of R341) -/
  ferry : Bool
  step : Nat
  d0 : Word
  d1 : Word
  d2 : Word
  /-- the batch it came from, as ferry, core * 8 + context and batch number (R342) -/
  batch : Option (Nat × Nat × Nat)
  deriving DecidableEq, Repr

/-- A fault in hand (R338-R342). -/
structure FaultInfo where
  step : Nat
  cycle : Nat
  bundle : Nat
  pos : Nat
  cause : BitVec 7
  slots : BitVec 6
  level : Bool
  pinned : Bool
  delay : Bool
  loops : Nat
  ferry : Bool
  lead : List Nat
  tick : Word
  d0 : Word
  d1 : Word
  d2 : Word
  batch : Option (Nat × Nat × Nat)
  /-- the first step in which the context was quiescent -/
  quiet : Option Nat
  /-- the record has been written -/
  recorded : Bool
  /-- state bit 6: it waited for a host -/
  queued : Bool
  /-- the host that serves it, as core and context -/
  host : Option (Nat × Nat)
  /-- of a core-port conflict (0x31): the core's cycle that was contested, while it has still to come (R342) -/
  contest : Option Nat := none
  deriving DecidableEq, Repr

/-- One phase row of the occupancy block (R133). -/
structure OccRow where
  issuing : Nat := 0
  stalled : Nat := 0
  parked : Nat := 0
  waiting : Nat := 0
  busyS : Nat := 0
  busyV : Nat := 0
  busyM : Nat := 0
  busyC : Nat := 0
  deriving DecidableEq, Repr

/-- The ferry counts of the occupancy block (R133). -/
structure OccFerry where
  commands : Nat := 0
  bytes : Nat := 0
  parks : Nat := 0
  waits : Nat := 0
  cancelled : Nat := 0
  deriving DecidableEq, Repr

/-- A hardware context (R13). -/
structure Ctx where
  life : Life := .free
  /-- the gang that holds it -/
  gang : Option Nat := none
  /-- 0 start, 1 dormant, 2 handler, 3 server (R109) -/
  role : Nat := 0
  sregs : SMap Word := []
  /-- f0-f7; f0 reads 1 whatever stands here (R138) -/
  flags : BitVec 8 := 0
  vregs : SMap VReg := []
  masks : SMap Mask := []
  basins : SMap Basin := []
  cb : SMap Word := []
  cbType : BitVec 3 := 0
  fmt : Word := 0
  shapes : SMap (BitVec 256) := []
  tick : Word := 0
  epoch : BitVec 16 := 0
  /-- starts of this context since reset (R123); a readmitted gang's contexts keep the epochs that they were saved with
  (log 87) -/
  starts : BitVec 16 := 0
  prio : BitVec 2 := 0
  launchPrio : BitVec 2 := 0
  pinReq : Bool := false
  pinCur : Bool := false
  pauseBound : BitVec 32 := 0
  stRS : Bool := false
  stEV : Bool := false
  stWD : Bool := false
  faultrec : Word := 0
  handlerFor : Word := 0
  cardack : Word := 0
  phase : BitVec 4 := 0
  /-- the phase that occupancy counts use: that of the last CTLWR issued (R133) -/
  occPhase : BitVec 4 := 0
  startStep : Word := 0
  entry : Nat := 0
  dimage : Word := 0
  args : SMap Word := []
  loops : List LoopEntry := []
  /-- address of the sequential successor (R150 row 4) -/
  seqNext : Nat := 0
  targets : List Target := []
  loopNext : Option Nat := none
  bubbles : List Nat := []
  /-- position of the next bundle to fetch -/
  npos : Nat := 0
  /-- positions of the six slots (R215) -/
  spos : List Nat := [0, 0, 0, 0, 0, 0]
  win : List Bundle := []
  /-- the step in which it became ready, noted at that step's end while it waits to be chosen (R323) -/
  readySince : Option Nat := none
  /-- no slot issues before this core cycle (R265) -/
  stallUntil : Nat := 0
  liveHalf : Bool := false
  /-- the step of the context's last IFENCE or launch, from which on words may be fetched (R265) -/
  fetchSince : Nat := 0
  lqs : List LqEntry := []
  lqv : List LqEntry := []
  bestseed : Word := 0
  resid : Word32 := 0
  armed : SMap Bool := []
  ticket : SMap (BitVec 8) := []
  pauseCount : Nat := 0
  cycles : Word := 0
  /-- core cycle in which a scratchpad access of the context last performed (R335) -/
  accCyc : Option Nat := none
  /-- cycle by which every beat issued so far has been acted on (R50) -/
  beatEnd : Nat := 0
  fault : Option FaultInfo := none
  nfault : BitVec 8 := 0
  deferred : List Deferred := []
  statq : List Word := []
  /-- statistics records of the current step, not yet visible (R348), as step and record -/
  statNew : List (Nat × Word) := []
  batch : Nat := 0
  batchIdx : Nat := 0
  delivery : Word := 0
  occ : SMap OccRow := []
  occF : OccFerry := {}
  /-- cycles stalled at the slip bound so far (kind 0x05 of R347), with the waiting slot -/
  slipStall : Nat := 0
  slipSlot : Nat := 0
  slipAddr : Nat := 0
  deriving DecidableEq, Repr

/-! ## Core state -/

/-- A value on its way to the place it lands in (R15). -/
inductive Eff where
  | sreg (d : Nat) (v : Word)
  | flag (d : Nat) (v : Bool)
  | vreg (d : Nat) (v : VReg)
  | mask (d : Nat) (v : Mask)
  | fmt (v : Word)
  | cb (entries : List Word) (ty : BitVec 3)
  | basinClear (d : Nat)
  /-- one finite term, one state term of R95 and a carried ov bit -/
  | basinAdd (d : Nat) (term : Int) (st : BitVec 2) (ov : Bool)
  | ctl (n : Nat) (v : Word)
  | sigFeed (id : Nat) (v : VReg)
  | sigClear (id : Nat)
  /-- bytes of a tile from a byte offset on, and the length of the rows in which they lie (R208, R257) -/
  | tile (t off : Nat) (bytes : List Byte) (row : Nat)
  /-- a drained row: destination tile, mode, elements, wrap flag (R222) -/
  | drain (t row : Nat) (acc : BitVec 2) (mode : BitVec 2) (cols : Nat) (first : Bool) (vals : List Word32) (wrap : Bool)
      (fmt : Word)
  | seed (slot : Nat) (v : Word)
  | grove (slot : Nat) (seed : Word) (rank : BitVec 2) (coef : BitVec 65536)
  | search (seed : Word) (resid : Word32)
  | pipe (p : Nat) (v : VReg)
  | lqs (id : Nat) (v : Word)
  | lqv (id : Nat) (v : VReg)
  /-- an arrival to count (R262): confluence and the numbers of the accesses it waits for -/
  | arrive (c : Nat) (after : List Nat)
  /-- a resumed context becomes ready: its core and number (R126) -/
  | wake (core ctx : Nat)
  deriving DecidableEq, Repr

/-- A result in flight: core cycle in which it lands, issuing context, bundle position, slot and number. -/
structure Pend where
  due : Nat
  ctx : Nat
  pos : Nat
  slot : Nat
  seq : Nat
  /-- offset of the issuing bundle, for statistics records (R347) -/
  bundle : Nat
  eff : Eff
  poison : Bool := false
  deriving DecidableEq, Repr

/-- What a scratchpad access does when it performs (R250). -/
inductive AccKind where
  | loadS (entry bytes : Nat)
  | loadV (entry : Nat)
  | store (bytes : List Byte)
  | atom (op : BitVec 3) (uns : Bool) (bytes : Nat) (x : Word) (d : Nat)
  | tileLoad (t line : Nat)
  deriving DecidableEq, Repr

/-- When a scratchpad access performs: in a cycle of its own core, at a gauge step, or when the peer port grants it. -/
inductive AccDue where
  | cycle (c : Nat)
  | step (g : Nat)
  | grant
  deriving DecidableEq, Repr

/-- A scratchpad access in flight (R249-R251). -/
structure Access where
  seq : Nat
  ctx : Nat
  pos : Nat
  slot : Nat
  bundle : Nat
  /-- core that holds the target scratchpad -/
  target : Nat
  off : Nat
  due : AccDue
  /-- issued by an elastic core to a peer: a load's entry arrives at no fixed time (R253) -/
  late : Bool := false
  /-- core cycle of the issuing core in which a released ATOM's or TLROW's result lands (R210, R255); of a request, the cycle
  by which it has reached the peer port -/
  land : Option Nat
  kind : AccKind
  deriving DecidableEq, Repr

/-- A bank cycle that an access holds (R249); `peer` tells the port, whose clock counts `at`. -/
structure Resv where
  bank : Nat
  peer : Bool
  cyc : Nat
  /-- gauge step, for the fault record -/
  step : Nat
  holder : Word
  bundle : Nat
  slot : Nat
  deriving DecidableEq, Repr

/-- A tile register with its status word and tags (R102, R206, R212). Tag 0 empty, 1 filling, 2 full. -/
structure TileReg where
  bytes : Tile := 0
  stat : BitVec 3 := 0
  tag : BitVec 2 := 0
  seq : BitVec 8 := 0
  exp : BitVec 8 := 0
  fills : Nat := 0
  owner : Option Nat := none
  deriving DecidableEq, Repr

/-- A grove slot (R230). -/
structure Grove where
  seed : Word := 0
  rank : BitVec 2 := 0
  coef : BitVec 65536 := 0
  owner : Option Nat := none
  deriving DecidableEq, Repr

/-- A job of the seed searcher (R239): the window searched, or the projection written to a tile. -/
structure Job where
  ctx : Nat
  handle : Word
  pos : Nat
  bundle : Nat
  start : Nat
  finish : Nat
  target : Tile
  seed : Word
  rank : BitVec 2
  count : Nat
  dest : Option Nat
  /-- the kernel that issued it has ended, and its result reaches no register (R120) -/
  mute : Bool := false
  deriving DecidableEq, Repr

/-- A signal (R182, R187). `lags` holds the samples present, newest first. -/
structure Signal where
  owner : Nat
  depth : Nat
  q : Nat
  phi : Nat
  /-- 0 zero, 1 constant, 2 hold-oldest -/
  rule : Nat
  /-- the constant repeated across a sample -/
  fill : VReg
  piped : Option Nat
  lags : List VReg
  nw : Bool
  next : VReg
  starved : Bool
  adv : BitVec 40
  deriving DecidableEq, Repr

/-- What a beat does in the cells (R221, R238). -/
inductive BeatKind where
  /-- operand types, whether only the diagonal acts, and the operands by row and by column -/
  | push (aty bty : Nat) (diag : Bool) (a b : List (List Nat))
  /-- row and its operands by column -/
  | macc (row : Nat) (t : List Nat)
  | clear
  /-- a drain: the number of its result, its row, and which of its cells hold a wrap bit or poison as it reads them -/
  | drain (seq row : Nat) (wraps bad : List Bool)
  deriving DecidableEq, Repr

/-- A beat that may not yet have reached the far-corner cell (R219): its issue cycle, its fmt and the mask that it obeys. -/
structure Beat where
  cyc : Nat
  fmt : Word
  rows : Nat
  cols : Nat
  kind : BeatKind
  deriving DecidableEq, Repr

/-- A relock in progress (R323): the chosen context, its mode, the step from which it counts, and the step from which its
first bundle may issue. -/
structure Relock where
  ctx : Nat
  pinned : Bool
  since : Nat
  step : Nat
  deriving DecidableEq, Repr

/-- A stream core. -/
structure CoreSt where
  ctxs : SMap Ctx := []
  issuer : Option Nat := none
  /-- the context that last issued (R117) -/
  last : Nat := 7
  pinned : Bool := false
  relock : Option Relock := none
  /-- the step in which an end or a reset last took its issuing or chosen context from it: a relock does not count from before
  it (R117, R323; DEDUCED, log 90) -/
  leftAt : Nat := 0
  cyc : Nat := 0
  credit : Nat := 0
  /-- largest levels that the droop detectors reported for the elastic cycles to come, the next one first (R320) -/
  levels : List Nat := []
  /-- gauge steps that a pinned core drops (R322) -/
  dropAt : List Nat := []
  pend : List Pend := []
  accs : List Access := []
  resv : List Resv := []
  /-- accumulators, cell i*128+j in bits 32*(i*128+j) up (R218) -/
  acc : BitVec 524288 := 0
  wrap : BitVec 16384 := 0
  rows : Nat := 128
  cols : Nat := 128
  /-- beats of the last 256 cycles, oldest first (R219) -/
  beats : List Beat := []
  tiles : SMap TileReg := []
  /-- bytes of tiles that a ferry has written in the current step, as tile, offset and byte (R211) -/
  ferried : List (Nat × Nat × Byte) := []
  groves : SMap Grove := []
  jobs : List Job := []
  sigs : SMap Signal := []
  spad : Mem := []
  isp : Mem := []
  /-- instruction words replaced: gauge step, word offset, old word (R265) -/
  ispOld : List (Nat × Nat × Word32) := []
  poison : List Place := []
  trip : BitVec 16 := 0
  stretched : BitVec 32 := 0
  drops : BitVec 8 := 0
  peak : BitVec 3 := 0
  debug : Bool := false
  deriving DecidableEq, Repr

/-! ## Cluster state -/

/-- A pipe (R258): visible entries oldest first, and entries taken by PSENDs in flight. -/
structure Pipe where
  gang : Option Nat := none
  /-- core and id of the signal it is bound to (R186) -/
  bound : Option (Nat × Nat) := none
  entries : List VReg := []
  inflight : Nat := 0
  /-- the cores whose entries became visible in step `freshStep`, the newest entries of the pipe in their order (R259) -/
  freshStep : Nat := 0
  fresh : List Nat := []
  deriving DecidableEq, Repr

/-- A confluence (R261). -/
structure Conf where
  gang : Option Nat := none
  n : Nat := 0
  a : Nat := 0
  g : BitVec 8 := 0
  deriving DecidableEq, Repr

/-- The ferry commands (R72). -/
inductive CmdKind where
  | copy | shape | stamp | quant | dedup | alloc | free | atom | mtag | kvmap | card | sum
  deriving DecidableEq, Repr

/-- Where a command stands (R269-R276). -/
inductive CmdSt where
  /-- its slot has issued; it enters the buffer at its entry step -/
  | entering
  /-- in the time-sorted buffer -/
  | waiting
  /-- issued, waits for a stream -/
  | issued
  | stream (n : Nat)
  /-- a counted command takes its lines at its own steps (R282) -/
  | counted
  /-- parked on a page fault or copy-on-write at an address, in an eddy; with no eddy it waits in its stream (R276) -/
  | parked (eddy : Option Nat) (cow : Bool) (addr : Nat) (stream : Nat)
  /-- held by a migration or tag change of a buffer, in an eddy or in its stream (R303, R315) -/
  | held (eddy : Option Nat) (stream : Nat)
  deriving DecidableEq, Repr

/-- A ferry command in a buffer. -/
structure Cmd where
  id : Nat
  kind : CmdKind
  core : Nat
  ctx : Nat
  handle : Word
  gang : Nat
  slot : Nat
  bundle : Nat
  /-- position of the issuing bundle -/
  pos : Nat
  pinned : Bool
  t : Word
  a : Word
  b : Word
  e : Nat
  x : Bool
  /-- core cycle in which an elastic context's command enters (R269) -/
  enterCyc : Nat
  entryStep : Nat
  issueStep : Nat
  /-- t was nonzero and not below the entry step -/
  onTime : Bool
  batch : Nat
  idx : Nat
  st : CmdSt
  shape : BitVec 256
  chunk : Nat
  line : Nat
  /-- units of the chunk still to read and still to write, by their addresses; bytes read so far by block position (R328) -/
  toRead : List Nat
  toWrite : List Nat
  buf : SMap Byte
  started : Bool
  /-- pages translated for the chunk: device-virtual page and physical page (R298) -/
  xlat : SMap Nat
  /-- ended by a cancellation (R289), or to be cancelled as it enters unless its issue time has come (R120) -/
  cancelled : Bool
  /-- buffers counted busy (R296), as asid and bid -/
  touched : List (Nat × Nat)
  /-- tiles whose fill counts this command holds (R212), as core and tile -/
  tileFills : List (Nat × Nat)
  /-- place among the commands in the order in which they entered (R271) -/
  order : Nat
  /-- when the command last began to wait for an eddy (R268) -/
  waitSeq : Nat
  /-- halves of instruction scratchpads that were live at some time since the command's issue (R264), as core and half -/
  liveHalves : List (Nat × Bool)
  /-- the status with which the command ends once this result word is written (R286, R307) -/
  ending : Option (BitVec 7 × Word)
  /-- the block that a deduplicating write has found private and writes (R310) -/
  block : Option Nat
  /-- chunks through an old entry that must perform before this change is complete (R298, R301): ferry, command, chunk -/
  waitFor : List (Nat × Nat × Nat)
  lqEntry : Option Nat
  crc : Word32
  deriving DecidableEq, Repr

/-- How a command of an open batch ended with an error (R278): batch of a context, place in entry order, status, chunk. -/
structure CmdFail where
  core : Nat
  ctx : Nat
  batch : Nat
  idx : Nat
  status : BitVec 7
  chunk : Nat
  deriving DecidableEq, Repr

/-- A leaf held by a TLB (R298). -/
structure TlbEntry where
  asid : Nat
  page : Nat
  leaf : BitVec 128
  deriving DecidableEq, Repr

/-- A ferry (R268). -/
structure Ferry where
  cmds : List Cmd := []
  fails : List CmdFail := []
  /-- sequence numbers of the FSTAMPs that have entered: core, context, batch, number (R342) -/
  stamps : List (Nat × Nat × Nat × Word) := []
  tlb : List TlbEntry := []
  /-- banks whose ferry port a counted line holds (R283), as step, core and bank -/
  banks : List (Nat × Nat × Nat) := []
  /-- banks whose ferry port another access of the ferry has had (R249), as step, core and bank -/
  ports : List (Nat × Nat × Nat) := []
  deriving DecidableEq, Repr

/-! ## Chip state -/

/-- A signal-table entry (R110, R182). -/
structure SigDecl where
  id : Nat
  depth : Nat
  q : Nat
  phi : Nat
  rule : Nat
  fill : VReg
  piped : Option Nat
  deriving DecidableEq, Repr

/-- A context-table entry (R109). -/
structure Entry where
  role : Nat
  core : Nat
  ctx : Nat
  pinned : Bool
  cls : Nat
  offset : Nat
  pauseBound : Nat
  tiles : BitVec 32
  groves : BitVec 4
  lo : Nat
  hi : Nat
  sigs : List SigDecl
  image : Word
  length : Nat
  mailbox : Nat
  grovetab : Word
  args : List Word
  deriving DecidableEq, Repr

/-- How far a gang is (R115, R119, R121, R364). -/
inductive GangSt where
  /-- admitted; starts at its start step -/
  | loading
  | running
  /-- ended; waits for its commands and writes to perform (R121) -/
  | ending
  deriving DecidableEq, Repr

/-- The fault fields of a completion record (R134, R343), with the order of R379. -/
structure FirstFault where
  step : Nat
  core : Nat
  cycle : Nat
  ctx : Nat
  cause : BitVec 7
  entry : Nat
  slots : BitVec 6
  bundle : Word
  deriving DecidableEq, Repr

/-- A fault of a context that its gang's end has released, whose record is still to be written (R121, R340). -/
structure OpenFault where
  core : Nat
  ctx : Nat
  entry : Nat
  handle : Word
  nfault : BitVec 8
  /-- causes remain deferred (bit 5 of state, R341) -/
  pending : Bool
  /-- numbers of the results and accesses that quiescence still waits for -/
  waits : List Nat
  info : FaultInfo
  deriving DecidableEq, Repr

/-- An admitted gang (R108). -/
structure Gang where
  id : Word
  stream : Nat
  prio : BitVec 2
  handler : Option Nat
  entries : List Entry
  pipes : List Nat
  confs : List (Nat × Nat)
  faultarea : Word
  occarea : Word
  savearea : Word
  himage : Word
  hlength : Nat
  dimage : Word
  ckarea : Word
  asid : Nat
  start : Nat
  st : GangSt
  faults : Nat
  first : Option FirstFault
  /-- the earliest fault that no handler served (R125) -/
  unserved : Option FirstFault
  /-- entries whose faults wait for a host, oldest first (R124) -/
  queue : List Nat
  status : BitVec 7
  evict : Bool
  ckpt : Bool
  /-- how many checkpoints are complete, and the sealed buffers already copied (R364) -/
  ckDone : Nat
  ckSealed : List Nat
  /-- step of the checkpoint request being served -/
  ckSince : Nat := 0
  /-- at the gang's end: occupancy counts of its entries, results and accesses still under way as core and number, and the
  handles of its contexts (R121) -/
  occEnd : List (SMap OccRow × OccFerry) := []
  tail : List (Nat × Nat) := []
  handles : List Word := []
  /-- faults of released contexts that have no record yet -/
  openFaults : List OpenFault := []
  deriving DecidableEq, Repr

/-- A gang saved by an eviction or a checkpoint (R119, R364); the layout in memory is read by no program. -/
structure Saved where
  key : Nat
  gang : Gang
  /-- step of the save -/
  since : Nat
  ctxs : List (Nat × Nat × Ctx)
  tiles : List (Nat × Nat × TileReg)
  groves : List (Nat × Nat × Grove)
  sigs : List (Nat × Nat × Signal)
  spads : List (Nat × Mem)
  pipes : List (Nat × Pipe)
  confs : List (Nat × Conf)
  /-- poisoned places of what is saved, by core (R119, R349) -/
  poison : List (Nat × Place)
  deriving DecidableEq, Repr

/-- A pool's blocks (R306), free and allocated, as arena offset and class, with the arena, its size and its state area as its
descriptor gave them (R305). -/
structure Pool where
  arena : Nat
  size : Nat
  area : Nat
  free : List (Nat × Nat)
  used : List (Nat × Nat)
  deriving DecidableEq, Repr

/-- A copy of stored bytes in a checkpoint slot (R364), by their offsets, with the sectors that were poisoned (R313). -/
structure Copy where
  bytes : Mem := []
  bad : List Nat := []
  deriving DecidableEq, Repr

/-- What a checkpoint slot holds (R364): the gang's checkpoint of a number, and the stored bytes of its buffers by bid, each under its
device-virtual address. -/
structure Ckpt where
  gang : Nat
  /-- the device that wrote it, on whose failure it serves (R363) -/
  chip : BitVec 9
  slot : Nat
  /-- how many checkpoints of the gang came before -/
  number : Nat
  saved : Saved
  buffers : List (Nat × Copy)
  /-- blocks of those buffers that a requantisation had re-encoded (R312), by bid, and the key-value blocks of the ASID on this device,
  by number -/
  reencoded : List (Nat × Mem) := []
  blocks : List (Nat × Copy) := []
  /-- what the state areas of the ASID's pools hold (R305) -/
  pools : SMap Pool := []
  /-- its completion record has been written -/
  whole : Bool := false
  deriving DecidableEq, Repr

/-- A command stream (R104). -/
structure Stream where
  base : Word := 0
  tail : Word := 0
  head : Word := 0
  en : Bool := false
  ring : BitVec 4 := 0
  size : BitVec 5 := 0
  err : Bool := false
  asid : BitVec 16 := 0
  /-- launch records read so far (R112) -/
  launches : Nat := 0
  /-- step in which the head record became the head -/
  headSince : Option Nat := none
  /-- evicted gangs that head the stream, oldest first (R119) -/
  out : List Saved := []
  deriving DecidableEq, Repr

/-- R134: the fields of a completion record but for its time. `dep`: the launch, as stream and launch sequence, whose dependents
it lets go on once it is written (R112). `ckpt`: the gang and number of the checkpoint that it makes whole (R364). -/
structure Completion where
  id : Word
  kind : Nat
  status : BitVec 7
  faults : Nat := 0
  stream : Nat
  first : Option FirstFault := none
  dep : Option (Nat × Nat) := none
  ckpt : Option (Nat × Nat) := none
  /-- the launch was admitted, and counts in its stream until the record is written (R107) -/
  admitted : Bool := false
  deriving DecidableEq, Repr

/-- An event ring (R135). -/
structure Ring where
  base : Word := 0
  prod : Word := 0
  cons : Word := 0
  size : BitVec 5 := 0
  count : BitVec 8 := 0
  ov : Bool := false
  inten : Bool := false
  port : Bool := false
  time : BitVec 32 := 0
  vector : BitVec 16 := 0
  /-- records held while the ring is full, oldest first -/
  held : List Completion := []
  /-- records written and not yet signalled, with the time of the oldest -/
  unsignalled : Nat := 0
  oldest : Nat := 0
  deriving DecidableEq, Repr

/-- Where a card stands (R127-R130). -/
inductive CardSt where
  | queued
  | delivered (core ctx step : Nat) (seq : Word)
  /-- acknowledged; waits for the server's ferry commands entered before the given number -/
  | acked (core ctx before : Nat)
  deriving DecidableEq, Repr

/-- An attention job card. -/
structure Card where
  key : Nat
  bytes : List Byte
  stream : Nat
  /-- the ring that its stream named when the card was taken; its record goes to the one that the stream names then (R104) -/
  ring : BitVec 4
  asid : Nat
  attempt : Nat
  /-- core last reset for this card -/
  lastReset : Option Nat
  /-- the gang of the server that it was delivered to -/
  gang : Nat := 0
  st : CardSt
  deriving DecidableEq, Repr

/-- A leaf that heartwood has bound: first 4 KiB frame, count, ASID, buffer (R292). -/
structure LeafRec where
  frame : Nat
  count : Nat
  asid : Nat
  va : Nat
  level : Nat
  bid : Nat
  deriving DecidableEq, Repr

/-- A translation table that heartwood has set up (R297): its first 4 KiB frame of two, its ASID, the first address that it
translates, its level. -/
structure TableRec where
  frame : Nat
  asid : Nat
  va : Nat
  level : Nat
  deriving DecidableEq, Repr

/-- A key-value block of a chip (R299, R300). -/
structure Block where
  /-- its header in the second-stage table, laid out under R293 -/
  hdr : BitVec 512
  /-- fingerprint in the index (R310) -/
  fp : Option Word
  deriving DecidableEq, Repr

/-- A migration in progress (R303). -/
structure Migration where
  asid : Nat
  bid : Nat
  frames : List Nat
  deriving DecidableEq, Repr

/-- What leaves the device (R135, R276, R278, R298, R313, R318, R357-R359): interrupts, events for canopy, answers. -/
inductive Out where
  /-- MSI-X message on a host port -/
  | msix (port : Bool) (vector : BitVec 16)
  | pageFault (asid : Nat) (addr : Word) (ferry eddy : Nat)
  | stampFailed (ferry cmd : Nat)
  | recordFailed (gang : Nat)
  | poisoned (place : Option Place) (chip addr : Nat)
  | unsync
  | linkDown (port : Nat)
  | migrationFailed (asid bid chunk : Nat)
  | attestation (digest : Nat) (serial : Nat) (nonce : List Byte) (sig : Nat)
  | bootFailed
  | hostRead (port : Nat) (bytes : List Byte)
  | hostRefused (port : Nat) (cause : BitVec 7)
  | refusedChange
  deriving DecidableEq, Repr

/-- The module's identity store (R359). -/
structure Identity where
  serial : Nat
  keyDigest : Nat
  minVersion : Nat
  /-- the attestation key pair: the private and the public key (R359) -/
  attestKey : Nat
  attestPublic : Nat
  deriving DecidableEq, Repr

/-- A boot under way (R358). -/
structure Boot where
  img : Image
  domain : Option Domain
  deriving DecidableEq, Repr

/-- One act of a gauge step, in the order the model runs them (log 4). -/
inductive Act where
  /-- an event, or what the outside does -/
  | ev (i : Instr)
  /-- inputs that are due, port 0 first (R356) -/
  | inputs
  /-- what the scheduler does in the step -/
  | scheduler
  /-- what the ferries do in the step -/
  | ferries
  /-- what the ferries read in the step, after its writes (R251) -/
  | loads
  /-- the ferries' issues -/
  | issues
  /-- the streams and counted lines of one ferry -/
  | streams (ferry : Nat)
  /-- the streams of one ferry that read in the step -/
  | loadsOf (ferry : Nat)
  /-- the cores whose clocks have a cycle in the step -/
  | cores
  /-- a further cycle of an elastic core in the step, if its clock has one -/
  | again (core : Nat)
  /-- what holds at the end of the step is noted -/
  | settle
  /-- a core's cycle begins -/
  | begin (core : Nat)
  /-- its results land -/
  | land (core : Nat)
  /-- writes and atomics of the peer ports that perform in this step -/
  | peerWrites
  /-- writes and atomics of a core's own port that perform in this cycle -/
  | coreWrites (core : Nat)
  /-- reads that perform in this step or cycle -/
  | reads
  /-- a core's cycle goes on: its sequencer issues -/
  | issue (core : Nat)
  deriving DecidableEq, Repr

/-- What a slot did when its word was given to it. -/
inductive SlotOut where
  | issued
  | waits
  | faulted
  deriving DecidableEq, Repr

/-- The bundle being issued: which core, context and bundle, and what its slots share (R45, R76). -/
structure Cur where
  core : Nat := 0
  ctx : Nat := 0
  pos : Nat := 0
  addr : Nat := 0
  hdr : Word32 := 0
  lit : Word32 := 0
  /-- the signals as they stood before any TICK of this bundle (R45) -/
  sigs : SMap Signal := []
  /-- the poisoned places of the core before any TICK of this bundle (R45, R349) -/
  poison : List Place := []
  /-- a deferred cause raised in this cycle, with the position of its bundle (R339) -/
  raised : Option (Nat × Deferred) := none
  out : SlotOut := .issued
  /-- no further slot of this bundle issues in this cycle (a blocked TICK, a waiting FENCE) -/
  block : Bool := false
  fin : EndKind := .none
  /-- some slot of this cycle has faulted (R77) -/
  faulted : Bool := false
  /-- a bundle-level fault was taken while a slot issued (0x55) -/
  levelFault : Bool := false
  /-- some slot of this cycle kept its position because it waits -/
  waited : Bool := false
  /-- some slot of this cycle issued or passed -/
  moved : Bool := false
  deriving DecidableEq, Repr

/-- The whole device. -/
structure State where
  gauge : Nat
  agenda : List Act
  inputs : List (Nat × Instr)
  /-- free choices fixed beforehand, the next one first; the model's own (log 5) -/
  tape : List Nat
  /-- number of the next free choice past the tape; the model's own (log 5) -/
  draws : Nat
  outbox : List Out
  seq : Nat
  cur : Cur
  cores : SMap CoreSt
  pipes : SMap Pipe
  confs : SMap Conf
  ferries : SMap Ferry
  streams : SMap Stream
  rings : SMap Ring
  gangs : SMap Gang
  gangKey : Nat
  /-- launches that have completed: stream, sequence, status (R112) -/
  done : List (Nat × Nat × BitVec 7)
  cards : List Card
  lastAdmitted : Nat
  reserving : Option Nat
  /-- resources of the reserving head that have been free since it began to reserve, and free samples by core (R114) -/
  reserveOpen : List Nat
  reserveSamples : SMap Nat
  aging : Word
  ckpts : List Ckpt
  dram : Mem
  badSectors : List Nat
  /-- errors corrected on read, counted for canopy (R313, R349) -/
  corrected : Nat
  roots : SMap Nat
  tables : List TableRec
  leafs : List LeafRec
  buffers : SMap (BitVec 512)
  /-- re-encoded blocks of a requantisation by buffer, side slots from 2^40 on (R312) -/
  newEnc : SMap Mem
  kv : SMap Word
  blocks : List (Nat × Block)
  pools : SMap Pool
  migrations : List Migration
  windows : List (Nat × Nat × Nat)
  ready : Bool
  unsync : Bool
  owner : BitVec 2
  stage : BitVec 3
  merr : Bool
  chip : BitVec 9
  temp : BitVec 8
  vmin : BitVec 12
  proc : BitVec 8
  hot : Bool
  crit : Bool
  mhz : Nat
  links : SMap (BitVec 32)
  /-- routes that heartwood has loaded: Sizen port and chip (R357) -/
  routes : List (Nat × Nat)
  hostLinks : SMap Nat
  /-- chips removed from the routes by quarantine (R363) -/
  quarantine : List Nat
  refGauge : Option Nat
  bootFails : Nat
  /-- a boot under way: its image and what the domain gives it (R358) -/
  boot : Option Boot
  bootHeld : Bool
  image : Option Image
  identity : Identity
  standby : Bool
  deriving DecidableEq, Repr

/-- A fault of the model: none is raised; every cause of the spec is taken as the spec describes it, in a next state. -/
inductive Fault where
  /-- raised by no meaning: kept so that the type has a name (safe) -/
  | none
  deriving DecidableEq, Repr

/-- A refusal of the model. -/
inductive Refusal where
  /-- raised by an arm of exec whose instruction has no meaning yet (safe: nothing can be proved of what it does) -/
  | notModelled (mnemonic : String)
  deriving DecidableEq, Repr

/-- The device right after reset: no gang admitted, every store clear, the management registers at the values of R104,
R135, R321, R355, R361 and the values that logs 1-4 name. -/
def State.reset : State where
  gauge := 0
  agenda := []
  inputs := []
  tape := []
  draws := 0
  outbox := []
  seq := 0
  cur := {}
  cores := []
  pipes := []
  confs := []
  ferries := []
  streams := []
  rings := []
  gangs := []
  gangKey := 0
  done := []
  cards := []
  lastAdmitted := 15
  reserving := none
  reserveOpen := []
  reserveSamples := []
  aging := 0x1000000
  ckpts := []
  dram := []
  badSectors := []
  corrected := 0
  roots := []
  tables := []
  leafs := []
  buffers := []
  newEnc := []
  kv := []
  blocks := []
  pools := []
  migrations := []
  windows := []
  ready := false
  unsync := false
  owner := 0
  stage := 0
  merr := false
  chip := 0
  temp := 0
  vmin := 0
  proc := 0
  hot := false
  crit := false
  mhz := 1450
  links := []
  routes := []
  hostLinks := []
  quarantine := []
  refGauge := none
  bootFails := 0
  boot := none
  bootHeld := false
  image := none
  identity := { serial := 0, keyDigest := 0, minVersion := 0, attestKey := 0, attestPublic := 0 }
  standby := false

end Sys2Proof.Machine
end

