-- ==== Sys2Proof/Machine/Ops.lean ====
section
/-! DEFINITION. The named operations on the state: access, results in flight, free choices, statistics, sequencing,
taking a fault and resuming from one. -/
namespace Sys2Proof.Machine

/-! ## Access -/

def coreOf (s : State) (k : Nat) : CoreSt := mapGet {} s.cores k
def setCore (s : State) (k : Nat) (c : CoreSt) : State := { s with cores := mapSet {} s.cores k c }
def modCore (s : State) (k : Nat) (f : CoreSt → CoreSt) : State := setCore s k (f (coreOf s k))
def ctxIn (c : CoreSt) (x : Nat) : Ctx := mapGet {} c.ctxs x
def putCtx (c : CoreSt) (x : Nat) (t : Ctx) : CoreSt := { c with ctxs := mapSet {} c.ctxs x t }
def ctxOf (s : State) (k x : Nat) : Ctx := ctxIn (coreOf s k) x
def setCtx (s : State) (k x : Nat) (t : Ctx) : State := modCore s k fun c => putCtx c x t
def modCtx (s : State) (k x : Nat) (f : Ctx → Ctx) : State := setCtx s k x (f (ctxOf s k x))
/-- The core and context whose bundle is being issued. -/
def curCore (s : State) : CoreSt := coreOf s s.cur.core
def curCtx (s : State) : Ctx := ctxOf s s.cur.core s.cur.ctx
def modCurCore (s : State) (f : CoreSt → CoreSt) : State := modCore s s.cur.core f
def modCurCtx (s : State) (f : Ctx → Ctx) : State := modCtx s s.cur.core s.cur.ctx f

def pipeOf (s : State) (p : Nat) : Pipe := mapGet {} s.pipes p
def setPipe (s : State) (p : Nat) (x : Pipe) : State := { s with pipes := mapSet {} s.pipes p x }
def confOf (s : State) (c : Nat) : Conf := mapGet {} s.confs c
def setConf (s : State) (c : Nat) (x : Conf) : State := { s with confs := mapSet {} s.confs c x }
def ferryOf (s : State) (f : Nat) : Ferry := mapGet {} s.ferries f
def setFerry (s : State) (f : Nat) (x : Ferry) : State := { s with ferries := mapSet {} s.ferries f x }
def streamOf (s : State) (n : Nat) : Stream := mapGet {} s.streams n
def setStream (s : State) (n : Nat) (x : Stream) : State := { s with streams := mapSet {} s.streams n x }
def ringOf (s : State) (n : Nat) : Ring := mapGet {} s.rings n
def setRing (s : State) (n : Nat) (x : Ring) : State := { s with rings := mapSet {} s.rings n x }

/-- R357: a Sizen port's link is up. -/
def linkUp (s : State) (port : Nat) : Bool := (mapGet 0 s.links port).getLsbD 0
/-- R353: a host port runs CXL, under which the device reads host-attached blocks. -/
def runsCxl (s : State) : Bool := s.hostLinks.any fun e => decide (4 ≤ e.2)
/-- R353, R357, R363: the device has no way to a chip; an address above the 432 chips is host memory, reached over CXL (R299,
log 57). -/
def noRoute (s : State) (chip : Nat) : Bool :=
  if 432 ≤ chip then !runsCxl s
  else decide (chip ≠ s.chip.toNat) && (s.quarantine.contains chip || !s.routes.any fun r => r.2 = chip && linkUp s r.1)

/-- The admitted gang of a key. -/
def gangOf (s : State) (g : Nat) : Option Gang := (s.gangs.find? fun e => e.1 = g).map Prod.snd
def setGang (s : State) (g : Nat) (x : Gang) : State := { s with gangs := mapPut s.gangs g x }
def modGang (s : State) (g : Nat) (f : Gang → Gang) : State :=
  match gangOf s g with
  | some x => setGang s g (f x)
  | none => s

/-- R137: s0 reads zero. -/
def sregOf (c : Ctx) (n : Nat) : Word := if n = 0 then 0 else mapGet 0 c.sregs n
/-- R137: a write to s0 is discarded. -/
def setSreg (c : Ctx) (n : Nat) (v : Word) : Ctx :=
  if n = 0 then c else { c with sregs := mapSet 0 c.sregs n v }
/-- R138: f0 reads 1. -/
def flagOf (c : Ctx) (n : Nat) : Bool := n = 0 || c.flags.getLsbD n
/-- R138: a write to f0 is discarded. -/
def setFlag (c : Ctx) (n : Nat) (v : Bool) : Ctx :=
  if n = 0 then c else
    let one : BitVec 8 := 1 <<< n
    { c with flags := if v then c.flags ||| one else c.flags &&& ~~~one }
def vregOf (c : Ctx) (n : Nat) : VReg := mapGet 0 c.vregs n
def setVreg (c : Ctx) (n : Nat) (v : VReg) : Ctx := { c with vregs := mapSet 0 c.vregs n v }
def maskOf (c : Ctx) (n : Nat) : Mask := mapGet 0 c.masks n
def setMask (c : Ctx) (n : Nat) (v : Mask) : Ctx := { c with masks := mapSet 0 c.masks n v }
def basinOf (c : Ctx) (n : Nat) : Basin := mapGet {} c.basins n
def setBasin (c : Ctx) (n : Nat) (v : Basin) : Ctx := { c with basins := mapSet {} c.basins n v }
def tileOf (c : CoreSt) (n : Nat) : TileReg := mapGet {} c.tiles n
def setTile (c : CoreSt) (n : Nat) (v : TileReg) : CoreSt := { c with tiles := mapSet {} c.tiles n v }
def groveOf (c : CoreSt) (n : Nat) : Grove := mapGet {} c.groves n
def setGrove (c : CoreSt) (n : Nat) (v : Grove) : CoreSt := { c with groves := mapSet {} c.groves n v }
/-- A declared signal of a core. -/
def sigOf (m : SMap Signal) (n : Nat) : Option Signal := (m.find? fun e => e.1 = n).map Prod.snd
def setSig (c : CoreSt) (n : Nat) (v : Signal) : CoreSt := { c with sigs := mapPut c.sigs n v }

/-- R123: the handle of a context. -/
def handleOf (k x : Nat) (epoch : BitVec 16) : Word :=
  word (x + 8 * (k % 8) + 64 * (k / 8) + 65536 * epoch.toNat + 2 ^ 63)
def ctxHandle (s : State) (k x : Nat) : Word := handleOf k x (ctxOf s k x).epoch
/-- R379: the placement number. -/
def placement (k x : Nat) : Nat := 8 * k + x

/-- R73: the space-0x3 global address of an instruction offset of a core. -/
def ispGlobal (k off : Nat) : Word := word (3 * 2 ^ 60 + (k / 8) * 2 ^ 22 + (k % 8) * 2 ^ 19 + off)

/-- R73: the space-0x1 global address of a scratchpad offset of a core. -/
def spadGlobal (k off : Nat) : Word := word (2 ^ 60 + k * 2 ^ 19 + off)
/-- R73: the space-0x2 global address of a tile of a core. -/
def tileGlobal (k t : Nat) : Word := word (2 * 2 ^ 60 + k * 2 ^ 20 + t * 2 ^ 15)

/-! ## Free choices -/

/-- Takes the next free choice: of the tape while it lasts, then one of which nothing is known (log 5). -/
def draw (s : State) : Nat × State :=
  match s.tape with
  | [] => (Config.freeChoice s.draws, { s with draws := s.draws + 1 })
  | x :: t => (x, { s with tape := t })

/-! ## A core's cycles to come (R320) -/

/-- The step in which an elastic core has its n-th next cycle, as its clock stands (R320). A conflict's record gets the step in which the
cycle really comes (`meetContest`). -/
def stepAhead (mhz : Nat) : Nat → Nat → List Nat → Nat → Nat → Nat
  | 0, _, _, _, g => g
  | fuel + 1, credit, levels, n, g =>
    let cost := (8 + levels.headD 0) * 1200
    if n = 0 then g
    else if cost ≤ credit then stepAhead mhz fuel (credit - cost) levels.tail (n - 1) g
    else stepAhead mhz fuel (credit + 8 * mhz) levels n (g + 1)

/-- Turns that three cycles take at a clock, the longest ones. -/
def stepFuel (mhz : Nat) : Nat := 4 * (15 * 1200 / (8 * max mhz 1) + 2)

/-- The step of a core's n-th cycle after a step, as its clock stands, n at most 3: a pinned core has one in every step. -/
def cycleStep (mhz : Nat) (c : CoreSt) (n g : Nat) : Nat :=
  if c.pinned then g + n else stepAhead mhz (stepFuel mhz) c.credit c.levels n g

/-! ## Results in flight -/

/-- R15: puts a result in flight from the issuing slot, to land `lat` cycles after this one. -/
def push (s : State) (sl : Slot) (lat : Nat) (eff : Eff) (poison : Bool := false) : State :=
  let p : Pend := { due := (curCore s).cyc + lat, ctx := s.cur.ctx, pos := s.cur.pos, slot := sl.idx, seq := s.seq,
                    bundle := s.cur.addr, eff := eff, poison := poison }
  { modCurCore s (fun c => { c with pend := c.pend ++ [p] }) with seq := s.seq + 1 }

/-- Writes a scalar register `lat` cycles after issue. -/
def pushS (s : State) (sl : Slot) (lat : Nat) (d : BitVec 5) (v : Word) : State := push s sl lat (.sreg d.toNat v)
/-- Writes a flag `lat` cycles after issue. -/
def pushF (s : State) (sl : Slot) (lat : Nat) (d : BitVec 3) (v : Bool) : State := push s sl lat (.flag d.toNat v)

/-- The place of a result that debug pending-bit mode watches (R257); a write to s0 or f0 is discarded, so nothing is
pending there (R137, R138). -/
def effPlace (x : Nat) : Eff → Option Place
  | .sreg d _ => if d = 0 then none else some (.sreg x d)
  | .flag d _ => if d = 0 then none else some (.flag x d)
  | .vreg d _ => some (.vreg x d)
  | .mask d _ => some (.mask x d)
  | .basinClear d => some (.basin x d)
  | .basinAdd d _ _ _ => some (.basin x d)
  | _ => none

/-! ## Statistics (R346, R347) -/

/-- A statistics record. -/
def statRecord (kind bundle payload : Nat) : Word :=
  word (kind % 64 + 64 * (bundle % 2 ^ 18) + 2 ^ 24 * (payload % 2 ^ 40))

/-- R346: enters a record, or counts it in the lost record when 31 are held. -/
def statEnter (q : List Word) (r : Word) : List Word :=
  if q.length < 31 then q ++ [r]
  else if q.any (fun w => w.toNat % 64 = 0x3F) then
    q.map fun w => if w.toNat % 64 = 0x3F then
      statRecord 0x3F 0 (min (w.toNat / 2 ^ 24 + 1) (2 ^ 40 - 1)) else w
  else q ++ [statRecord 0x3F 0 1]

/-- R346: order of records by step and, within a step, core events, ferry events, scheduler events. -/
def statRank (e : Nat × Word) : Nat :=
  let kind := e.2.toNat % 64
  4 * e.1 + (if kind = 7 then 2 else if kind = 8 ∨ kind = 9 then 1 else 0)

/-- Makes the records of steps before `g` visible (R346, R348). -/
def statSettle (c : Ctx) (g : Nat) : Ctx :=
  { c with statq := (sortBy statRank (c.statNew.filter fun e => e.1 < g)).foldl (fun q e => statEnter q e.2) c.statq
           statNew := c.statNew.filter fun e => !decide (e.1 < g) }

/-- Appends a record to a context's queue in the current step; work of a context that its gang's end has released (number 8)
has no queue. -/
def statAppend (s : State) (k x kind bundle payload : Nat) : State :=
  if 8 ≤ x then s
  else modCtx s k x fun c => { c with statNew := c.statNew ++ [(s.gauge, statRecord kind bundle payload)] }

/-! ## Occupancy (R133) -/

/-- Changes the row of the current phase. -/
def occBump (c : Ctx) (f : OccRow → OccRow) : Ctx :=
  { c with occ := mapSet {} c.occ c.occPhase.toNat (f (mapGet {} c.occ c.occPhase.toNat)) }

/-- A slot whose word is present and whose guard passes is busy (R133). -/
def occSlot (sl : Slot) (r : OccRow) : OccRow :=
  match sl with
  | .S => { r with busyS := r.busyS + 1 }
  | .V0 => { r with busyV := r.busyV + 1 }
  | .V1 => { r with busyV := r.busyV + 1 }
  | .M => { r with busyM := r.busyM + 1 }
  | .C0 => { r with busyC := r.busyC + 1 }
  | .C1 => { r with busyC := r.busyC + 1 }

/-! ## Bundle headers and the next bundle (R52-R56, R149, R150, R154, R155) -/

def hMask (h : Word32) : Nat := h.toNat % 64
def hY (h : Word32) : Bool := h.getLsbD 6
def hP (h : Word32) : Bool := h.getLsbD 7
def hE (h : Word32) : Bool := h.getLsbD 8
def hL (h : Word32) : Bool := h.getLsbD 9
def hKind (h : Word32) : Nat := field h.toNat 10 2
/-- Owner code of port `p`: A0-A2 are 0-2, B0-B2 are 3-5 (R54). -/
def hOwner (h : Word32) (p : Nat) : Nat := field h.toNat (12 + 3 * p) 3
/-- R52: bytes of a bundle. -/
def hSize (h : Word32) : Nat := 4 + (if hKind h = 0 then 0 else 4) + 4 * popcountN 6 (hMask h)
/-- The present slots in order. -/
def hSlots (h : Word32) : List Slot := Slot.all.filter fun sl => h.getLsbD sl.idx

/-- R149: the end of the region that holds an instruction address. -/
def regionEnd (a : Nat) : Nat := if a < 0x10000 then 0x10000 else if a < 0x20000 then 0x20000 else 0x22000
/-- R149: 0 half 0, 1 half 1, 2 the resident region. -/
def regionOf (a : Nat) : Nat := if a < 0x10000 then 0 else if a < 0x20000 then 1 else 2
/-- R263: the address lies in the half that is not live for the context. -/
def otherHalf (c : Ctx) (a : Nat) : Bool := regionOf a = (if c.liveHalf then 0 else 1)

/-- R155: pops the entries whose range excludes the target of a BR or BRI. -/
def loopPop (a : Nat) : List LoopEntry → List LoopEntry
  | [] => []
  | e :: es => if e.start ≤ a ∧ a ≤ e.stop then e :: es else loopPop a es

/-- R154: the loop stack after an E bundle at an address, and the start it supplies. -/
def loopEnd (a : Nat) : List LoopEntry → List LoopEntry × Option Nat
  | [] => ([], none)
  | e :: es =>
    if e.stop = a then
      if 1 < e.count.toNat then ({ e with count := e.count - 1 } :: es, some e.start) else loopEnd a es
    else (e :: es, none)

/-- The bundle at the context's next position: its address, whether it is a bubble, and the branch it is the target of
(R150). DEDUCED (log 20): a target that takes the place of a zero-count loop's bubble is followed by its own successor, and the
bundle after the loop's end is not reached by that loop; so too where an E bundle that holds the LOOP goes back to the start of
its own loop. -/
def nextBundle (c : Ctx) : Nat × Bool × Option Target :=
  match c.targets.find? fun t => t.pos = c.npos with
  | some t => (t.addr, false, some t)
  | none =>
    match c.loopNext with
    | some a => (a, false, none)
    | none => (c.seqNext, c.bubbles.contains c.npos, none)

/-- R155: the loop stack as the bundle at the next position sees it. -/
def loopsAtNext (c : Ctx) : List LoopEntry :=
  match (nextBundle c).2.2 with
  | some t => if t.pops then loopPop t.addr c.loops else c.loops
  | none => c.loops

/-- R341: the bundle at a position is a delay bundle of a taken branch. -/
def isDelay (c : Ctx) (pos : Nat) : Bool := c.targets.any fun t => pos < t.pos && t.pos ≤ pos + 2

/-- Processes a header for sequencing: consumes what named the bundle, applies the E bit when asked, and moves on. -/
def passHeader (c : Ctx) (h : Word32) (useE : Bool) : Ctx :=
  let nb := nextBundle c
  let stack := loopsAtNext c
  let le := if useE && hE h then loopEnd nb.1 stack else (stack, none)
  { c with
    loops := le.1
    loopNext := le.2
    targets := c.targets.filter fun t => c.npos < t.pos
    bubbles := c.bubbles.filter fun p => c.npos < p
    seqNext := if nb.2.1 then c.seqNext else nb.1 + hSize h
    npos := c.npos + 1 }

/-! ## Taking a fault (R77, R217, R338-R342) and resuming from one (R126, R344) -/

/-- Adds a fault of the current cycle to what the context already holds: of the bundles that fault in one cycle the first
in program order is kept, with all its faulting slots and its first slot's cause (R217). -/
def mergeFault (old new : FaultInfo) : FaultInfo :=
  if new.pos < old.pos then new
  else if new.pos = old.pos then { old with slots := old.slots ||| new.slots }
  else old

/-- Takes a fault in a context: the context stops with its fault in hand, its count of faults rises, and nothing else of
it changes; results in flight go on and land (R338). The record is written when the context is quiescent (R340). A second
fault of the same cycle is merged. -/
def takeFault (s : State) (k x : Nat) (f : FaultInfo) : State :=
  modCtx s k x fun c =>
    match c.fault with
    | some old =>
      if old.step = f.step ∧ old.cycle = f.cycle ∧ old.quiet = none then { c with fault := some (mergeFault old f) }
      else { c with fault := some f, life := .stopped, nfault := if c.nfault = 255 then 255 else c.nfault + 1 }
    | none => { c with fault := some f, life := .stopped, nfault := if c.nfault = 255 then 255 else c.nfault + 1 }

/-- R341: the bundle at a position is a delay bundle; one whose header has been processed has it noted. -/
def delayAt (c : Ctx) (pos : Nat) : Bool :=
  match c.win.find? fun b => b.pos = pos with
  | some b => b.delay
  | none => isDelay c pos

/-- The fields of a fault at the bundle being issued. -/
def faultHere (s : State) (cause : BitVec 7) (slots : BitVec 6) (level : Bool) (d0 d1 d2 : Word) : FaultInfo :=
  let c := curCtx s
  { step := s.gauge, cycle := (curCore s).cyc, bundle := s.cur.addr, pos := s.cur.pos, cause := cause, slots := slots,
    level := level, pinned := (curCore s).pinned, delay := delayAt c s.cur.pos, loops := c.loops.length, ferry := false,
    lead := [], tick := c.tick, d0 := d0, d1 := d1, d2 := d2, batch := none, quiet := none, recorded := false,
    queued := false, host := none,
    contest := if cause = 0x31 ∧ d0.getLsbD 12 = false then some ((curCore s).cyc + 3) else none }

/-- R342: the fault with the step of its contested bank cycle. -/
def contestAt (f : FaultInfo) (g : Nat) : FaultInfo := { f with d0 := word (setField f.d0.toNat 24 40 (g % 2 ^ 40)) }

/-- R60: the guard passes when its flag XOR bit 24 is 1. -/
def guardPass (c : Ctx) (g : BitVec 4) : Bool := xor (flagOf c (g.toNat % 8)) (g.getLsbD 3)

/-- R133: a slot whose word is present and whose guard passes counts as busy, whether its word issues or faults. -/
def busySlot (s : State) (sl : Slot) : State := modCurCtx s fun c => occBump c (occSlot sl)

/-- R77: a slot of the bundle being issued faults; it has no effect and the context stops. -/
def quietFault (s : State) (sl : Slot) (cause : BitVec 7) (d0 d1 d2 : Word) : State :=
  let s := takeFault s s.cur.core s.cur.ctx (faultHere s cause (1 <<< sl.idx) false d0 d1 d2)
  { s with cur := { s.cur with out := .faulted, faulted := true } }

/-- R77: a slot whose guard passes faults. -/
def slotFault (s : State) (sl : Slot) (cause : BitVec 7) (d0 d1 d2 : Word) : State := quietFault (busySlot s sl) sl cause d0 d1 d2

/-- R76: the bundle being issued faults as a whole. -/
def levelFault (s : State) (cause : BitVec 7) (d0 d1 d2 : Word) : State :=
  let s := takeFault s s.cur.core s.cur.ctx (faultHere s cause 0 true d0 d1 d2)
  { s with cur := { s.cur with out := .faulted, faulted := true, levelFault := true, block := true } }

/-- R342: an encoding cause in a slot, with its detail; these checks come before the guard's value (R76). -/
def encodingFault (s : State) (sl : Slot) (cause : BitVec 7) (w : Word32) : State :=
  quietFault (if guardPass (curCtx s) (BitVec.ofNat 4 (field w.toNat 21 4)) then busySlot s sl else s) sl cause (word (w.toNat + 2 ^ 32 * s.cur.hdr.toNat)) (zext64 s.cur.lit) 0

/-- What FRESUME asks for (R126). -/
inductive Resume where
  | resume | skip | retire
  deriving DecidableEq, Repr

/-- Advances the slots of a mask that stand at a position. -/
def passSlots (spos : List Nat) (pos : Nat) (all : Bool) (slots : BitVec 6) : List Nat :=
  spos.mapIdx fun i p => if p = pos && (all || slots.getLsbD i) then p + 1 else p

/-- R344: a header whose Y and P bits are ignored. -/
def noSwitch (h : Word32) : Word32 := h &&& ~~~(0xC0 : Word32)

/-- R344, skip: the faulting slots pass their bundle, whose Y and P bits no longer act; a bundle-level fault's header is
processed for sequencing, its E bit under R154 unless the cause is 0x7A, and none of its words acts. `h` is that bundle's
header. -/
def skipFault (c : Ctx) (f : FaultInfo) (h : Word32) : Ctx :=
  if f.level && f.pos = c.npos then
    let c' := passHeader c h (f.cause != 0x7A)
    let b : Bundle := { pos := f.pos, addr := f.bundle, hdr := 0, lit := 0, words := [], level := false, delay := f.delay }
    { c' with win := c.win ++ [b], spos := passSlots c.spos f.pos true 0 }
  else
    { c with spos := passSlots c.spos f.pos f.level f.slots
             win := c.win.map fun b => if b.pos = f.pos then { b with hdr := noSwitch b.hdr } else b }

/-- R126: a context becomes ready in the next cycle of the core whose bundle is being issued. -/
def wakeNext (s : State) (k x : Nat) : State :=
  let p : Pend := { due := (curCore s).cyc + 1, ctx := 8, pos := s.cur.pos, slot := 0, seq := s.seq, bundle := s.cur.addr,
                    eff := .wake k x }
  { modCurCore s (fun c => { c with pend := c.pend ++ [p] }) with seq := s.seq + 1 }

/-- R126, R344: what a resumption does to the stopped context, which becomes ready at issue+1. -/
def resumeFault (s : State) (k x : Nat) (how : Resume) (h : Word32) : State :=
  wakeNext (modCtx s k x fun c =>
    match c.fault with
    | none => c
    | some f =>
      let c := match how with
        | .skip => skipFault c f h
        | _ => c
      { c with fault := none, pauseCount := 0, stRS := true, life := .resuming }) k x

end Sys2Proof.Machine
end

