-- ==== Sys2Proof/Machine/Flags.lean ====
section
/-! DEFINITION. Guards and the comparisons that write flags and masks (R59, R60, R67, R68). -/
namespace Sys2Proof.Machine

/-- R67: the conditions of SCMP and SCMPL. -/
def scalarCond (code : BitVec 4) (x y : Word) : Bool :=
  match code.toNat with
  | 0 => x == y
  | 1 => x != y
  | 2 => x.slt y
  | 3 => x.sle y
  | 4 => y.slt x
  | 5 => y.sle x
  | 6 => x.ult y
  | 7 => x.ule y
  | 8 => y.ult x
  | _ => y.ule x

/-- R68: the integer conditions of VCMP on lanes of width `w`. -/
def laneCond (w : Nat) (uns : Bool) (code : BitVec 2) (x y : Nat) : Bool :=
  let lt := if uns then decide (x < y) else decide (toSigned w x < toSigned w y)
  match code.toNat with
  | 0 => x == y
  | 1 => x != y
  | 2 => lt
  | _ => lt || x == y

end Sys2Proof.Machine
end

