-- ==== Sys2Proof/Machine/Operands.lean ====
section
/-! DEFINITION. Every operand form of the slots, the checks of R76 that each slot makes, and the frame in which a slot
instruction runs. -/
namespace Sys2Proof.Machine

/-- The slot an instruction stands in; an event stands in none. -/
def slotOf : Instr → Option Slot
  | .nop sl _ => some sl
  | .add _ _ _ _ => some .S
  | .sub _ _ _ _ => some .S
  | .mul _ _ _ _ => some .S
  | .mulhi _ _ _ _ => some .S
  | .mulhn _ _ _ _ => some .S
  | .div _ _ _ _ => some .S
  | .divn _ _ _ _ => some .S
  | .rem _ _ _ _ => some .S
  | .remn _ _ _ _ => some .S
  | .and _ _ _ _ => some .S
  | .or _ _ _ _ => some .S
  | .xor _ _ _ _ => some .S
  | .shl _ _ _ _ => some .S
  | .shr _ _ _ _ => some .S
  | .sra _ _ _ _ => some .S
  | .min _ _ _ _ => some .S
  | .max _ _ _ _ => some .S
  | .minn _ _ _ _ => some .S
  | .maxn _ _ _ _ => some .S
  | .clz _ _ _ => some .S
  | .popc _ _ _ => some .S
  | .sel _ _ _ _ _ => some .S
  | .scmp _ _ _ _ _ => some .S
  | .scmpl _ _ _ _ => some .S
  | .addi _ _ _ _ => some .S
  | .andi _ _ _ _ => some .S
  | .ori _ _ _ _ => some .S
  | .xori _ _ _ _ => some .S
  | .shli _ _ _ _ => some .S
  | .shri _ _ _ _ => some .S
  | .srai _ _ _ _ => some .S
  | .ldi _ _ _ => some .S
  | .lit _ _ => some .S
  | .lith _ _ => some .S
  | .lqpop _ _ => some .S
  | .lqpeek _ _ => some .S
  | .br _ _ => some .S
  | .call _ _ => some .S
  | .bri _ _ => some .S
  | .ret _ => some .S
  | .loop _ _ _ => some .S
  | .loopi _ _ _ => some .S
  | .bswap _ _ => some .S
  | .ifence _ => some .S
  | .tick _ => some .S
  | .snow _ _ _ => some .S
  | .sclr _ _ => some .S
  | .waitp _ _ => some .S
  | .arrive _ _ => some .S
  | .waitc _ _ => some .S
  | .mwait _ _ _ => some .S
  | .fence _ _ => some .S
  | .gauge _ _ => some .S
  | .cycles _ _ => some .S
  | .fmtset _ _ => some .S
  | .fmtget _ _ => some .S
  | .gseed _ _ _ => some .S
  | .gbest _ _ _ => some .S
  | .tstat _ _ _ => some .S
  | .sqpop _ _ => some .S
  | .ctlrd _ _ _ => some .S
  | .ctlwr _ _ _ => some .S
  | .trap _ _ => some .S
  | .retire _ => some .S
  | .spawn _ _ _ _ => some .S
  | .fresume _ _ _ => some .S
  | .brk _ _ => some .S
  | .vadd sl _ _ _ _ _ _ => some sl.slot
  | .vsub sl _ _ _ _ _ _ => some sl.slot
  | .vmul sl _ _ _ _ _ _ => some sl.slot
  | .vmin sl _ _ _ _ _ _ => some sl.slot
  | .vmax sl _ _ _ _ _ _ => some sl.slot
  | .vabs sl _ _ _ _ _ => some sl.slot
  | .vneg sl _ _ _ _ _ => some sl.slot
  | .vcmp sl _ _ _ _ _ _ _ => some sl.slot
  | .vsel sl _ _ _ _ _ _ => some sl.slot
  | .vand sl _ _ _ _ _ _ => some sl.slot
  | .vor sl _ _ _ _ _ _ => some sl.slot
  | .vxor sl _ _ _ _ _ _ => some sl.slot
  | .vshl sl _ _ _ _ _ _ => some sl.slot
  | .vshr sl _ _ _ _ _ _ => some sl.slot
  | .vsra sl _ _ _ _ _ _ => some sl.slot
  | .vcvt sl _ _ _ _ _ _ _ _ => some sl.slot
  | .vdiv sl _ _ _ _ _ _ => some sl.slot
  | .vsqrt sl _ _ _ _ _ => some sl.slot
  | .vrcp sl _ _ _ _ _ => some sl.slot
  | .vrsq sl _ _ _ _ _ => some sl.slot
  | .vexp2 sl _ _ _ _ _ => some sl.slot
  | .vlog2 sl _ _ _ _ _ => some sl.slot
  | .vredadd sl _ _ _ _ _ => some sl.slot
  | .vredmax sl _ _ _ _ _ => some sl.slot
  | .vredmin sl _ _ _ _ _ => some sl.slot
  | .vargmx sl _ _ _ _ _ => some sl.slot
  | .vbcast sl _ _ _ _ => some sl.slot
  | .vperm sl _ _ _ _ _ => some sl.slot
  | .vmov sl _ _ _ => some sl.slot
  | .xmov sl _ _ _ => some sl.slot
  | .vfma_d sl _ _ _ _ _ _ => some sl.slot
  | .vfma_s sl _ _ _ _ _ _ => some sl.slot
  | .vfma_h sl _ _ _ _ _ _ => some sl.slot
  | .vfma_b sl _ _ _ _ _ _ => some sl.slot
  | .bclr sl _ _ => some sl.slot
  | .bacc sl _ _ _ _ _ => some sl.slot
  | .badd sl _ _ _ => some sl.slot
  | .brnd sl _ _ _ _ _ => some sl.slot
  | .bsgn sl _ _ _ _ => some sl.slot
  | .bmovb sl _ _ _ _ => some sl.slot
  | .vsumm sl _ _ _ => some sl.slot
  | .vcount sl _ _ _ => some sl.slot
  | .kand sl _ _ _ _ => some sl.slot
  | .kor sl _ _ _ _ => some sl.slot
  | .kxor sl _ _ _ _ => some sl.slot
  | .knot sl _ _ _ => some sl.slot
  | .sfeed sl _ _ _ => some sl.slot
  | .twrow sl _ _ _ _ _ => some sl.slot
  | .trcol sl _ _ _ _ _ => some sl.slot
  | .trrow sl _ _ _ _ _ => some sl.slot
  | .psend sl _ _ _ => some sl.slot
  | .ptake sl _ _ _ => some sl.slot
  | .plook sl _ _ _ => some sl.slot
  | .vsnorm sl _ _ _ _ _ _ => some sl.slot
  | .vcbq sl _ _ _ _ => some sl.slot
  | .vcbx sl _ _ _ _ => some sl.slot
  | .cbld sl _ _ _ => some sl.slot
  | .mpush _ _ _ _ _ _ _ => some .M
  | .mshift _ => some .M
  | .macc _ _ _ _ => some .M
  | .mdrain _ _ _ _ => some .M
  | .mclr _ => some .M
  | .mmask _ _ _ => some .M
  | .mpushg _ _ _ _ _ _ => some .M
  | .mgload _ _ _ _ => some .M
  | .msrch _ _ _ _ _ => some .M
  | .msproj _ _ _ _ _ => some .M
  | .mpushd _ _ _ _ _ _ _ => some .M
  | .lda sl _ _ _ _ => some sl.slot
  | .vlda sl _ _ _ => some sl.slot
  | .tlrow sl _ _ _ _ => some sl.slot
  | .st sl _ _ _ _ _ => some sl.slot
  | .vst sl _ _ _ _ => some sl.slot
  | .tsrow sl _ _ _ _ => some sl.slot
  | .atom sl _ _ _ _ _ _ _ => some sl.slot
  | .aupd sl _ _ _ => some sl.slot
  | .aupds sl _ _ _ => some sl.slot
  | .fcopy sl _ _ _ _ _ => some sl.slot
  | .fshape sl _ _ _ => some sl.slot
  | .fstamp sl _ _ _ => some sl.slot
  | .fquant sl _ _ _ _ _ => some sl.slot
  | .fdedup sl _ _ _ _ _ _ => some sl.slot
  | .falloc sl _ _ _ _ _ _ => some sl.slot
  | .ffree sl _ _ _ _ _ => some sl.slot
  | .fatom sl _ _ _ _ _ _ => some sl.slot
  | .fmtag sl _ _ _ _ => some sl.slot
  | .fkvmap sl _ _ _ _ _ => some sl.slot
  | .fcard sl _ _ _ => some sl.slot
  | .fsum sl _ _ _ _ _ => some sl.slot
  | .froom sl _ _ => some sl.slot
  | .illegalOpcode sl _ => some sl
  | _ => none

/-- The guard of an instruction (R59). -/
def guardField : Instr → BitVec 4
  | .nop _ g => g
  | .add g _ _ _ => g
  | .sub g _ _ _ => g
  | .mul g _ _ _ => g
  | .mulhi g _ _ _ => g
  | .mulhn g _ _ _ => g
  | .div g _ _ _ => g
  | .divn g _ _ _ => g
  | .rem g _ _ _ => g
  | .remn g _ _ _ => g
  | .and g _ _ _ => g
  | .or g _ _ _ => g
  | .xor g _ _ _ => g
  | .shl g _ _ _ => g
  | .shr g _ _ _ => g
  | .sra g _ _ _ => g
  | .min g _ _ _ => g
  | .max g _ _ _ => g
  | .minn g _ _ _ => g
  | .maxn g _ _ _ => g
  | .clz g _ _ => g
  | .popc g _ _ => g
  | .sel g _ _ _ _ => g
  | .scmp g _ _ _ _ => g
  | .scmpl g _ _ _ => g
  | .addi g _ _ _ => g
  | .andi g _ _ _ => g
  | .ori g _ _ _ => g
  | .xori g _ _ _ => g
  | .shli g _ _ _ => g
  | .shri g _ _ _ => g
  | .srai g _ _ _ => g
  | .ldi g _ _ => g
  | .lit g _ => g
  | .lith g _ => g
  | .lqpop g _ => g
  | .lqpeek g _ => g
  | .br g _ => g
  | .call g _ => g
  | .bri g _ => g
  | .ret g => g
  | .loop g _ _ => g
  | .loopi g _ _ => g
  | .bswap g _ => g
  | .ifence g => g
  | .tick g => g
  | .snow g _ _ => g
  | .sclr g _ => g
  | .waitp g _ => g
  | .arrive g _ => g
  | .waitc g _ => g
  | .mwait g _ _ => g
  | .fence g _ => g
  | .gauge g _ => g
  | .cycles g _ => g
  | .fmtset g _ => g
  | .fmtget g _ => g
  | .gseed g _ _ => g
  | .gbest g _ _ => g
  | .tstat g _ _ => g
  | .sqpop g _ => g
  | .ctlrd g _ _ => g
  | .ctlwr g _ _ => g
  | .trap g _ => g
  | .retire g => g
  | .spawn g _ _ _ => g
  | .fresume g _ _ => g
  | .brk g _ => g
  | .vadd _ g _ _ _ _ _ => g
  | .vsub _ g _ _ _ _ _ => g
  | .vmul _ g _ _ _ _ _ => g
  | .vmin _ g _ _ _ _ _ => g
  | .vmax _ g _ _ _ _ _ => g
  | .vabs _ g _ _ _ _ => g
  | .vneg _ g _ _ _ _ => g
  | .vcmp _ g _ _ _ _ _ _ => g
  | .vsel _ g _ _ _ _ _ => g
  | .vand _ g _ _ _ _ _ => g
  | .vor _ g _ _ _ _ _ => g
  | .vxor _ g _ _ _ _ _ => g
  | .vshl _ g _ _ _ _ _ => g
  | .vshr _ g _ _ _ _ _ => g
  | .vsra _ g _ _ _ _ _ => g
  | .vcvt _ g _ _ _ _ _ _ _ => g
  | .vdiv _ g _ _ _ _ _ => g
  | .vsqrt _ g _ _ _ _ => g
  | .vrcp _ g _ _ _ _ => g
  | .vrsq _ g _ _ _ _ => g
  | .vexp2 _ g _ _ _ _ => g
  | .vlog2 _ g _ _ _ _ => g
  | .vredadd _ g _ _ _ _ => g
  | .vredmax _ g _ _ _ _ => g
  | .vredmin _ g _ _ _ _ => g
  | .vargmx _ g _ _ _ _ => g
  | .vbcast _ g _ _ _ => g
  | .vperm _ g _ _ _ _ => g
  | .vmov _ g _ _ => g
  | .xmov _ g _ _ => g
  | .vfma_d _ g _ _ _ _ _ => g
  | .vfma_s _ g _ _ _ _ _ => g
  | .vfma_h _ g _ _ _ _ _ => g
  | .vfma_b _ g _ _ _ _ _ => g
  | .bclr _ g _ => g
  | .bacc _ g _ _ _ _ => g
  | .badd _ g _ _ => g
  | .brnd _ g _ _ _ _ => g
  | .bsgn _ g _ _ _ => g
  | .bmovb _ g _ _ _ => g
  | .vsumm _ g _ _ => g
  | .vcount _ g _ _ => g
  | .kand _ g _ _ _ => g
  | .kor _ g _ _ _ => g
  | .kxor _ g _ _ _ => g
  | .knot _ g _ _ => g
  | .sfeed _ g _ _ => g
  | .twrow _ g _ _ _ _ => g
  | .trcol _ g _ _ _ _ => g
  | .trrow _ g _ _ _ _ => g
  | .psend _ g _ _ => g
  | .ptake _ g _ _ => g
  | .plook _ g _ _ => g
  | .vsnorm _ g _ _ _ _ _ => g
  | .vcbq _ g _ _ _ => g
  | .vcbx _ g _ _ _ => g
  | .cbld _ g _ _ => g
  | .mpush g _ _ _ _ _ _ => g
  | .mshift g => g
  | .macc g _ _ _ => g
  | .mdrain g _ _ _ => g
  | .mclr g => g
  | .mmask g _ _ => g
  | .mpushg g _ _ _ _ _ => g
  | .mgload g _ _ _ => g
  | .msrch g _ _ _ _ => g
  | .msproj g _ _ _ _ => g
  | .mpushd g _ _ _ _ _ _ => g
  | .lda _ g _ _ _ => g
  | .vlda _ g _ _ => g
  | .tlrow _ g _ _ _ => g
  | .st _ g _ _ _ _ => g
  | .vst _ g _ _ _ => g
  | .tsrow _ g _ _ _ => g
  | .atom _ g _ _ _ _ _ _ => g
  | .aupd _ g _ _ => g
  | .aupds _ g _ _ => g
  | .fcopy _ g _ _ _ _ => g
  | .fshape _ g _ _ => g
  | .fstamp _ g _ _ => g
  | .fquant _ g _ _ _ _ => g
  | .fdedup _ g _ _ _ _ _ => g
  | .falloc _ g _ _ _ _ _ => g
  | .ffree _ g _ _ _ _ => g
  | .fatom _ g _ _ _ _ _ => g
  | .fmtag _ g _ _ _ => g
  | .fkvmap _ g _ _ _ _ => g
  | .fcard _ g _ _ => g
  | .fsum _ g _ _ _ _ => g
  | .froom _ g _ => g
  | _ => 0

/-- The scalar registers an instruction reads (R137, R139). -/
def scalarSources : Instr → List (BitVec 5)
  | .ret _ => [31]
  | .add _ _ a b => [a, b]
  | .sub _ _ a b => [a, b]
  | .mul _ _ a b => [a, b]
  | .mulhi _ _ a b => [a, b]
  | .mulhn _ _ a b => [a, b]
  | .div _ _ a b => [a, b]
  | .divn _ _ a b => [a, b]
  | .rem _ _ a b => [a, b]
  | .remn _ _ a b => [a, b]
  | .and _ _ a b => [a, b]
  | .or _ _ a b => [a, b]
  | .xor _ _ a b => [a, b]
  | .shl _ _ a b => [a, b]
  | .shr _ _ a b => [a, b]
  | .sra _ _ a b => [a, b]
  | .min _ _ a b => [a, b]
  | .max _ _ a b => [a, b]
  | .minn _ _ a b => [a, b]
  | .maxn _ _ a b => [a, b]
  | .clz _ _ a => [a]
  | .popc _ _ a => [a]
  | .sel _ _ a b _ => [a, b]
  | .scmp _ _ a b _ => [a, b]
  | .scmpl _ _ a _ => [a]
  | .addi _ _ a _ => [a]
  | .andi _ _ a _ => [a]
  | .ori _ _ a _ => [a]
  | .xori _ _ a _ => [a]
  | .shli _ _ a _ => [a]
  | .shri _ _ a _ => [a]
  | .srai _ _ a _ => [a]
  | .lith _ d => [d]
  | .bri _ a => [a]
  | .loop _ a _ => [a]
  | .mwait _ a b => [a, b]
  | .fmtset _ a => [a]
  | .gseed _ _ a => [a]
  | .ctlwr _ d _ => [d]
  | .spawn _ _ a b => [a, b]
  | .fresume _ a _ => [a]
  | .vbcast _ _ _ a _ => [a]
  | .lda _ _ a _ _ => [a]
  | .vlda _ _ a _ => [a]
  | .tlrow _ _ _ a _ => [a]
  | .st _ _ d a _ _ => [d, a]
  | .vst _ _ _ a _ => [a]
  | .tsrow _ _ _ a _ => [a]
  | .atom _ _ _ a b _ _ _ => [a, b]
  | .aupd _ _ d _ => [d]
  | .aupds _ _ d a => [d, a]
  | .fcopy _ _ t a b _ => [t, a, b]
  | .fshape _ _ a _ => [a]
  | .fstamp _ _ a b => [a, b]
  | .fquant _ _ t a b _ => [t, a, b]
  | .fdedup _ _ t a b _ _ => [t, a, b]
  | .falloc _ _ t a b _ _ => [t, a, b]
  | .ffree _ _ t a b _ => [t, a, b]
  | .fatom _ _ t a b _ _ => [t, a, b]
  | .fmtag _ _ t a b => [t, a, b]
  | .fkvmap _ _ t a b _ => [t, a, b]
  | .fcard _ _ t a => [t, a]
  | .fsum _ _ t a b _ => [t, a, b]
  | _ => []

/-- The vector source fields of a V-slot instruction, in operand order (R58, R63). -/
def vectorSources : Instr → List (BitVec 5)
  | .vadd _ _ _ a b _ _ => [a, b]
  | .vsub _ _ _ a b _ _ => [a, b]
  | .vmul _ _ _ a b _ _ => [a, b]
  | .vmin _ _ _ a b _ _ => [a, b]
  | .vmax _ _ _ a b _ _ => [a, b]
  | .vabs _ _ _ a _ _ => [a]
  | .vneg _ _ _ a _ _ => [a]
  | .vcmp _ _ _ a b _ _ _ => [a, b]
  | .vsel _ _ _ a b _ _ => [a, b]
  | .vand _ _ _ a b _ _ => [a, b]
  | .vor _ _ _ a b _ _ => [a, b]
  | .vxor _ _ _ a b _ _ => [a, b]
  | .vshl _ _ _ a b _ _ => [a, b]
  | .vshr _ _ _ a b _ _ => [a, b]
  | .vsra _ _ _ a b _ _ => [a, b]
  | .vcvt _ _ _ a _ _ _ _ _ => [a]
  | .vdiv _ _ _ a b _ _ => [a, b]
  | .vsqrt _ _ _ a _ _ => [a]
  | .vrcp _ _ _ a _ _ => [a]
  | .vrsq _ _ _ a _ _ => [a]
  | .vexp2 _ _ _ a _ _ => [a]
  | .vlog2 _ _ _ a _ _ => [a]
  | .vredadd _ _ _ a _ _ => [a]
  | .vredmax _ _ _ a _ _ => [a]
  | .vredmin _ _ _ a _ _ => [a]
  | .vargmx _ _ _ a _ _ => [a]
  | .vperm _ _ _ a b _ => [a, b]
  | .vmov _ _ _ a => [a]
  | .xmov _ _ _ a => [a]
  | .vfma_d _ _ _ a b c _ => [a, b, c]
  | .vfma_s _ _ _ a b c _ => [a, b, c]
  | .vfma_h _ _ _ a b c _ => [a, b, c]
  | .vfma_b _ _ _ a b c _ => [a, b, c]
  | .bacc _ _ _ a b _ => [a, b]
  | .sfeed _ _ a _ => [a]
  | .twrow _ _ _ a _ _ => [a]
  | .psend _ _ a _ => [a]
  | .vsnorm _ _ _ a b _ _ => [a, b]
  | .vcbq _ _ _ a _ => [a]
  | .vcbx _ _ _ a _ => [a]
  | .cbld _ _ a _ => [a]
  | _ => []

/-! ## Vector operands (R58, R63, R64) -/

/-- R158: the first register of the cluster of a V slot. -/
def vbase (sl : Slot) : Nat := if sl = .V1 then 16 else 0

/-- The vector registers that a slot reads, by number (R58); VST's source may lie in either cluster. -/
def vectorRegs (sl : Slot) (i : Instr) : List Nat :=
  match i with
  | .vst _ _ d _ _ => [d.toNat]
  | _ => ((vectorSources i).filter fun a => a.toNat < 16).map fun a => vbase sl + a.toNat

/-- R58: the distinct vector registers that a slot reads in cluster A (false) or B (true). -/
def portNeed (sl : Slot) (i : Instr) (b : Bool) : Nat :=
  ((vectorRegs sl i).filter fun n => decide (16 ≤ n) = b).eraseDups.length

/-- R56: the literal kind that an instruction needs: 1 for LIT, LITH and SCMPL, 2 for a tap. -/
def literalNeed (i : Instr) : Nat :=
  match i with
  | .lit _ _ => 1
  | .lith _ _ => 1
  | .scmpl _ _ _ _ => 1
  | _ => if (vectorSources i).any fun a => a == 16 then 2 else 0

/-- R56: the tap of a V slot's half of the literal, as signal id and lag. -/
def tapOf (sl : Slot) (lit : Word32) : Nat × Nat :=
  let h := if sl = .V1 then field lit.toNat 16 16 else field lit.toNat 0 16
  (h / 256, h % 256)

/-- R188: the fill value of a signal at this moment. -/
def fillValue (x : Signal) : VReg :=
  match x.rule with
  | 2 => (x.lags.getLast?).getD 0
  | _ => x.fill

/-- R194: the value of a tap; a lag at or above the count reads the fill value. -/
def tapValue (x : Signal) (lag : Nat) : VReg := (x.lags[lag]?).getD (fillValue x)

/-- R63, R64: the value of a vector source field of a V slot. The tap reads the signals as they stood before any TICK of
the bundle (R45); codes 17 and 18 read the oldest entry of lqv. -/
def vsrc (s : State) (sl : Slot) (a : BitVec 5) : VReg :=
  match a.toNat with
  | 16 =>
    let t := tapOf sl s.cur.lit
    match sigOf s.cur.sigs t.1 with
    | some x => tapValue x t.2
    | none => 0
  | 17 => ((curCtx s).lqv.head?.bind LqEntry.val).getD 0
  | 18 => ((curCtx s).lqv.head?.bind LqEntry.val).getD 0
  | n => vregOf (curCtx s) (vbase sl + n)

/-! ## Tile views (R208, R220) -/

/-- Element `f` of width `w` of a tile. -/
def tileElem (t : Tile) (w f : Nat) : Nat := field t.toNat (f * w) w

/-- R220: the flat element indices of the A operand of a push beat; two for each row with 8-bit operands. -/
def aIndex (eight row : Bool) (k i : Nat) : List Nat :=
  match eight, row with
  | false, false => [i * 128 + k]
  | false, true => [k * 128 + i]
  | true, false => [i * 256 + 2 * k, i * 256 + 2 * k + 1]
  | true, true => [2 * k * 128 + i, (2 * k + 1) * 128 + i]

/-- R220: the flat element indices of the B operand of a push beat. -/
def bIndex (eight : Bool) (k j : Nat) : List Nat :=
  if eight then [2 * k * 128 + j, (2 * k + 1) * 128 + j] else [k * 128 + j]

/-- R87: fmt.atype or fmt.btype names 8-bit integers. -/
def fmtAtype (f : Word) : Nat := field f.toNat 0 3
def fmtBtype (f : Word) : Nat := field f.toNat 3 3
def fmtAcc (f : Word) : Nat := field f.toNat 6 2
def fmtRnd (f : Word) : Nat := field f.toNat 8 2
def fmtSub (f : Word) : Nat := field f.toNat 10 2
def fmtNan (f : Word) : Bool := f.getLsbD 12
def fmtIsat (f : Word) : Bool := f.getLsbD 13

/-- The 8-byte words of a tile that elements of width `w` lie in. -/
def tileWords (t w : Nat) (idx : List Nat) : List Place := (idx.map fun f => Place.tile t (f * w / 64)).eraseDups

/-- A run of bytes of a tile as 8-byte words. -/
def tileSpan (t lo n : Nat) : List Place := (List.range (ceilDiv n 8)).map fun i => Place.tile t (lo / 8 + i)

/-- R222: rows of a tile in an accumulate type: 64 for FP32 and i32, 128 for FP16 and BF16. -/
def accRows (acc : Nat) : Nat := if acc = 0 || acc = 3 then 64 else 128
/-- Bytes of a tile row in an accumulate type. -/
def accRowBytes (acc : Nat) : Nat := if acc = 0 || acc = 3 then 512 else 256

/-- R209: the elements that TWROW or TRROW moves: first element and count. -/
def rowPart (y : BitVec 3) (i : Nat) : Nat × Nat := if widthT y = 64 then (64 * i, 64) else (128 * i, 128)

/-- R209: the flat elements that TRCOL moves. -/
def colPart (y : BitVec 3) (i : Nat) : List Nat :=
  match widthT y with
  | 8 => (List.range 128).map fun r => (r + (if 128 ≤ i then 128 else 0)) * 128 + i % 128
  | 16 => (List.range 128).map fun r => r * 128 + i
  | 32 => (List.range 64).map fun r => r * 128 + i
  | _ => (List.range 32).map fun r => r * 128 + i

/-- The low bytes of a tile that a grove record can take: 33 rows of 256 bytes. -/
def recordOf (c : CoreSt) (t : BitVec 5) : Nat := field (tileOf c t.toNat).bytes.toNat 0 67584

/-- R232, R237: a record's head is legal. -/
def headOk (h : Nat) : Bool := field h 0 64 ≠ 0 && field h 66 1982 = 0

/-- R237: the coefficient rows that MGLOAD reads of a record: as many as its rank, none behind an illegal head. -/
def recordRows (h : Nat) : Nat := if headOk h then 4 <<< field h 64 2 else 0

/-- The tile words that an instruction samples at issue. -/
def tileReads (k : CoreSt) (c : Ctx) (i : Instr) : List Place :=
  let ae := 2 ≤ fmtAtype c.fmt
  let aw := if ae then 8 else 16
  let aWords (t : BitVec 5) (m : BitVec 2) (k : BitVec 7) :=
    tileWords t.toNat aw ((List.range 128).flatMap fun r => aIndex ae (m == 1) k.toNat r)
  let bWords (t : BitVec 5) (k : BitVec 7) :=
    tileWords t.toNat aw ((List.range 128).flatMap fun j => bIndex ae k.toNat j)
  match i with
  | .mpush _ a b k _ _ m => aWords a m k ++ bWords b k
  | .mpushd _ a b k _ _ m => aWords a m k ++ bWords b k
  | .mpushg _ a _ k _ m =>
    tileWords a.toNat 16 ((List.range 128).flatMap fun r => aIndex false (m == 1) k.toNat r)
  | .macc _ t k _ =>
    let acc := fmtAcc c.fmt
    tileSpan t.toNat ((k.toNat % accRows acc) * accRowBytes acc) (accRowBytes acc)
  | .mgload _ t _ _ => tileSpan t.toNat 0 (256 * (recordRows (recordOf k t) + 1))
  | .msrch _ t _ _ _ => tileSpan t.toNat 0 32768
  | .msproj _ t _ _ _ => tileSpan t.toNat 0 32768
  | .trrow _ _ _ t ix y =>
    let p := rowPart y ix.toNat
    tileSpan t.toNat (p.1 * widthT y / 8) (p.2 * widthT y / 8)
  | .trcol _ _ _ t ix y => tileWords t.toNat (widthT y) (colPart y ix.toNat)
  | .tsrow _ _ t _ n => tileSpan t.toNat (128 * n.toNat) 128
  | _ => []

/-! ## Grants (R76, R206, R230, R184, R258, R261) -/

/-- A resource that an instruction names. -/
inductive Need where
  | tile (n : Nat) | grove (n : Nat) | sig (n : Nat) | pipe (n : Nat) | conf (n : Nat)
  deriving DecidableEq, Repr

/-- The resources that an instruction names, in field order; a tap names its signal. -/
def needs (sl : Slot) (lit : Word32) (i : Instr) : List Need :=
  let tap := if (vectorSources i).any fun a => a == 16 then [Need.sig (tapOf sl lit).1] else []
  match i with
  | .snow _ _ x => [.sig x.toNat]
  | .sclr _ x => [.sig x.toNat]
  | .sfeed _ _ _ x => .sig x.toNat :: tap
  | .waitp _ p => [.pipe p.toNat]
  | .psend _ _ _ p => .pipe p.toNat :: tap
  | .ptake _ _ _ p => [.pipe p.toNat]
  | .plook _ _ _ p => [.pipe p.toNat]
  | .arrive _ c => [.conf c.toNat]
  | .waitc _ c => [.conf c.toNat]
  | .gseed _ n _ => [.grove n.toNat]
  | .tstat _ _ t => [.tile t.toNat]
  | .twrow _ _ t _ _ _ => .tile t.toNat :: tap
  | .trcol _ _ _ t _ _ => [.tile t.toNat]
  | .trrow _ _ _ t _ _ => [.tile t.toNat]
  | .mpush _ a b _ _ _ _ => [.tile a.toNat, .tile b.toNat]
  | .mpushd _ a b _ _ _ _ => [.tile a.toNat, .tile b.toNat]
  | .macc _ t _ _ => [.tile t.toNat]
  | .mdrain _ t _ _ => [.tile t.toNat]
  | .mpushg _ a n _ _ _ => [.tile a.toNat, .grove n.toNat]
  | .mgload _ t n _ => [.tile t.toNat, .grove n.toNat]
  | .msrch _ t n _ _ => [.tile t.toNat, .grove n.toNat]
  | .msproj _ t d n _ => [.tile t.toNat, .tile d.toNat, .grove n.toNat]
  | .tlrow _ _ t _ _ => [.tile t.toNat]
  | .tsrow _ _ t _ _ => [.tile t.toNat]
  | _ => tap

/-- The context of the bundle holds the resource. -/
def holds (s : State) (n : Need) : Bool :=
  let x := s.cur.ctx
  match n with
  | .tile t => (tileOf (curCore s) t).owner = some x
  | .grove g => (groveOf (curCore s) g).owner = some x
  | .sig g => (sigOf (curCore s).sigs g).any fun y => y.owner = x
  | .pipe p => (curCtx s).gang.isSome && (pipeOf s (64 * (s.cur.core / 8) + p)).gang = (curCtx s).gang
  | .conf c => (curCtx s).gang.isSome && (confOf s (512 * s.cur.core + c)).gang = (curCtx s).gang

/-- R342: the cause and detail of an ungranted resource. -/
def needFault : Need → BitVec 7 × Word
  | .tile t => (0x11, word (1 + 65536 * t))
  | .grove g => (0x11, word (2 + 65536 * g))
  | .sig g => (0x12, word (3 + 65536 * g))
  | .pipe p => (0x13, word (4 + 65536 * p))
  | .conf c => (0x13, word (5 + 65536 * c))

/-- The first ungranted resource that an instruction names. -/
def grantFault (s : State) (sl : Slot) (i : Instr) : Option (BitVec 7 × Word) :=
  ((needs sl s.cur.lit i).find? fun n => !holds s n).map needFault

/-! ## Pending and poisoned places (R257, R349) -/

/-- R188, R194: the lag whose sample a tap reads: none where the lag is not below the depth (0x21), and none for a cold tap,
but that of a hold-oldest signal reads the oldest sample there is. -/
def tapLag (s : State) (t : Nat × Nat) : Option Nat :=
  match sigOf s.cur.sigs t.1 with
  | some x =>
    if x.depth ≤ t.2 then none
    else if t.2 < x.lags.length then some t.2
    else if x.rule = 2 ∧ x.lags ≠ [] then some (x.lags.length - 1)
    else none
  | none => none

/-- A register place that a slot samples: s0 and f0 are constants (R137, R138). -/
def isStored : Place → Bool
  | .sreg _ n => n ≠ 0
  | .flag _ n => n ≠ 0
  | _ => true

/-- The registers, masks, basins and tile words that an instruction samples at issue. -/
def reads (s : State) (sl : Slot) (i : Instr) : List Place :=
  let x := s.cur.ctx
  let c := curCtx s
  let own : List Place := match i with
    | .sel _ _ _ _ f => [.flag x f.toNat]
    | .vsel _ _ _ _ _ _ k => [.mask x k.toNat]
    | .vsumm _ _ _ k => [.mask x k.toNat]
    | .vcount _ _ _ k => [.mask x k.toNat]
    | .kand _ _ _ a b => [.mask x a.toNat, .mask x b.toNat]
    | .kor _ _ _ a b => [.mask x a.toNat, .mask x b.toNat]
    | .kxor _ _ _ a b => [.mask x a.toNat, .mask x b.toNat]
    | .knot _ _ _ a => [.mask x a.toNat]
    | .badd _ _ _ m => [.basin x m.toNat]
    | .brnd _ _ _ n _ _ => [.basin x n.toNat]
    | .bsgn _ _ _ n _ => [.basin x n.toNat]
    | .bmovb _ _ _ n _ => [.basin x n.toNat]
    | _ => []
  let tap : List Place :=
    if (vectorSources i).any fun a => a == 16 then
      let t := tapOf sl s.cur.lit
      (tapLag s t).elim [] fun l => (List.range 64).map fun w => Place.sig t.1 l w
    else []
  ([Place.flag x ((guardField i).toNat % 8)] ++ (scalarSources i).map (fun n => Place.sreg x n.toNat)
    ++ (vectorRegs sl i).map (fun n => Place.vreg x n) ++ own ++ tap ++ tileReads (curCore s) c i).filter isStored

/-- R210, R255: what a waiting slot samples for its request to a peer port: its guard's flag and its address. -/
def asks (s : State) (i : Instr) : List Place :=
  let x := s.cur.ctx
  let a : List (BitVec 5) := match i with
    | .tlrow _ _ _ a _ => [a]
    | .atom _ _ _ a _ _ _ _ => [a]
    | _ => []
  (Place.flag x ((guardField i).toNat % 8) :: a.map fun n => Place.sreg x n.toNat).filter isStored

/-- R342: the kind and number of a place. DESIGN CHOICE (log 108): kinds above 7, which R342 does not list, with their numbers, and how the
number of a tile row is written. -/
def placeDetail : Place → Nat × Nat
  | .sreg _ n => (1, n)
  | .flag _ n => (2, n)
  | .vreg _ n => (3, n)
  | .mask _ n => (4, n)
  | .basin _ n => (5, n)
  | .tile t w => (6, t * 4096 + w)
  | .spad w => (7, w * 8)
  | .isp w => (8, w * 8)
  | .sig id lag _ => (9, id * 256 + lag)
  | .sigNext id _ => (9, id * 256)
  | .lqs _ e => (10, e)
  | .lqv _ e => (11, e)
  | .acc n => (12, n)

/-- R257: the result writes a row of a tile, of which a word is part. -/
def effHitsTile (e : Eff) (t w : Nat) : Bool :=
  match e with
  | .tile t' off bs row =>
    let lo := off - off % row
    t' = t && lo < 8 * w + 8 && 8 * w < lo + row * ceilDiv (off + bs.length - lo) row
  | .drain t' row acc _ _ _ _ _ _ =>
    t' = t && row * accRowBytes acc.toNat < 8 * w + 8 && 8 * w < (row + 1) * accRowBytes acc.toNat
  | _ => false

/-- R210, R255: a slot's request to a peer port, made before the slot issues. -/
def isRequest (a : Access) : Bool :=
  a.due = .grant &&
    (match a.kind with
     | .atom _ _ _ _ _ => true
     | .tileLoad _ _ => true
     | _ => false)

/-- Drops the requests of some slots of a context. -/
def dropRequests (s : State) (k x : Nat) (sel : Nat → Bool) : State :=
  modCore s k fun c => { c with accs := c.accs.filter fun b => !(isRequest b && b.ctx = x && sel b.slot) }

/-- R257: an access that has not performed will write the place: an ATOM's register, a TLROW's line. -/
def accPends (x : Nat) (k : AccKind) (p : Place) : Bool :=
  match k, p with
  | .atom _ _ _ _ d, .sreg y n => y = x && n = d && d ≠ 0
  | .tileLoad t line, .tile t' w => t' = t && w / 16 = line
  | _, _ => false

/-- R242, R257: a projection still to end will write the rows of its record; a search writes no place of this kind. -/
def jobPends (j : Job) (p : Place) : Bool :=
  match j.dest, p with
  | some d, .tile t w => t = d && decide (w < 32 * (4 <<< j.rank.toNat + 1))
  | _, _ => false

/-- R257: a result in flight of the context will write the place: a landing under way, an access or a job. DESIGN CHOICE (log 91): a result of
an earlier slot of the same bundle is in flight for the later slots, one of a later slot is not yet for the earlier ones. -/
def isPending (c : CoreSt) (x : Nat) (p : Place) : Bool :=
  (c.pend.any fun e =>
    match p with
    | .tile t w => e.ctx = x && effHitsTile e.eff t w
    | _ => e.ctx = x && effPlace x e.eff = some p) ||
  (c.accs.any fun a => a.ctx = x && !isRequest a && accPends x a.kind p) ||
  c.jobs.any fun j => j.ctx = x && jobPends j p

/-- R349: a place holds a poisoned word. -/
def isPoisoned (c : CoreSt) (p : Place) : Bool := c.poison.contains p

/-! ## The frame of a slot instruction (R76, R77) -/

/-- What an instruction's own checks say at issue. -/
inductive Pre where
  | ok
  /-- the slot waits (elastic mode, R215); the state may note a request -/
  | wait (s : State)
  | fault (cause : BitVec 7) (d0 d1 d2 : Word)
  /-- the bundle faults as a whole (R335) -/
  | level (cause : BitVec 7) (d0 d1 d2 : Word)

/-- The instruction names the oldest entry of lqv (R64). -/
def namesQueue (i : Instr) : Bool := (vectorSources i).any fun a => a == 17 || a == 18

/-- The pipe that a pipe operation of a V slot names (R259). -/
def pipeNamed (i : Instr) : Option (BitVec 6) :=
  match i with
  | .psend _ _ _ p => some p
  | .ptake _ _ _ p => some p
  | .plook _ _ _ p => some p
  | _ => none

/-- The word that a slot has in the bundle at hand passes a test, and the slot has neither issued it nor faulted there. -/
def stillAhead (s : State) (sl : Slot) (test : Instr → Bool) : Bool :=
  let c := curCtx s
  let p := s.cur.pos
  decide ((c.spos[sl.idx]?).getD 0 ≤ p) &&
    ((c.win.find? fun b => b.pos = p).any fun b => b.words.any fun w =>
      w.1 = sl.idx && ((rawDecode sl w.2).any fun r => test r.2)) &&
    !(c.fault.any fun f => f.pos = p && f.slots.getLsbD sl.idx)

/-- R47, R259: V0's word of the bundle comes first, so V1's turn has not come. -/
def behindV0 (s : State) (sl : Slot) (test : Instr → Bool) : Bool := decide (sl = .V1) && stillAhead s .V0 test

/-- R269: C0's word of the bundle comes first, so C1's turn has not come. -/
def behindC0 (s : State) (sl : Slot) (test : Instr → Bool) : Bool := decide (sl = .C1) && stillAhead s .C0 test

/-- R163: the causes of the operands of a V slot: a lag not below the depth, and an empty or late load-data queue. Pops and
peeks of one bundle act in slot order (R47). -/
def sourceCheck (s : State) (sl : Slot) (i : Instr) : Pre :=
  let codes := vectorSources i
  let t := tapOf sl s.cur.lit
  let lagOver := codes.any (fun a => a == 16) &&
    (match sigOf s.cur.sigs t.1 with
     | some x => decide (x.depth ≤ t.2)
     | none => false)
  if lagOver then
    .fault 0x21 (word (t.1 + 256 * t.2 + 65536 * ((sigOf s.cur.sigs t.1).map Signal.depth).getD 0)) 0 0
  else if namesQueue i then
    if behindV0 s sl namesQueue then .wait s else
    let q := (curCtx s).lqv
    match q with
    | [] => .fault 0x32 (word 1) 0 0
    | e :: _ =>
      match e.val with
      | none => if (curCore s).pinned then .fault 0x32 (word (1 + 256 * q.length)) 0 0 else .wait s
      | some _ => if e.poison then .fault 0x7D (word 11) (word e.id) 0 else .ok
  else .ok

/-- R64: the entry is removed once when any field names code 17. -/
def popSource (s : State) (i : Instr) : State :=
  if (vectorSources i).any fun a => a == 17 then modCurCtx s fun c => { c with lqv := c.lqv.tail } else s

/-- The slot has issued its word. -/
def issued (s : State) : State := { s with cur := { s.cur with out := .issued } }

/-- The slot keeps its position (R215). -/
def waits (s : State) : State := { s with cur := { s.cur with out := .waits } }

/-- R257: the first of some places that a result in flight will write, in debug pending-bit mode. -/
def pendingPlace (s : State) (ps : List Place) : Option Place :=
  if (curCore s).debug then ps.find? fun p => isPending (curCore s) s.cur.ctx p else none

/-- R349: the first of some places that is poisoned; a tap reads the signals as they stood before any TICK of the bundle
(R45). -/
def poisonPlace (s : State) (ps : List Place) : Option Place :=
  ps.find? fun p =>
    match p with
    | .sig _ _ _ => s.cur.poison.contains p
    | _ => isPoisoned (curCore s) p

/-- R257: the first place that an instruction reads while a result in flight will write it. -/
def pendingFault (s : State) (sl : Slot) (i : Instr) : Option Place := pendingPlace s (reads s sl i)

/-- R349: the first poisoned place that an instruction reads. -/
def poisonFault (s : State) (sl : Slot) (i : Instr) : Option Place := poisonPlace s (reads s sl i)

/-- The cause of a place that a slot samples, 0x34 before 0x7D, with its detail words (R342). -/
def placeFault (s : State) (ps : List Place) : Option (BitVec 7 × Word × Word) :=
  match pendingPlace s ps with
  | some p => some (0x34, word ((placeDetail p).1 + 256 * (placeDetail p).2), 0)
  | none => (poisonPlace s ps).map fun p => (0x7D, word (placeDetail p).1, word (placeDetail p).2)

/-- The slot waits. -/
def Pre.isWait (p : Pre) : Bool :=
  match p with
  | .wait _ => true
  | _ => false

/-- The first check that does not pass. -/
def Pre.andThen (p q : Pre) : Pre :=
  match p with
  | .ok => q
  | _ => p

/-- The slot-level checks of R76 in their order, then the instruction's own checks, its operands' causes, and its effect.
A slot whose guard is 0 has no effect; a slot that faults has none either. A slot that waits has not issued, so of its operands
it samples only what its wait needs (R213, R217, R349). DESIGN CHOICE (log 83): of a slot that issues, a pending or poisoned
operand comes before the causes that the instruction itself raises, a tap's 0x21 and a queue's 0x32 among them; the spec does
not order 0x34 and 0x7D against them. -/
def slotStep (i : Instr) (sl : Slot) (s : State) (pre : State → Pre) (eff : State → State) : State :=
  if !guardOk (guardField i) then encodingFault s sl 0x04 (encode i)
  else if literalNeed i ≠ 0 ∧ literalNeed i ≠ hKind s.cur.hdr then encodingFault s sl 0x05 (encode i)
  else if !i.wf then encodingFault s sl 0x06 (encode i)
  else if !guardPass (curCtx s) (guardField i) then issued s
  else
    match grantFault s sl i with
    | some (cause, d) => slotFault s sl cause d 0 0
    | none =>
      let own := (pre s).andThen (sourceCheck s sl i)
      match placeFault s (if own.isWait then asks s i else reads s sl i) with
      | some (cause, d0, d1) => slotFault s sl cause d0 d1 0
      | none =>
        match own with
        | .fault cause d0 d1 d2 =>
          if cause = 0x06 then encodingFault s sl 0x06 (encode i) else slotFault s sl cause d0 d1 d2
        | .level cause d0 d1 d2 => levelFault s cause d0 d1 d2
        | .wait s' => waits s'
        | .ok => issued (popSource (busySlot (eff s) sl) i)

/-- The outcome of a slot instruction: always a next state. -/
def runSlot (i : Instr) (sl : Slot) (s : State) (pre : State → Pre) (eff : State → State) :
    Host.Outcome State Fault Refusal := .next (slotStep i sl s pre eff)

/-- No check of its own. -/
def noPre (_ : State) : Pre := .ok

/-- Pinned mode of the core that is issuing (R26). -/
def pinnedNow (s : State) : Bool := (curCore s).pinned

end Sys2Proof.Machine
end

