-- ==== Sys2Proof/Machine/Float.lean ====
section
/-! DEFINITION. Floating values, their formats, rounding and the arithmetic of R81-R86, R165, R169, R170: every result is
computed exactly and rounded once. -/
namespace Sys2Proof.Machine

/-- A floating format: exponent and fraction widths (R81). -/
structure FFmt where
  e : Nat
  f : Nat
  deriving DecidableEq, Repr

/-- R66, R81: the format of a floating type code. -/
def fmtOf (t : Nat) : FFmt :=
  match t with
  | 0 => ⟨11, 52⟩
  | 1 => ⟨8, 23⟩
  | 2 => ⟨5, 10⟩
  | _ => ⟨8, 7⟩

def fp32 : FFmt := ⟨8, 23⟩
def fp16 : FFmt := ⟨5, 10⟩
def bf16 : FFmt := ⟨8, 7⟩

def FFmt.width (x : FFmt) : Nat := 1 + x.e + x.f
def FFmt.bias (x : FFmt) : Nat := 2 ^ (x.e - 1) - 1
def FFmt.top (x : FFmt) : Nat := 2 ^ x.e - 1
/-- Exponent of the smallest normal. -/
def FFmt.emin (x : FFmt) : Int := 1 - (x.bias : Int)

/-- A floating value: a NaN with its sign and its fraction aligned to 52 bits, an infinity, or ±m·2^e. -/
inductive FV where
  | nan (neg : Bool) (frac : Nat)
  | inf (neg : Bool)
  | fin (neg : Bool) (m : Nat) (e : Int)
  deriving DecidableEq, Repr

/-- The modes in force: rounding 0 rne, 1 rtz, 2 rdn, 3 rup; subnormal policy of R86; NaN policy of R84. -/
structure FEnv where
  rnd : Nat
  sub : Nat
  nan : Bool
  deriving DecidableEq, Repr

/-- R66, R85, R88: the modes of a sample of fmt under a rounding code. -/
def envOf (fmt : Word) (code : Nat) : FEnv :=
  ⟨if code = 0 then fmtRnd fmt else code - 1, fmtSub fmt, fmtNan fmt⟩

/-- Nearest-even, subnormals kept, NaNs propagated (R229, R239). -/
def envGrove : FEnv := ⟨0, 0, true⟩
/-- Nearest-even, subnormals kept, canonical NaNs (R101). -/
def envPlain : FEnv := ⟨0, 0, false⟩

/-- R81: the value of a bit pattern. -/
def fUnpack (x : FFmt) (b : Nat) : FV :=
  let neg := field b (x.e + x.f) 1 = 1
  let ex := field b x.f x.e
  let fr := field b 0 x.f
  if ex = x.top then (if fr = 0 then .inf neg else .nan neg (fr <<< (52 - x.f)))
  else if ex = 0 then .fin neg fr (x.emin - x.f)
  else .fin neg (2 ^ x.f + fr) ((ex : Int) - x.bias - x.f)

/-- R86: a subnormal input becomes a zero of its sign under code 10. -/
def fInput (v : FEnv) (x : FFmt) (b : Nat) : FV :=
  if v.sub = 2 ∧ field b x.f x.e = 0 then .fin (field b (x.e + x.f) 1 = 1) 0 0 else fUnpack x b

def fSign (x : FFmt) (neg : Bool) : Nat := if neg then 2 ^ (x.e + x.f) else 0
def fInf (x : FFmt) (neg : Bool) : Nat := fSign x neg + x.top * 2 ^ x.f
def fZero (x : FFmt) (neg : Bool) : Nat := fSign x neg
/-- R83: the canonical NaN. -/
def fCanon (x : FFmt) : Nat := x.top * 2 ^ x.f + 2 ^ (x.f - 1)

/-- R85: what overflow gives. -/
def fOver (x : FFmt) (rnd : Nat) (neg : Bool) : Nat :=
  let big := fSign x neg + (x.top - 1) * 2 ^ x.f + (2 ^ x.f - 1)
  match rnd with
  | 0 => fInf x neg
  | 1 => big
  | 2 => if neg then fInf x neg else big
  | _ => if neg then big else fInf x neg

/-- R85: whether a magnitude with the given discarded part rounds away from zero. -/
def roundsUp (rnd : Nat) (neg odd inexact above tie : Bool) : Bool :=
  match rnd with
  | 0 => above || (tie && odd)
  | 1 => false
  | 2 => neg && inexact
  | _ => !neg && inexact

/-- R85, R86: rounds ±(m + s)·2^e, where s is 0, or with `sticky` some value strictly between 0 and 1; m is not 0 unless
the value is. -/
def fRound (v : FEnv) (x : FFmt) (neg : Bool) (m : Nat) (e : Int) (sticky : Bool) : Nat :=
  if m = 0 then fZero x neg
  else
    let top : Int := e + (bitLen m : Int) - 1
    if v.sub ≠ 0 ∧ top < x.emin then fZero x neg
    else
      let lsb : Int := max (top - x.f) (x.emin - x.f)
      let sh : Int := lsb - e
      let q := if sh ≤ 0 then m <<< (-sh).toNat else m >>> sh.toNat
      let r := if sh ≤ 0 then 0 else m % 2 ^ sh.toNat
      let half := if sh ≤ 0 then 1 else 2 ^ (sh.toNat - 1)
      let up := roundsUp v.rnd neg (q % 2 = 1) (r ≠ 0 || sticky) (half < r || (r = half && sticky)) (r = half && !sticky)
      let q1 := if up then q + 1 else q
      let q2 := if q1 = 2 ^ (x.f + 1) then q1 / 2 else q1
      let lsb2 := if q1 = 2 ^ (x.f + 1) then lsb + 1 else lsb
      if q2 < 2 ^ x.f then fSign x neg + q2
      else
        let ex : Int := lsb2 + x.f + x.bias
        if (x.top : Int) ≤ ex then fOver x v.rnd neg
        else fSign x neg + ex.toNat * 2 ^ x.f + (q2 - 2 ^ x.f)

/-- R84: the NaN result of an operation on operands in field order. -/
def fNan (v : FEnv) (x : FFmt) (ops : List FV) : Nat :=
  match v.nan, ops.find? (fun o => match o with | .nan _ _ => true | _ => false) with
  | true, some (.nan neg fr) =>
    fSign x neg + x.top * 2 ^ x.f + (2 ^ (x.f - 1) ||| (fr >>> (52 - x.f)))
  | _, _ => fCanon x

/-- The exact integer of ±m at a lower exponent. -/
def scaleTo (neg : Bool) (m : Nat) (e e0 : Int) : Int :=
  let a : Int := (m <<< (e - e0).toNat : Nat)
  if neg then -a else a

/-- R85: the exact sum of two finite values, as sign, magnitude and exponent. A zero sum of opposite signs is +0, or -0
when rounding down; two zeros of one sign keep it. -/
def sumFin (rnd : Nat) (n1 : Bool) (m1 : Nat) (e1 : Int) (n2 : Bool) (m2 : Nat) (e2 : Int) : Bool × Nat × Int :=
  let e := min e1 e2
  let t := scaleTo n1 m1 e1 e + scaleTo n2 m2 e2 e
  if t = 0 then (if n1 = n2 then n1 else rnd = 2, 0, e) else (t < 0, t.natAbs, e)

/-- a + b, rounded (R164). -/
def fAddV (v : FEnv) (x : FFmt) (a b : FV) : Nat :=
  match a, b with
  | .nan _ _, _ => fNan v x [a, b]
  | _, .nan _ _ => fNan v x [a, b]
  | .inf n1, .inf n2 => if n1 = n2 then fInf x n1 else fNan v x []
  | .inf n1, _ => fInf x n1
  | _, .inf n2 => fInf x n2
  | .fin n1 m1 e1, .fin n2 m2 e2 =>
    let r := sumFin v.rnd n1 m1 e1 n2 m2 e2
    fRound v x r.1 r.2.1 r.2.2 false

/-- The negation of a value. -/
def fNegV : FV → FV
  | .nan n f => .nan n f
  | .inf n => .inf (!n)
  | .fin n m e => .fin (!n) m e

/-- The exact product of two values; an invalid product is none. -/
def mulV : FV → FV → Option FV
  | .nan _ _, _ => none
  | _, .nan _ _ => none
  | .inf n1, .inf n2 => some (.inf (xor n1 n2))
  | .inf n1, .fin n2 m2 _ => if m2 = 0 then none else some (.inf (xor n1 n2))
  | .fin n1 m1 _, .inf n2 => if m1 = 0 then none else some (.inf (xor n1 n2))
  | .fin n1 m1 e1, .fin n2 m2 e2 => some (.fin (xor n1 n2) (m1 * m2) (e1 + e2))

/-- a · b, rounded (R164). -/
def fMulV (v : FEnv) (x : FFmt) (a b : FV) : Nat :=
  match mulV a b with
  | none => fNan v x [a, b]
  | some (.inf n) => fInf x n
  | some (.fin n m e) => fRound v x n m e false
  | some (.nan _ _) => fNan v x [a, b]

/-- R92, R166: ±a·b + c, with one rounding. -/
def fFmaV (v : FEnv) (x : FFmt) (neg : Bool) (a b c : FV) : Nat :=
  match mulV a b with
  | none => fNan v x [a, b, c]
  | some p =>
    match c with
    | .nan _ _ => fNan v x [a, b, c]
    | _ => fAddV v x (if neg then fNegV p else p) c

/-- R170: a / b. -/
def fDivV (v : FEnv) (x : FFmt) (a b : FV) : Nat :=
  match a, b with
  | .nan _ _, _ => fNan v x [a, b]
  | _, .nan _ _ => fNan v x [a, b]
  | .inf _, .inf _ => fNan v x []
  | .inf n1, .fin n2 _ _ => fInf x (xor n1 n2)
  | .fin n1 _ _, .inf n2 => fZero x (xor n1 n2)
  | .fin n1 m1 e1, .fin n2 m2 e2 =>
    if m2 = 0 then (if m1 = 0 then fNan v x [] else fInf x (xor n1 n2))
    else if m1 = 0 then fZero x (xor n1 n2)
    else
      let k := x.f + 4 + bitLen m2
      let n := m1 <<< k
      fRound v x (xor n1 n2) (n / m2) (e1 - k - e2) (n % m2 ≠ 0)

/-- The integer square root, found bit by bit from bit `n - 1` down. -/
def isqrtFrom : Nat → Nat → Nat → Nat
  | 0, _, r => r
  | n + 1, x, r => let t := r + 2 ^ n; isqrtFrom n x (if t * t ≤ x then t else r)

def isqrt (x : Nat) : Nat := isqrtFrom (bitLen x / 2 + 1) x 0

/-- R170: √a. -/
def fSqrtV (v : FEnv) (x : FFmt) (a : FV) : Nat :=
  match a with
  | .nan _ _ => fNan v x [a]
  | .inf n => if n then fNan v x [] else fInf x false
  | .fin n m e =>
    if m = 0 then fZero x n
    else if n then fNan v x []
    else
      let m1 := if e % 2 = 0 then m else 2 * m
      let e1 := if e % 2 = 0 then e else e - 1
      let k := x.f + 4
      let y := m1 <<< (2 * k)
      let r := isqrt y
      fRound v x false r (e1 / 2 - k) (r * r ≠ y)

/-- R170: 1 / √a. -/
def fRsqV (v : FEnv) (x : FFmt) (a : FV) : Nat :=
  match a with
  | .nan _ _ => fNan v x [a]
  | .inf n => if n then fNan v x [] else fZero x false
  | .fin n m e =>
    if m = 0 then fInf x n
    else if n then fNan v x []
    else
      let m1 := if e % 2 = 0 then m else 2 * m
      let e1 := if e % 2 = 0 then e else e - 1
      let k := x.f + 4 + bitLen m1
      let r := isqrt (2 ^ (2 * k) / m1)
      fRound v x false r (-(k : Int) - e1 / 2) (r * r * m1 ≠ 2 ^ (2 * k))

/-- Working precision of the exponential and the logarithm, in bits after the point (log 8). -/
def fpBits : Nat := 320

/-- ln 2 in fixed point, from the series of 1 / (k·2^k). -/
def ln2From : Nat → Nat
  | 0 => 0
  | k + 1 => 2 ^ fpBits / ((k + 1) * 2 ^ (k + 1)) + ln2From k

def ln2Fix : Nat := ln2From fpBits

/-- The exponential series from a term on. -/
def expFrom (y : Nat) : Nat → Nat → Nat → Nat
  | 0, _, acc => acc
  | n + 1, term, acc =>
    let k := 100 - n
    let t := term * y / 2 ^ fpBits / k
    expFrom y n t (acc + t)

/-- R170, R226: 2^a. An integer a is exact; any other result is irrational, so it never lies on a rounding boundary. -/
def fExp2V (v : FEnv) (x : FFmt) (a : FV) : Nat :=
  match a with
  | .nan _ _ => fNan v x [a]
  | .inf n => if n then fZero x false else fInf x false
  | .fin n m e =>
    if m = 0 then fRound v x false 1 0 false
    else if 14 < e + (bitLen m : Int) then
      (if n then fRound v x false 1 (-8192) true else fRound v x false 1 8192 true)
    else
      let sm : Int := if n then -(m : Int) else m
      let fx : Int := if 0 ≤ e + fpBits then sm * (2 ^ (e + fpBits).toNat : Nat) else sm / (2 ^ (-(e + fpBits)).toNat : Nat)
      let whole := fx / (2 ^ fpBits : Nat)
      let frac := (fx % (2 ^ fpBits : Nat)).toNat
      let exact := 0 ≤ e ∨ m % 2 ^ (-e).toNat = 0
      if exact then fRound v x false 1 whole false
      else
        let y := frac * ln2Fix / 2 ^ fpBits
        let r := expFrom y 100 (2 ^ fpBits) (2 ^ fpBits)
        fRound v x false r (whole - fpBits) true

/-- The series of atanh from a term on. -/
def atanhFrom (z2 : Nat) : Nat → Nat → Nat → Nat
  | 0, _, acc => acc
  | n + 1, term, acc =>
    let k := 2 * (120 - n) + 1
    let t := term * z2 / 2 ^ fpBits
    atanhFrom z2 n t (acc + t / k)

/-- R170: log₂ a. A power of two is exact; any other result is irrational. -/
def fLog2V (v : FEnv) (x : FFmt) (a : FV) : Nat :=
  match a with
  | .nan _ _ => fNan v x [a]
  | .inf n => if n then fNan v x [] else fInf x false
  | .fin n m e =>
    if m = 0 then fInf x true
    else if n then fNan v x []
    else
      let l := bitLen m - 1
      let whole : Int := e + l
      if m = 2 ^ l then fRound v x (whole < 0) whole.natAbs 0 false
      else
        let z := ((m - 2 ^ l) <<< fpBits) / (m + 2 ^ l)
        let s := atanhFrom (z * z / 2 ^ fpBits) 120 z z
        let fr := (2 * s) <<< fpBits / ln2Fix
        let t : Int := whole * (2 ^ fpBits : Nat) + fr
        if 0 ≤ t then fRound v x false t.toNat (-(fpBits : Int)) true
        else fRound v x true ((-t).toNat - 1) (-(fpBits : Int)) true

/-- Order of two values that are not NaN, -0 below +0: less than. -/
def fLtV (a b : FV) : Bool :=
  match a, b with
  | .inf n1, .inf n2 => n1 && !n2
  | .inf n1, _ => n1
  | _, .inf n2 => !n2
  | .fin n1 m1 e1, .fin n2 m2 e2 =>
    let e := min e1 e2
    let x := scaleTo n1 m1 e1 e
    let y := scaleTo n2 m2 e2 e
    if x = y then m1 = 0 && n1 && !n2 else decide (x < y)
  | _, _ => false

/-- Equality of values that are not NaN, ±0 equal. -/
def fEqV (a b : FV) : Bool :=
  match a, b with
  | .inf n1, .inf n2 => n1 == n2
  | .fin n1 m1 e1, .fin n2 m2 e2 =>
    let e := min e1 e2
    scaleTo n1 m1 e1 e == scaleTo n2 m2 e2 e
  | _, _ => false

def fIsNan : FV → Bool
  | .nan _ _ => true
  | _ => false

/-- A value of a format as bits, exact when it is one of the format's values. -/
def fPack (v : FEnv) (x : FFmt) (a : FV) : Nat :=
  match a with
  | .nan _ _ => fNan v x [a]
  | .inf n => fInf x n
  | .fin n m e => fRound v x n m e false

/-- R165: the lesser (`big` false) or the greater operand, unrounded. -/
def fMinMax (v : FEnv) (x : FFmt) (big : Bool) (a b : FV) : Nat :=
  if fIsNan a || fIsNan b then fNan v x [a, b]
  else if fLtV a b then fPack v x (if big then b else a) else fPack v x (if big then a else b)

/-- R167: the floating conditions of VCMP, false on a NaN but for .ne. -/
def fCond (code : Nat) (a b : FV) : Bool :=
  if fIsNan a || fIsNan b then code = 1
  else
    match code with
    | 0 => fEqV a b
    | 1 => !fEqV a b
    | 2 => fLtV a b && !fEqV a b
    | _ => fLtV a b || fEqV a b

/-- R169: a finite value rounded to an integer in a mode. -/
def fToInt (rnd : Nat) (neg : Bool) (m : Nat) (e : Int) : Int :=
  let q := if 0 ≤ e then m <<< e.toNat else m >>> (-e).toNat
  let r := if 0 ≤ e then 0 else m % 2 ^ (-e).toNat
  let half := if 0 ≤ e then 1 else 2 ^ ((-e).toNat - 1)
  let q1 : Nat := if roundsUp rnd neg (q % 2 = 1) (r ≠ 0) (half < r) (r = half) then q + 1 else q
  if neg then -(q1 : Int) else q1

/-- An integer rounded to a format (R169). -/
def fOfInt (v : FEnv) (x : FFmt) (i : Int) : Nat := fRound v x (i < 0) i.natAbs 0 false

end Sys2Proof.Machine
end

