-- ==== Sys2Proof/Machine/MatrixArray.lean ====
section
/-! DEFINITION. What tiles, the matrix array and the grove expander compute (R91, R92, R208, R209, R218-R223, R228-R242). -/
namespace Sys2Proof.Machine

/-! ## Tile bytes -/

/-- A tile with some bytes replaced. -/
def tileWrite (t : Tile) (off : Nat) (bs : List Byte) : Tile :=
  BitVec.ofNat 262144 (setField t.toNat (8 * off) (8 * bs.length) (bytesToNat bs))

/-- Bytes of a tile. -/
def tileRead (t : Tile) (off n : Nat) : List Byte := natToBytes n (field t.toNat (8 * off) (8 * n))

/-! ## Accumulators (R91, R92) -/

/-- The format of a floating accumulate type (R87). -/
def accFmt (acc : Nat) : FFmt := match acc with | 0 => fp32 | 1 => fp16 | _ => bf16

/-- Exact conversion that keeps NaN payloads. -/
def envExact : FEnv := ⟨0, 0, true⟩

/-- R91: a narrow accumulation is stored as its exact FP32 value. -/
def toContainer (acc bits : Nat) : Nat := if acc = 0 then bits else fPack envExact fp32 (fUnpack (accFmt acc) bits)

/-- R91: a container read in an accumulate type; a value that is not exact in the narrow type is rounded once. -/
def fromContainer (v : FEnv) (acc c : Nat) : Nat :=
  if acc = 0 || acc = 3 then c
  else
    let n := fPack envExact (accFmt acc) (fUnpack fp32 c)
    if toContainer acc n = c then n else fPack v (accFmt acc) (fUnpack fp32 c)

/-- R92: an exact i32 sum, wrapped or saturated, and whether it left the range. -/
def addI32 (sat : Bool) (x : Int) : Nat × Bool :=
  let out := decide (x < -(2 ^ 31) ∨ 2 ^ 31 ≤ x)
  if out && sat then (if x < 0 then 2 ^ 31 else 2 ^ 31 - 1, true) else (ofInt 32 x, out)

/-- An array operand read in its type (R87, R220): 8-bit integers as a number, floats as a value. -/
def opInt (ty x : Nat) : Int := if ty = 3 then (x : Int) else toSigned 8 x
def opFloat (v : FEnv) (ty x : Nat) : FV := fInput v (if ty = 1 then fp16 else bf16) x

/-- R92, R220: one accumulation step of a cell: container and wrap bit, from its operands. -/
def pushCell (fmt : Word) (aty bty : Nat) (c : Nat) (w : Bool) (a b : List Nat) : Nat × Bool :=
  if fmtAcc fmt = 3 then
    let p := (List.zip a b).foldl (fun (t : Int) e => t + opInt aty e.1 * opInt bty e.2) 0
    let r := addI32 (fmtIsat fmt) (toSigned 32 c + p)
    (r.1, w || r.2)
  else
    let v := envOf fmt 0
    let acc := fmtAcc fmt
    (toContainer acc (fFmaV v (accFmt acc) false (opFloat v aty (a.headD 0)) (opFloat v bty (b.headD 0)) (fUnpack fp32 c)), w)

/-- R221: one MACC step: the tile element, read in the accumulate type, is added. -/
def maccCell (fmt : Word) (c : Nat) (w : Bool) (t : Nat) : Nat × Bool :=
  if fmtAcc fmt = 3 then
    let r := addI32 (fmtIsat fmt) (toSigned 32 c + toSigned 32 t)
    (r.1, w || r.2)
  else
    let v := envOf fmt 0
    let acc := fmtAcc fmt
    (toContainer acc (fAddV v (accFmt acc) (fInput v (accFmt acc) t) (fUnpack fp32 c)), w)

/-- Container of cell (i, j). -/
def accCell (c : CoreSt) (i j : Nat) : Nat := field c.acc.toNat (32 * (128 * i + j)) 32
def wrapCell (c : CoreSt) (i j : Nat) : Bool := c.wrap.getLsbD (128 * i + j)

/-- Replaces the first `n` cells of row `i`. -/
def setAccRow (c : CoreSt) (i : Nat) (cells : List (Nat × Bool)) : CoreSt :=
  let n := cells.length
  { c with
    acc := BitVec.ofNat 524288 (setField c.acc.toNat (4096 * i) (32 * n) (packLanes 32 (cells.map Prod.fst)))
    wrap := BitVec.ofNat 16384 (setField c.wrap.toNat (128 * i) n (packLanes 1 (cells.map fun e => if e.2 then 1 else 0))) }

/-- Applies a step to every active cell of the rows given (R218). -/
def overRows (f : Nat → Nat → Nat → Bool → Nat × Bool) (cols : Nat) : List Nat → CoreSt → CoreSt
  | [], c => c
  | i :: is, c =>
    overRows f cols is (setAccRow c i ((List.range cols).map fun j => f i j (accCell c i j) (wrapCell c i j)))

/-- R221: a push beat. `b j` gives the B operands of column j; `diag` acts on the diagonal only (MPUSHD). -/
def beatPush (c : CoreSt) (fmt : Word) (aty bty : Nat) (diag : Bool) (a b : Nat → List Nat) : CoreSt :=
  overRows (fun i j x w => if diag && decide (i ≠ j) then (x, w) else pushCell fmt aty bty x w (a i) (b j))
    c.cols (List.range c.rows) c

/-- R221: an MACC beat on row `k`, when it is active. -/
def beatMacc (c : CoreSt) (fmt : Word) (k : Nat) (t : Nat → Nat) : CoreSt :=
  if k < c.rows then overRows (fun _ j x w => maccCell fmt x w (t j)) c.cols [k] c else c

/-- R221: MCLR clears every cell, whatever the mask, and with it the poison of the cells it writes (R349). -/
def beatClear (c : CoreSt) : CoreSt :=
  { c with acc := 0, wrap := 0
           poison := c.poison.filter fun p => match p with | .acc _ => false | _ => true }

/-- The value of a materialised list, empty outside it. -/
def rowAt (xs : List (List Nat)) (i : Nat) : List Nat := (xs[i]?).getD []

/-- R221: what a beat does to a cell. -/
def beatCell (b : Beat) (i j : Nat) (x : Nat) (w : Bool) : Nat × Bool :=
  match b.kind with
  | .push aty bty diag as bs => if diag && decide (i ≠ j) then (x, w) else pushCell b.fmt aty bty x w (rowAt as i) (rowAt bs j)
  | .macc k t => if i = k then maccCell b.fmt x w ((t[j]?).getD 0) else (x, w)
  | .clear => (0, false)
  | .drain _ _ _ _ => (x, w)

/-- Reads the accumulators of row `k` in the drain's accumulate type. -/
def drainVals (c : CoreSt) (fmt : Word) (k : Nat) : List Word32 :=
  (List.range 128).map fun j => BitVec.ofNat 32 (fromContainer (envOf fmt 0) (fmtAcc fmt) (accCell c k j))

/-- R219: cell (i, j) acts on the beat after a cycle. -/
def isLate (cyc : Nat) (b : Beat) (i j : Nat) : Bool := decide (cyc < b.cyc + 2 + i + j)

/-- The beat is the drain of a number. -/
def isDrain (seq : Nat) (b : Beat) : Bool :=
  match b.kind with
  | .drain n _ _ _ => n = seq
  | _ => false

/-- R219, R222: a drain in flight whose cell (k, j) is read after a cycle reads what the array holds now there; the others keep
what they have read. -/
def redrain (cyc : Nat) (c : CoreSt) (b : Beat) (seq k : Nat) (wraps bad : List Bool) : CoreSt :=
  let now := drainVals c b.fmt k
  let wraps := wraps.mapIdx fun j w => if isLate cyc b k j then wrapCell c k j else w
  let bad := bad.mapIdx fun j x => !isLate cyc b k j && x
  { c with
    beats := c.beats.map fun e => if isDrain seq e then { e with kind := .drain seq k wraps bad } else e
    pend := c.pend.map fun p =>
      match p.eff with
      | .drain t row acc mode cols first vals _ fmt =>
        if p.seq = seq then
          { p with
            eff := .drain t row acc mode cols first (vals.mapIdx fun j v => if isLate cyc b k j then (now[j]?).getD 0 else v)
              (wraps.contains true) fmt
            poison := bad.contains true }
        else p
      | _ => p }

/-- R219: the cells of a beat that act after a cycle. -/
def beatAfter (cyc : Nat) (c : CoreSt) (b : Beat) : CoreSt :=
  let late (i j x : Nat) (w : Bool) := if isLate cyc b i j then beatCell b i j x w else (x, w)
  match b.kind with
  | .clear => overRows late 128 (List.range 128) c
  | .drain seq k wraps bad => redrain cyc c b seq k wraps bad
  | _ => overRows late b.cols (List.range b.rows) c

/-- R218, R219, R224: the array is cleared; what beats in flight do later, they do to the cleared cells, and drains in flight
read them. DESIGN CHOICE (log 18): the mask is full after the clear also where an MMASK is in flight. -/
def clearArray (c : CoreSt) : CoreSt :=
  let c' := { c with acc := 0, wrap := 0, rows := 128, cols := 128,
                     poison := c.poison.filter fun p => match p with | .acc _ => false | _ => true }
  (c.beats.filter fun b => decide (c.cyc < b.cyc + 256)).foldl (beatAfter c.cyc) c'

/-- R219, R349: the numbers of the drains in flight that read cell (i, j) after a cycle, before a clear in flight reaches it; and whether
what it holds outlives the beats in flight. -/
def cellReaders (cyc i j : Nat) : List Beat → List Nat × Bool
  | [] => ([], true)
  | b :: bs =>
    let r := cellReaders cyc i j bs
    if isLate cyc b i j then
      match b.kind with
      | .clear => ([], false)
      | .drain seq k _ _ => (if k = i then seq :: r.1 else r.1, r.2)
      | _ => r
    else r

/-- R349: a drain that reads the poison of column j. -/
def spoilDrain (hit : List Nat) (j : Nat) (b : Beat) : Beat :=
  match b.kind with
  | .drain seq k wraps flags => if hit.contains seq then { b with kind := .drain seq k wraps (flags.set j true) } else b
  | _ => b

/-- R349: a drain in flight carries the poison that it reads. -/
def spoilRow (hit : List Nat) (p : Pend) : Pend :=
  match p.eff with
  | .drain .. => if hit.contains p.seq then { p with poison := true } else p
  | _ => p

/-- R349: an accumulator is spoiled: drains in flight that have still to read it land poison, and it stays poisoned unless a clear in
flight has still to reach it. -/
def spoilCell (c : CoreSt) (n : Nat) : CoreSt :=
  let r := cellReaders c.cyc (n / 128) (n % 128) c.beats
  { c with
    beats := c.beats.map (spoilDrain r.1 (n % 128))
    pend := c.pend.map (spoilRow r.1)
    poison := if r.2 && !c.poison.contains (.acc n) then .acc n :: c.poison else c.poison }

/-- A beat joins those in flight; what the far-corner cell has passed is forgotten. -/
def noteBeat (b : Beat) (c : CoreSt) : CoreSt :=
  { c with beats := (c.beats.filter fun e => decide (c.cyc < e.cyc + 256)) ++ [b] }

/-! ## Drains (R222) -/

/-- R222: some wrap bit of a row, whatever the mask. -/
def drainWrap (c : CoreSt) (k : Nat) : Bool := (List.range 128).any fun j => wrapCell c k j

/-- An element of an accumulate type as a value, for comparison. -/
def accVal (acc x : Nat) : FV :=
  if acc = 3 then .fin (toSigned 32 x < 0) (toSigned 32 x).natAbs 0 else fUnpack (accFmt acc) x

/-- R222, .amax: the first NaN, else the greatest, ties to the lowest index. -/
def amaxFrom (acc : Nat) : List (Nat × Nat) → Option (Nat × Nat)
  | [] => none
  | (i, x) :: rest =>
    if fIsNan (accVal acc x) then some (i, x)
    else
      match amaxFrom acc rest with
      | none => some (i, x)
      | some (j, y) =>
        if fIsNan (accVal acc y) || fLtV (accVal acc x) (accVal acc y) then some (j, y) else some (i, x)

/-- The elements that a drain writes, as (index, value, out-of-range addition). -/
def drainElems (fmt : Word) (mode : Nat) (cols : Nat) (old : Nat → Nat) (vals : List Word32) : List (Nat × Nat × Bool) :=
  let acc := fmtAcc fmt
  match mode with
  | 0 => (List.range cols).map fun j => (j, ((vals[j]?).getD 0).toNat, false)
  | 1 =>
    (List.range cols).map fun j =>
      let x := ((vals[j]?).getD 0).toNat
      if acc = 3 then
        let r := addI32 (fmtIsat fmt) (toSigned 32 (old j) + toSigned 32 x)
        (j, r.1, r.2)
      else
        let v := envOf fmt 0
        (j, fAddV v (accFmt acc) (fInput v (accFmt acc) (old j)) (fUnpack (accFmt acc) x), false)
  | _ =>
    let m := (amaxFrom acc (((vals.map BitVec.toNat).take cols).mapIdx fun i x => (i, x))).getD (0, 0)
    let ix := if acc = 3 then m.1 else fOfInt envPlain (accFmt acc) m.1
    (0, ix, false) :: (1, m.2, false) :: (List.range 126).map fun j => (j + 2, 0, false)

/-- R102, R222: the destination tile after a drained row lands, and which of NaN, infinity, wrap it reports. -/
def drainLand (t : TileReg) (row mode cols : Nat) (first : Bool) (vals : List Word32) (wrap : Bool) (fmt : Word) :
    TileReg × Bool × Bool × Bool :=
  let acc := fmtAcc fmt
  let w := if acc = 0 || acc = 3 then 32 else 16
  let es := drainElems fmt mode cols (fun j => tileElem t.bytes w (row * 128 + j)) vals
  let bytes := es.foldl (fun (b : Nat) e => setField b (w * (row * 128 + e.1)) w e.2.1) t.bytes.toNat
  let isN := acc ≠ 3 && es.any fun e => fIsNan (fUnpack (accFmt acc) e.2.1)
  let isI := acc ≠ 3 && es.any fun e => match fUnpack (accFmt acc) e.2.1 with | .inf _ => true | _ => false
  let isW := wrap || es.any fun e => e.2.2
  let base : BitVec 3 := if first && mode ≠ 1 then 0 else t.stat
  let add : BitVec 3 := BitVec.ofNat 3 ((if isN then 1 else 0) + (if isI then 2 else 0) + if isW then 4 else 0)
  ({ t with bytes := BitVec.ofNat 262144 bytes, stat := base ||| add }, isN, isI, isW)

/-! ## Tile moves (R209) -/

/-- R209: an element of a tile type widened to its lane type. Under fmt.sub code 01 a subnormal BF16 element is flushed, as
the result of the VCVT that R209 names; R209 also calls the reading exact, so this is the model's choice (log 67). -/
def widenElem (v : FEnv) (y : BitVec 3) (x : Nat) : Nat :=
  match y.toNat with
  | 2 => fPack v fp32 (fInput v fp16 x)
  | 3 => fPack v fp32 (fInput v bf16 x)
  | 6 => ofInt 32 (toSigned 16 x)
  | 7 => ofInt 32 (toSigned 8 x)
  | _ => x

/-- An integer clamped to a range of signed width `w`. -/
def clampS (w : Nat) (x : Int) : Int :=
  if x < -(2 ^ (w - 1) : Nat) then -(2 ^ (w - 1) : Nat) else if (2 ^ (w - 1) : Nat) ≤ x then (2 ^ (w - 1) : Nat) - 1 else x

/-- R209: a lane narrowed to a tile type. -/
def narrowElem (v : FEnv) (y : BitVec 3) (x : Nat) : Nat :=
  match y.toNat with
  | 2 => fPack v fp16 (fInput v fp32 x)
  | 3 => fPack v bf16 (fInput v fp32 x)
  | 6 => ofInt 16 (clampS 16 (toSigned 32 x))
  | 7 => ofInt 8 (clampS 8 (toSigned 32 x))
  | _ => x

/-- R209: the lane width of a tile type. -/
def laneW (y : BitVec 3) : Nat := if widthT y = 64 then 64 else 32

/-- R209: elements of a tile as a register, lanes beyond them zero. -/
def tileToLanes (v : FEnv) (y : BitVec 3) (t : Tile) (idx : List Nat) : VReg :=
  BitVec.ofNat 4096 (packLanes (laneW y) (idx.map fun f => widenElem v y (tileElem t (widthT y) f)))

/-- R209: the bytes that TWROW writes, from the low lanes of a register. -/
def lanesToBytes (v : FEnv) (y : BitVec 3) (n : Nat) (r : VReg) : List Byte :=
  natToBytes (n * widthT y / 8) (packLanes (widthT y) ((lanes (laneW y) n r.toNat).map (narrowElem v y)))

/-! ## Groves (R228, R229, R240-R242) -/

/-- R228: one step of the generator: the output bit and the next state. -/
def lfsrStep (x : Word) : Bool × Word :=
  let o := x.getLsbD 0
  (o, if o then (x >>> 1) ^^^ 0xD800000000000000 else x >>> 1)

/-- The state after some steps. -/
def lfsrRun : Nat → Word → Word
  | 0, x => x
  | n + 1, x => lfsrRun n (lfsrStep x).2

/-- The next output bits. -/
def lfsrBits : Nat → Word → List Bool
  | 0, _ => []
  | n + 1, x => (lfsrStep x).1 :: lfsrBits n (lfsrStep x).2

/-- R230: rank of a rank code. -/
def rankOfCode (r : BitVec 2) : Nat := 4 <<< r.toNat

/-- R228: row `k` of the basis; true is -1. -/
def basisRow (seed : Word) (r k : Nat) : List Bool := lfsrBits r (lfsrRun (64 + k * r) seed)

/-- R228: the whole basis, row by row. -/
def basisRows (r : Nat) : Nat → Word → List (List Bool)
  | 0, _ => []
  | n + 1, x => lfsrBits r x :: basisRows r n (lfsrRun r x)

/-- Element (j, c) of the coefficient rows, BF16. -/
def coefElem (coef : BitVec 65536) (j c : Nat) : Nat := field coef.toNat (2048 * j + 16 * c) 16

/-- A sign applied to a value. -/
def signed (neg : Bool) (a : FV) : FV :=
  match a with
  | .nan n f => .nan n f
  | x => if neg then fNegV x else x

/-- R229: one element of a grown row, from the signs of its row and the coefficients of its column. -/
def growElem (g : List Bool) (col : Nat → Nat) : Nat :=
  let terms := g.mapIdx fun j b => signed b (fUnpack bf16 (col j))
  match terms with
  | [] => 0
  | t :: ts =>
    fPack envGrove bf16 (ts.foldl (fun acc x => fUnpack fp32 (fAddV envGrove fp32 acc x)) t)

/-- R229: row `k` of the grown tile. -/
def growRow (g : Grove) (k : Nat) : List Nat :=
  let r := rankOfCode g.rank
  let b := basisRow g.seed r k
  (List.range 128).map fun c => growElem b fun j => coefElem g.coef j c

/-- R240: the projection of a target on a basis: coefficient (j, c). -/
def projElem (basis : List (List Bool)) (w : Tile) (j c : Nat) : Nat :=
  let term (k : Nat) (row : List Bool) : FV := signed ((row[j]?).getD false) (fUnpack bf16 (tileElem w 16 (128 * k + c)))
  let ts := basis.mapIdx term
  match ts with
  | [] => 0
  | t :: rest =>
    let p := rest.foldl (fun acc x => fUnpack fp32 (fAddV envGrove fp32 acc x)) t
    match p with
    | .fin n m e => fRound envGrove bf16 n m (e - 7) false
    | x => fPack envGrove bf16 x

/-- R240: the coefficients, row by row, as one number of r rows of 128 BF16 elements. -/
def projCoef (seed : Word) (r : Nat) (w : Tile) : BitVec 65536 :=
  let basis := basisRows r 128 (lfsrRun 64 seed)
  BitVec.ofNat 65536 (packLanes 2048 ((List.range r).map fun j => packLanes 16 ((List.range 128).map fun c => projElem basis w j c)))

/-- R240: the residual of a seed, as FP32 bits. -/
def residual (seed : Word) (rank : BitVec 2) (w : Tile) : Nat :=
  let r := rankOfCode rank
  let coef := projCoef seed r w
  let basis := basisRows r 128 (lfsrRun 64 seed)
  (basis.mapIdx fun k g => (k, g)).foldl (fun e kg =>
    (List.range 128).foldl (fun e c =>
      let w' := growElem kg.2 fun j => coefElem coef j c
      let d := fAddV envGrove fp32 (fUnpack bf16 (tileElem w 16 (128 * kg.1 + c))) (fNegV (fUnpack bf16 w'))
      fFmaV envGrove fp32 false (fUnpack fp32 d) (fUnpack fp32 d) (fUnpack fp32 e)) e) 0

/-- R241: searches `n` seeds from one on; the best seed and residual so far, and the lowest nonzero seed evaluated. -/
def searchFrom (rank : BitVec 2) (w : Tile) : Nat → Word → Option (Word × Nat) → Option Word → Option (Word × Nat) × Option Word
  | 0, _, best, low => (best, low)
  | n + 1, σ, best, low =>
    if σ = 0 then searchFrom rank w n (σ + 1) best low
    else
      let e := residual σ rank w
      let low' := match low with
        | none => some σ
        | some l => some (if σ.ult l then σ else l)
      let better := !fIsNan (fUnpack fp32 e) &&
        (match best with
         | none => true
         | some b => fLtV (fUnpack fp32 e) (fUnpack fp32 b.2) && !fEqV (fUnpack fp32 e) (fUnpack fp32 b.2)
                     || fEqV (fUnpack fp32 e) (fUnpack fp32 b.2) && σ.ult b.1)
      searchFrom rank w n (σ + 1) (if better then some (σ, e) else best) low'

/-- R241: the result of a search. -/
def searchResult (j : Job) : Word × Word32 :=
  match searchFrom j.rank j.target j.count j.seed none none with
  | (some b, _) => (b.1, BitVec.ofNat 32 b.2)
  | (none, some l) => (l, 0x7FC00000)
  | (none, none) => (0, 0x7FC00000)

/-- R232: a grove record as the bytes of tile rows 0 to r: the head and the coefficient rows. -/
def recordBytes (seed : Word) (rank : BitVec 2) (coef : BitVec 65536) : List Byte :=
  let r := rankOfCode rank
  natToBytes (256 * (r + 1)) (seed.toNat + 2 ^ 64 * rank.toNat + 2 ^ 2048 * (coef.toNat % 2 ^ (2048 * r)))

/-- R237: the slot that a record of a tile or memory gives; rows at and above the rank are +0. -/
def groveOfRecord (rec : Nat) (owner : Option Nat) : Grove :=
  let rank : BitVec 2 := BitVec.ofNat 2 (field rec 64 2)
  { seed := word (field rec 0 64), rank := rank,
    coef := BitVec.ofNat 65536 (field rec 2048 (2048 * rankOfCode rank)), owner := owner }

end Sys2Proof.Machine
end

