-- ==== Sys2Proof/Machine/Sequence.lean ====
section
/-! DEFINITION. The context sequencer: fetching words, the checks of a header, pipelines, switches, relocks and retiring
(R50, R52-R58, R76, R116, R117, R120, R216, R265, R323). -/
namespace Sys2Proof.Machine

/-! ## Fetch (R265) -/

/-- The words that a fetch may still see at an instruction offset, newest first: the word now there, and the words that
writes since the context's last IFENCE or launch have replaced. DEDUCED (log 101): a switch point forgets none of them, since
without an IFENCE each word is read old or new. -/
def fetchChoices (c : CoreSt) (x a : Nat) : List Word32 :=
  BitVec.ofNat 32 (readNat c.isp a 4)
    :: ((c.ispOld.filter fun e => decide ((ctxIn c x).fetchSince < e.1) && e.2.1 = a).map fun e => e.2.2)

/-- Fetches one word; which of the words it may see is a free choice. -/
def fetchWord (s : State) (k x a : Nat) : Word32 × State :=
  match fetchChoices (coreOf s k) x a with
  | [w] => (w, s)
  | ws =>
    let d := draw s
    ((ws[d.1 % ws.length]?).getD 0, d.2)

/-- Fetches the words of present slots in order. -/
def fetchSlots (s : State) (k x : Nat) : List Slot → Nat → List (Nat × Word32) × State
  | [], _ => ([], s)
  | sl :: sls, a =>
    let w := fetchWord s k x a
    let r := fetchSlots w.2 k x sls (a + 4)
    ((sl.idx, w.1) :: r.1, r.2)

/-! ## Bundle-level checks (R56-R58, R76) -/

/-- R57: owner codes are legal. -/
def ownersOk (h : Word32) : Bool :=
  (List.range 6).all fun p =>
    let o := hOwner h p
    o = 0 || (o < 6 && h.getLsbD o && !(o = 2 && p < 3) && !(o = 1 && 3 ≤ p))

/-- The instruction form of a slot word, whatever its fields: none for an opcode its map does not list (R58). -/
def formOf (w : Nat × Word32) : Option (Slot × Instr) :=
  match Slot.all.find? fun sl => sl.idx = w.1 with
  | none => none
  | some sl => (rawDecode sl w.2).map fun r => (sl, r.2)

/-- R56: a literal is used by the slots that are present. -/
def literalOk (h lit : Word32) (ws : List (Nat × Word32)) : Bool :=
  let forms := ws.filterMap formOf
  match hKind h with
  | 0 => true
  | 1 => forms.any fun f => f.1 = .S && literalNeed f.2 = 1
  | _ =>
    let uses (sl : Slot) := forms.any fun f => f.1 = sl && literalNeed f.2 = 2
    (uses .V0 || uses .V1) && (uses .V0 || field lit.toNat 0 16 = 0) && (uses .V1 || field lit.toNat 16 16 = 0)

/-- R58: every slot owns enough ports for its vector registers. Owner code of a slot is its number. -/
def portsOk (h : Word32) (ws : List (Nat × Word32)) : Bool :=
  (ws.filterMap formOf).all fun f =>
    let owned (lo : Nat) := ((List.range 3).filter fun p => hOwner h (lo + p) = f.1.idx).length
    decide (portNeed f.1 f.2 false ≤ owned 0) && decide (portNeed f.1 f.2 true ≤ owned 3)

/-- R216: the S words that make a bundle level, guarded or not. -/
def levelsS (i : Instr) : Bool :=
  match i with
  | .br _ _ => true
  | .call _ _ => true
  | .bri _ _ => true
  | .ret _ => true
  | .loop _ _ _ => true
  | .loopi _ _ _ => true
  | .bswap _ _ => true
  | .tick _ => true
  | .sclr _ _ => true
  | .waitp _ _ => true
  | .waitc _ _ => true
  | .mwait _ _ _ => true
  | .fence _ _ => true
  | .ifence _ => true
  | .retire _ => true
  | _ => false

/-- R216: a levelling bundle; in pinned mode every bundle levels, since no slot slips (R215). -/
def isLevel (pinned : Bool) (h : Word32) (ws : List (Nat × Word32)) : Bool :=
  pinned || hL h || hY h || hP h || (ws.filterMap formOf).any fun f => f.1 = .S && levelsS f.2

/-! ## Pipelines (R50) -/

/-- Results of a context still in flight, the counting of an arrival apart. -/
def inFlight (c : CoreSt) (x : Nat) : List Pend :=
  c.pend.filter fun p => p.ctx = x && !(match p.eff with | .arrive _ _ => true | _ => false)

/-- Load accesses of a context that have not performed. -/
def loadsOut (c : CoreSt) (x : Nat) : List Access :=
  c.accs.filter fun a => a.ctx = x &&
    (match a.kind with
     | .store _ => false
     | _ => !isRequest a)

/-- R50: some exposed pipeline of the context is not empty in this cycle. -/
def isDirty (c : CoreSt) (x : Nat) : Bool :=
  !(inFlight c x).isEmpty || !(loadsOut c x).isEmpty || decide (c.cyc < (ctxIn c x).beatEnd)

/-- R250: the cycle of its core in which a load that has not performed delivers, as far as it is fixed by now. -/
def loadLands (g : Nat) (c : CoreSt) (a : Access) : Nat :=
  let lat := match a.kind with
    | .tileLoad _ _ => 5
    | _ => 4
  match a.land, a.due with
  | some n, _ => n
  | none, .cycle n => n + lat
  | none, .step h => c.cyc + (h - g) + lat
  | none, .grant => c.cyc

/-- R342: the slots with results in flight, with beats in bit 6, and the cycles until the pipelines are empty; a free number
of cycles more where an elastic peer load is out, whose arrival no rule fixes (R253). -/
def dirtyDetail (s : State) (k x : Nat) : Word × Word × State :=
  let c := coreOf s k
  let sl := (inFlight c x).map Pend.slot ++ (loadsOut c x).map Access.slot
  let bits := (List.range 6).foldl (fun n i => n + (if sl.contains i then 2 ^ i else 0)) 0
  let beats := decide (c.cyc < (ctxIn c x).beatEnd)
  let last := ((inFlight c x).map Pend.due ++ (loadsOut c x).map (loadLands s.gauge c) ++ [(ctxIn c x).beatEnd]).foldl max c.cyc
  let more := if (loadsOut c x).any Access.late then draw s else (0, s)
  (word (bits + if beats then 64 else 0), word (last - c.cyc + more.1), more.2)

/-! ## Switching (R116, R117, R323) -/

/-- Rank of a context among ready ones: lower is chosen first; priority, then ascending number after the issuer. -/
def rankOf (c : CoreSt) (x y : Nat) : Nat := 8 * (3 - (ctxIn c y).prio.toNat) + (y + 7 - x) % 8

/-- R119, R364: the context's gang is being evicted or checkpointed, so it stops at its next switch point. -/
def isStopping (s : State) (c : Ctx) : Bool := (c.gang.bind (gangOf s)).any fun g => g.evict || g.ckpt

/-- The ready contexts of a core. -/
def readyCtxs (s : State) (k : Nat) : List Nat :=
  (List.range 8).filter fun y => (ctxOf s k y).life = .ready && !isStopping s (ctxOf s k y)

/-- The ready context of highest priority, ties by ascending number after `x`, with `x` last. -/
def chooseNext (s : State) (k x : Nat) : Option Nat := minBy (rankOf (coreOf s k) x) (readyCtxs s k)

/-- The kinds of switch point (R116). -/
inductive Switch where
  | yields | pauses | leaves
  deriving DecidableEq, Repr

/-- R116: the next issuer at a switch point of `x`. -/
def nextIssuer (s : State) (k x : Nat) (w : Switch) : Option Nat :=
  match w with
  | .yields => chooseNext s k x
  | .leaves => chooseNext s k x
  | .pauses =>
    if isStopping s (ctxOf s k x) then chooseNext s k x
    else
      match chooseNext s k x with
      | some y => if (ctxOf s k x).prio.toNat < (ctxOf s k y).prio.toNat then some y else some x
      | none => some x

/-- R323: gauge steps that eight elastic cycles take at the nominal frequency. -/
def relockSteps (s : State) : Nat := ceilDiv (8 * 1200) (max s.mhz 1)

/-- R26: the mode that the context has asked for takes effect: it goes on in it when it issues next. -/
def takeMode (c : Ctx) : Ctx := { c with pinCur := c.pinReq }

/-- Makes a context the issuer, or starts the relock that its mode costs (R117, R323), counted from a step. -/
def handOver (s : State) (k y from' : Nat) : State :=
  let c := coreOf s k
  let t := ctxIn c y
  if t.pinCur = c.pinned then modCore s k fun c => { c with issuer := some y, relock := none }
  else
    let due := if t.pinCur then from' + 16 else from' + relockSteps s
    modCore s k fun c => { c with issuer := none, relock := some { ctx := y, pinned := t.pinCur, since := from', step := due } }

/-- A switch point of the issuing context (R116): its pause count returns to zero and the next issuer is chosen. At a yield
and a pause point a change of mode takes effect (R26); a wait that parks has its own `takeMode`. -/
def switchPoint (s : State) (k x : Nat) (w : Switch) : State :=
  let s := modCtx s k x fun c =>
    let c := { c with pauseCount := 0 }
    match w with
    | .leaves => c
    | _ => takeMode c
  match nextIssuer s k x w with
  | none => modCore s k fun c => { c with issuer := none, relock := none }
  | some y => handOver s k y s.gauge

/-- R117: an idle core chooses among its ready contexts as at a wait that parks. A relock counts from the step in which the
chosen one became ready, or from that in which the core lost the context that kept it from being chosen, if that is later
(R323; the latter DEDUCED from R116, R125 and R130, log 90). -/
def chooseIdle (s : State) (k : Nat) : State :=
  let c := coreOf s k
  if c.issuer.isSome || c.relock.isSome then s
  else
    match chooseNext s k c.last with
    | none => s
    | some y => handOver s k y (max ((ctxOf s k y).readySince.getD s.gauge) c.leftAt)

/-- R323: a core whose relock is over has its first cycle of the new clock in this step: a pinned cycle, or the eighth
elastic cycle after the switch, with the time that this cycle leaves over. -/
def endRelock (s : State) (c : CoreSt) : CoreSt :=
  match c.relock with
  | none => c
  | some r =>
    if r.step ≤ s.gauge then
      let left := if r.step = s.gauge then 8 * s.mhz * (s.gauge - r.since) - 7 * 9600 else 9600
      { c with issuer := some r.ctx, pinned := r.pinned, relock := none, credit := if r.pinned then 0 else left }
    else c

/-- A context leaves its core: it no longer issues, and the core chooses again when it is idle. -/
def dropIssuer (s : State) (k x : Nat) : State :=
  modCore s k fun c =>
    if c.issuer = some x ∨ c.relock.any fun r => r.ctx = x then { c with issuer := none, relock := none, leftAt := s.gauge } else c

/-! ## Retiring (R120) -/

/-- R120: results of a context that would land in its own registers. -/
def isRegisterEff : Eff → Bool
  | .sreg _ _ => true
  | .flag _ _ => true
  | .vreg _ _ => true
  | .mask _ _ => true
  | .fmt _ => true
  | .cb _ _ => true
  | .basinClear _ => true
  | .basinAdd _ _ _ _ => true
  | .ctl _ _ => true
  | .search _ _ => true
  | .lqs _ _ => true
  | .lqv _ _ => true
  | _ => false

/-- R120: loads do not deliver to a retired context; every other access goes on. An ATOM still writes, but its result is
discarded. -/
def retireAccess (a : Access) : Option Access :=
  match a.kind with
  | .loadS _ _ => none
  | .loadV _ => none
  | .atom op uns n x _ => if isRequest a then none else some { a with kind := .atom op uns n x 0 }
  | _ => if isRequest a then none else some a

/-- R120, R239: a search job of a retired context still runs, but delivers to none. -/
def retireJob (x : Nat) (j : Job) : Job := if j.ctx = x && j.dest.isNone then { j with mute := true } else j

/-- R120: ends the kernel of a context: its register results in flight are discarded and its load-data queues emptied; it
is retired (start role) or idle. Everything else that it has issued goes on. -/
def retireCtx (s : State) (k x : Nat) : State :=
  modCore s k fun c =>
    let t := ctxIn c x
    { putCtx c x { t with life := if t.role = 0 then .retired else .idle, lqs := [], lqv := [], fault := none, deferred := [],
                          win := [], pauseCount := 0 } with
      pend := c.pend.filter fun p => !(p.ctx = x && isRegisterEff p.eff)
      accs := c.accs.filterMap fun a => if a.ctx = x then retireAccess a else some a
      jobs := c.jobs.map (retireJob x) }

end Sys2Proof.Machine
end

