-- ==== Sys2Proof/Machine/Landing.lean ====
section
/-! DEFINITION. Where results land, scratchpad accesses perform, entries become visible and parked contexts wake
(R15-R17, R46, R102, R176, R185, R250-R253, R259-R262, R281, R349). -/
namespace Sys2Proof.Machine

/-! ## Waking (R192, R260, R262, R281) -/

/-- R189: the signals of a context that are due at its next tick. -/
def dueSignals (c : CoreSt) (x : Nat) : List (Nat × Signal) :=
  let tn := ((ctxIn c x).tick + 1).toNat
  c.sigs.filter fun e => e.2.owner = x && tn % e.2.q = e.2.phi

/-- R192: some piped signal due at the next tick has an empty pipe. -/
def tickBlocked (s : State) (k x : Nat) : Bool :=
  (dueSignals (coreOf s k) x).any fun e =>
    match e.2.piped with
    | some p => (pipeOf s (64 * (k / 8) + p)).entries.isEmpty
    | none => false

/-- Wakes the contexts of a cluster that wait for a pipe's entry or for a blocked tick (R192, R260). -/
def wakePipe (s : State) (p : Nat) : State :=
  let cl := p / 64
  (List.range 64).foldl (fun s n =>
    let k := 8 * cl + n / 8
    let x := n % 8
    match (ctxOf s k x).life with
    | .parked (.pipe q) => if 64 * cl + q = p then modCtx s k x fun c => { c with life := .ready } else s
    | .parked .tick => if tickBlocked s k x then s else modCtx s k x fun c => { c with life := .ready }
    | _ => s) s

/-- R281: after a write into a core's scratchpad, the contexts whose word now matches become ready in the next step. -/
def wakeWords (s : State) (target : Nat) : State :=
  (List.range 64).foldl (fun s n =>
    let k := 8 * (target / 8) + n / 8
    let x := n % 8
    match (ctxOf s k x).life with
    | .parked (.word t off v) =>
      if t = target && readNat (coreOf s target).spad off 7 = v.toNat then
        modCtx s k x fun c => { c with life := .waking (s.gauge + 1) }
      else s
    | _ => s) s

/-- R262: one arrival is counted; a full count advances the generation and readies every waiting party. -/
def countArrival (s : State) (k cf : Nat) : State :=
  let key := 512 * k + cf
  let f := confOf s key
  if f.a + 1 = f.n then
    let s := setConf s key { f with a := 0, g := f.g + 1 }
    (List.range 8).foldl (fun s x =>
      if (ctxOf s k x).life = .parked (.conf cf) then
        modCtx s k x fun c => { c with life := .ready, armed := mapSet false c.armed cf false }
      else s) s
  else setConf s key { f with a := f.a + 1 }

/-! ## Scratchpad bytes (R249-R251, R349) -/

/-- The 8-byte words that bytes touch. -/
def wordsOf (off n : Nat) : List Nat := (List.range (ceilDiv (off % 8 + n) 8)).map fun i => off / 8 + i

/-- Some word of the bytes is poisoned. -/
def spadPoisoned (c : CoreSt) (off n : Nat) : Bool := (wordsOf off n).any fun w => c.poison.contains (.spad w)

/-- R349: a write of a whole word clears its poison; a partial write leaves it. -/
def clearSpadPoison (ps : List Place) (off n : Nat) : List Place :=
  ps.filter fun p => match p with
    | .spad w => !(decide (off ≤ 8 * w) && decide (8 * w + 8 ≤ off + n))
    | _ => true

/-- The bytes that a write changes: a byte of a word that stays poisoned is left alone. -/
def spadWrite (s : State) (target off : Nat) (bs : List Byte) : State :=
  let s := modCore s target fun c =>
    let ps := clearSpadPoison c.poison off bs.length
    let kept := (bs.mapIdx fun i b => (off + i, b)).filter fun e => !ps.contains (.spad (e.1 / 8))
    { c with spad := kept.foldl (fun m e => mapSet 0 m e.1 e.2) c.spad, poison := ps }
  wakeWords s target

/-! ## Results that land (R15) -/

/-- Writes a register place: a poisoned result poisons the place and leaves it unwritten; any other clears its poison. -/
def landPlace (s : State) (k x : Nat) (p : Place) (poison : Bool) (f : Ctx → Ctx) : State :=
  let s := modCore s k fun c =>
    { c with poison := if poison then p :: c.poison.filter (· ≠ p) else c.poison.filter (· ≠ p) }
  if poison then s else modCtx s k x f

/-- R95: a term added to a basin: a finite sum, a state and a carried overflow. -/
def basinPlus (b : Basin) (term : Int) (st : BitVec 2) (ov : Bool) : Basin :=
  let st' : BitVec 2 :=
    if b.st = 3 || st = 3 then 3
    else if st = 0 then b.st
    else if b.st = 0 then st
    else if b.st = st then st else 3
  if b.st ≠ 0 then { b with st := st', ov := b.ov || ov }
  else
    let t := b.val.toInt + term
    { val := BitVec.ofInt 4352 t, st := st', ov := b.ov || ov || decide (t < -(2 ^ 4351) ∨ 2 ^ 4351 ≤ t) }

/-- R185: the cleared state of a signal. -/
def sigCleared (x : Signal) : Signal := { x with lags := [], nw := false, next := 0, starved := false, adv := 0 }

/-- R132: what a CTLWR that passed its checks writes. -/
def ctlPut (c : Ctx) (n : Nat) (v : Word) : Ctx :=
  match n with
  | 4 => { c with prio := v.setWidth 2 }
  | 5 => { c with pinReq := v.getLsbD 0 }
  | 6 => { c with pauseBound := v.setWidth 32 }
  | 7 => { c with stRS := c.stRS && !v.getLsbD 0, stEV := c.stEV && !v.getLsbD 1, stWD := c.stWD && !v.getLsbD 2 }
  | 10 => { c with cardack := v }
  | 11 => { c with phase := v.setWidth 4 }
  | _ => if 16 ≤ n ∧ n ≤ 23 then { c with args := mapSet 0 c.args (n - 16) v } else c

/-- R258, R259: a sample becomes visible at the tail of a pipe; of those that do in one step, the one of the lower core stands
first. -/
def pipePut (s : State) (k q : Nat) (v : VReg) : State :=
  let y := pipeOf s q
  let tags := if y.freshStep = s.gauge then y.fresh.drop (y.fresh.length - y.entries.length) else []
  let new := insertBy Prod.fst (k, v) (List.zip tags (y.entries.drop (y.entries.length - tags.length)))
  wakePipe (setPipe s q
    { y with entries := y.entries.take (y.entries.length - tags.length) ++ new.map Prod.snd, inflight := y.inflight - 1,
             freshStep := s.gauge, fresh := new.map Prod.fst }) q

/-- Writes tile bytes that land, with the poison they carry or clear (R349). -/
def landTile (s : State) (k t off : Nat) (bs : List Byte) (poison : Bool) : State :=
  modCore s k fun c =>
    let hit (p : Place) := match p with
      | .tile t' w => t' = t && decide (off ≤ 8 * w) && decide (8 * w + 8 ≤ off + bs.length)
      | _ => false
    if poison then
      { c with poison := (wordsOf off bs.length).map (Place.tile t) ++ c.poison.filter fun p => !hit p }
    else { setTile c t { tileOf c t with bytes := tileWrite (tileOf c t).bytes off bs } with
           poison := c.poison.filter fun p => !hit p }

/-- R349: whole words of a tile that a drain has written are poisoned no longer. -/
def clearTilePoison (s : State) (k t off n : Nat) : State :=
  modCore s k fun c => { c with poison := c.poison.filter fun p => match p with
    | .tile t' w => !(t' = t && decide (off ≤ 8 * w) && decide (8 * w + 8 ≤ off + n))
    | _ => true }

/-- R102, R222: the status word of a tile once a drained row has landed that reads poison: the row itself is not written. -/
def poisonedStat (t : TileReg) (mode : BitVec 2) (first wrap : Bool) : TileReg :=
  { t with stat := (if first && mode ≠ 1 then 0 else t.stat) ||| (if wrap then 4 else 0) }

/-- R222, R349: a drained row reads poison: its own, or for .add a poisoned word among the elements that it adds to. -/
def drainPoison (c : CoreSt) (p : Pend) : Bool :=
  p.poison ||
    (match p.eff with
     | .drain t row acc mode cols _ _ _ _ =>
       mode = 1 && (wordsOf (row * accRowBytes acc.toNat) (cols * (accRowBytes acc.toNat / 128))).any fun w => c.poison.contains (.tile t w)
     | _ => false)

/-- R211: of the bytes of a tile that a ferry has written in the step and an elastic core's write lands on, a free choice says
for each which remains. -/
def tieTile (s : State) (k t off n : Nat) : State :=
  let c := coreOf s k
  let both := c.ferried.filter fun e => e.1 = t && decide (off ≤ e.2.1) && decide (e.2.1 < off + n)
  if c.pinned || both.isEmpty then s
  else
    let d := draw s
    let back := ((both.mapIdx fun i e => (i, e)).filter fun e => d.1.testBit e.1).map Prod.snd
    modCore d.2 k fun c =>
      setTile c t { tileOf c t with bytes := back.foldl (fun b e => tileWrite b e.2.1 [e.2.2]) (tileOf c t).bytes }

/-- One result reaches its latency. DESIGN CHOICE (log 84): an .add drain reads its destination element as the tile stands when its
result lands, so that drains of one element that overlap in flight all count; R222 names no cycle for that read. -/
def landEff (s : State) (k : Nat) (p : Pend) : State :=
  let x := p.ctx
  match p.eff with
  | .sreg d v => if d = 0 then s else landPlace s k x (.sreg x d) p.poison fun c => setSreg c d v
  | .flag d v => landPlace s k x (.flag x d) p.poison fun c => setFlag c d v
  | .vreg d v => landPlace s k x (.vreg x d) p.poison fun c => setVreg c d v
  | .mask d v => landPlace s k x (.mask x d) p.poison fun c => setMask c d v
  | .fmt v => modCtx s k x fun c => { c with fmt := v }
  | .cb es ty => modCtx s k x fun c =>
      { c with cb := (es.mapIdx fun i e => (i, e)).foldl (fun m e => mapSet 0 m e.1 e.2) c.cb, cbType := ty }
  | .basinClear d =>
    let s := landPlace s k x (.basin x d) p.poison fun c => setBasin c d {}
    -- R176: what was issued before the BCLR adds nothing after it
    modCore s k fun c => { c with pend := c.pend.filter fun q =>
      !(q.ctx = x && decide (q.seq < p.seq) && (match q.eff with | .basinAdd d' _ _ _ => decide (d' = d) | _ => false)) }
  | .basinAdd d t st ov =>
    -- R349: a poisoned basin takes no sum, and stays poisoned
    landPlace s k x (.basin x d) (p.poison || isPoisoned (coreOf s k) (.basin x d)) fun c =>
      setBasin c d (basinPlus (basinOf c d) t st ov)
  | .ctl n v => modCtx s k x fun c => ctlPut c n v
  | .sigFeed id v =>
    modCore s k fun c =>
      match sigOf c.sigs id with
      | some g =>
        if g.owner = x then
          { setSig c id { g with next := v, nw := true } with
            poison := c.poison.filter fun q => match q with | .sigNext i _ => i ≠ id | _ => true }
        else c
      | none => c
  | .sigClear id =>
    modCore s k fun c =>
      match sigOf c.sigs id with
      | some g =>
        { setSig c id (sigCleared g) with
          poison := c.poison.filter fun q => match q with | .sigNext i _ => i ≠ id | .sig i _ _ => i ≠ id | _ => true }
      | none => c
  | .tile t off bs _ => tieTile (landTile s k t off bs p.poison) k t off bs.length
  | .drain t row acc mode cols first vals wrap fmt =>
    let off := row * accRowBytes acc.toNat
    let size := if mode = 2 then accRowBytes acc.toNat else cols * (accRowBytes acc.toNat / 128)
    let note (s : State) (b : Bool) (kind : Nat) := if b then statAppend s k x kind p.bundle (t + 32 * row) else s
    if drainPoison (coreOf s k) p then
      let s := landTile s k t off (List.replicate (accRowBytes acc.toNat) 0) true
      note (modCore s k fun c => setTile c t (poisonedStat (tileOf c t) mode first wrap)) wrap 3
    else
      let r := drainLand (tileOf (coreOf s k) t) row mode.toNat cols first vals wrap fmt
      let s := modCore s k fun c => setTile c t r.1
      let s := tieTile (if mode = 1 then s else clearTilePoison s k t off size) k t off size
      note (note (note s r.2.1 1) r.2.2.1 2) r.2.2.2 3
  | .seed n v => modCore s k fun c => setGrove c n { groveOf c n with seed := v }
  | .grove n seed rank coef =>
    modCore s k fun c => setGrove c n { groveOf c n with seed := seed, rank := rank, coef := coef }
  | .search seed r => modCtx s k x fun c => { c with bestseed := seed, resid := r }
  | .pipe q v => pipePut s k q v
  | .lqs id v => modCtx s k x fun c =>
      { c with lqs := c.lqs.map fun e => if e.id = id then { e with val := some (v.setWidth 4096), poison := p.poison } else e }
  | .lqv id v => modCtx s k x fun c =>
      { c with lqv := c.lqv.map fun e => if e.id = id then { e with val := some v, poison := p.poison } else e }
  | .arrive cf _ => countArrival s k cf
  | .wake k' x' => modCtx s k' x' fun c => if c.life = .resuming then { c with life := .ready } else c

/-- R262: the result is an arrival, which is counted by an event of its own. -/
def isArrival (p : Pend) : Bool :=
  match p.eff with
  | .arrive _ _ => true
  | _ => false

def isWrite (a : Access) : Bool :=
  match a.kind with
  | .store _ => true
  | .atom _ _ _ _ _ => true
  | _ => false

/-- The word of a slot is a store or an ATOM. -/
def writesSpad (w : Nat × Word32) : Bool :=
  match formOf w with
  | some (_, .st _ _ _ _ _ _) => true
  | some (_, .vst _ _ _ _ _) => true
  | some (_, .tsrow _ _ _ _ _) => true
  | some (_, .atom _ _ _ _ _ _ _ _) => true
  | _ => false

/-- R215, R262: under slip, a scratchpad write of a bundle before a position has not issued yet. -/
def writeLags (c : Ctx) (pos : Nat) : Bool :=
  c.win.any fun b => decide (b.pos < pos) && b.words.any fun w => decide ((c.spos[w.1]?).getD 0 ≤ b.pos) && writesSpad w

/-- R262: an arrival that may be counted in this cycle: it is due, and the writes before it in the program have performed,
those that had issued by the ARRIVE and those that slipped behind it. -/
def arrivalDue (c : CoreSt) (p : Pend) : Bool :=
  decide (p.due ≤ c.cyc) &&
    (match p.eff with
     | .arrive _ after =>
       !(c.accs.any fun a => after.contains a.seq ||
           a.ctx = p.ctx && isWrite a && !isRequest a && decide (p.seq < a.seq) && decide (a.pos < p.pos)) &&
         !writeLags (ctxIn c p.ctx) p.pos
     | _ => false)

/-- R176: the result belongs to a basin, whose writers compose in issue order. -/
def isBasinEff (p : Pend) : Bool :=
  match p.eff with
  | .basinClear _ => true
  | .basinAdd _ _ _ _ => true
  | _ => false

/-- R17: results due in one cycle land in program order of their bundles, then in slot order, the last one remaining;
those of basins in the order of their issue (R176). -/
def landAll (s : State) (k : Nat) : State :=
  let c := coreOf s k
  let now (p : Pend) : Bool := decide (p.due ≤ c.cyc) && !isArrival p
  let due := c.pend.filter now
  let s := modCore s k fun c => { c with pend := c.pend.filter fun p => !now p }
  let bySeq := sortBy Pend.seq due
  let s := (bySeq.filter isBasinEff).foldl (fun s p => landEff s k p) s
  (sortBy (fun p : Pend => 8 * p.pos + p.slot) (bySeq.filter fun p => !isBasinEff p)).foldl (fun s p => landEff s k p) s

/-! ## Accesses that perform (R250, R251) -/

/-- A result of an access goes in flight in its issuing core, to land in the cycle that its release fixed or after a
latency. -/
def accResult (s : State) (k : Nat) (a : Access) (lat : Nat) (e : Eff) (poison : Bool) : State :=
  modCore s k fun c =>
    { c with pend := c.pend ++ [{ due := a.land.getD (c.cyc + lat), ctx := a.ctx, pos := a.pos, slot := a.slot, seq := a.seq,
                                  bundle := a.bundle, eff := e, poison := poison }] }

/-- R255, R314: what a read-modify-write leaves in memory. -/
def atomValue (op : Nat) (uns : Bool) (w old x : Nat) : Nat :=
  match op with
  | 0 => (old + x) % 2 ^ w
  | 1 => old &&& x
  | 2 => old ||| x
  | 3 => old ^^^ x
  | 4 => if (if uns then decide (x < old) else decide (toSigned w x < toSigned w old)) then x else old
  | 5 => if (if uns then decide (old < x) else decide (toSigned w old < toSigned w x)) then x else old
  | _ => x

/-- A store or an ATOM acts on its bank. -/
def performWrite (s : State) (k : Nat) (a : Access) : State :=
  match a.kind with
  | .store bs => spadWrite s a.target a.off bs
  | .atom op uns n x d =>
    let c := coreOf s a.target
    let old := readNat c.spad a.off n
    if spadPoisoned c a.off n then accResult s k a 4 (.sreg d (word old)) true
    else
      let v := atomValue op.toNat uns (8 * n) old (x.toNat % 2 ^ (8 * n))
      accResult (spadWrite s a.target a.off (natToBytes n v)) k a 4 (.sreg d (word old)) false
  | _ => s

/-- A load or a TLROW reads its bank; a peer load that issued elastic arrives after a free further delay (R253). -/
def performRead (s : State) (k : Nat) (a : Access) : State :=
  let c := coreOf s a.target
  match a.kind with
  | .loadS id n =>
    let d := if a.late then draw s else (0, s)
    accResult d.2 k a (4 + d.1) (.lqs id (word (readNat c.spad a.off n))) (spadPoisoned c a.off n)
  | .loadV id =>
    let d := if a.late then draw s else (0, s)
    accResult d.2 k a (4 + d.1) (.lqv id (BitVec.ofNat 4096 (readNat c.spad a.off 512))) (spadPoisoned c a.off 512)
  | .tileLoad t line => accResult s k a 5 (.tile t (128 * line) (readBytes c.spad a.off 128) 128) (spadPoisoned c a.off 128)
  | _ => s

/-- The access performs in this cycle of its core or in this gauge step. -/
def dueIn (s : State) (k : Nat) (byStep byCycle : Bool) (a : Access) : Bool :=
  match a.due with
  | .cycle c => byCycle && decide (c ≤ (coreOf s k).cyc)
  | .step g => byStep && decide (g ≤ s.gauge)
  | .grant => false

/-- Performs the accesses of a core that are selected, in issue order. -/
def performSel (s : State) (k : Nat) (sel : Access → Bool) (f : State → Nat → Access → State) : State :=
  let now := (coreOf s k).accs.filter sel
  let s := modCore s k fun c =>
    now.foldl (fun c a => if a.ctx < 8 then putCtx c a.ctx { ctxIn c a.ctx with accCyc := some c.cyc } else c)
      { c with accs := c.accs.filter fun a => !sel a }
  now.foldl (fun s a => f s k a) s

/-- Peer writes of the step, by rising core number (R249, R251). -/
def peerWritesNow (s : State) : State :=
  (mapKeys s.cores).foldl (fun s k => performSel s k (fun a => isWrite a && dueIn s k true false a) performWrite) s

/-- A core's own writes of the cycle. -/
def coreWritesNow (s : State) (k : Nat) : State :=
  performSel s k (fun a => isWrite a && dueIn s k false true a) performWrite

/-- Every read of the step or cycle: after all its writes (R251). -/
def readsNow (s : State) : State :=
  (mapKeys s.cores).foldl (fun s k => performSel s k (fun a => !isWrite a && dueIn s k true true a) performRead) s

end Sys2Proof.Machine
end

