-- ==== Sys2Proof/Machine/Scalar.lean ====
section
/-! DEFINITION. The S-slot arithmetic, moves, compares, queue reads, readings of time, format and status reads
(R89, R90, R103, R137-R148, R156, R197, R243, R348). -/
namespace Sys2Proof.Machine

/-- R140: s[d] := f(s[a], s[b]) at issue+lat; both operands are read at issue. -/
def scalar3 (i : Instr) (lat : Nat) (d a b : BitVec 5) (f : Word → Word → Word) (s : State) :
    Host.Outcome State Fault Refusal :=
  runSlot i .S s noPre fun s => pushS s .S lat d (f (sregOf (curCtx s) a.toNat) (sregOf (curCtx s) b.toNat))

/-- R142: s[d] := f(s[a]) at issue+1. -/
def scalar2 (i : Instr) (d a : BitVec 5) (f : Word → Word) (s : State) : Host.Outcome State Fault Refusal :=
  runSlot i .S s noPre fun s => pushS s .S 1 d (f (sregOf (curCtx s) a.toNat))

/-- s[d] := a value of the state at issue, at issue+1. -/
def scalar1 (i : Instr) (d : BitVec 5) (f : State → Word) (s : State) : Host.Outcome State Fault Refusal :=
  runSlot i .S s noPre fun s => pushS s .S 1 d (f s)

/-- R140: bits 127:64 of the signed product. -/
def mulHighS (x y : Word) : Word := BitVec.ofInt 64 ((x.toInt * y.toInt) / 2 ^ 64)
/-- R140: bits 127:64 of the unsigned product. -/
def mulHighU (x y : Word) : Word := word (x.toNat * y.toNat / 2 ^ 64)
/-- R141: truncated signed quotient; all ones for a zero divisor. -/
def divS (x y : Word) : Word := if y = 0 then BitVec.allOnes 64 else BitVec.ofInt 64 (x.toInt.tdiv y.toInt)
/-- R141: unsigned quotient; all ones for a zero divisor. -/
def divU (x y : Word) : Word := if y = 0 then BitVec.allOnes 64 else word (x.toNat / y.toNat)
/-- R141: the remainder takes the dividend's sign; the dividend for a zero divisor. -/
def remS (x y : Word) : Word := if y = 0 then x else BitVec.ofInt 64 (x.toInt.tmod y.toInt)
/-- R141: unsigned remainder; the dividend for a zero divisor. -/
def remU (x y : Word) : Word := if y = 0 then x else word (x.toNat % y.toNat)
/-- R140: leading zero bits; 64 for 0. -/
def clz64 (x : Word) : Word := word (64 - bitLen x.toNat)
/-- R140: one bits. -/
def popc64 (x : Word) : Word := word (popcountN 64 x.toNat)
/-- R140: the shift amount is bits 5:0. -/
def shamt (y : Word) : Nat := y.toNat % 64
def shl64 (x y : Word) : Word := x <<< shamt y
def shr64 (x y : Word) : Word := x >>> shamt y
def sra64 (x y : Word) : Word := x.sshiftRight (shamt y)
def minS (x y : Word) : Word := if x.slt y then x else y
def maxS (x y : Word) : Word := if x.slt y then y else x
def minU (x y : Word) : Word := if x.ult y then x else y
def maxU (x y : Word) : Word := if x.ult y then y else x

/-- R140. -/
def execAdd (g : BitVec 4) (d a b : BitVec 5) (s : State) : Host.Outcome State Fault Refusal :=
  scalar3 (.add g d a b) 1 d a b (fun x y => x + y) s

/-- R140. -/
def execSub (g : BitVec 4) (d a b : BitVec 5) (s : State) : Host.Outcome State Fault Refusal :=
  scalar3 (.sub g d a b) 1 d a b (fun x y => x - y) s

/-- R140. -/
def execMul (g : BitVec 4) (d a b : BitVec 5) (s : State) : Host.Outcome State Fault Refusal :=
  scalar3 (.mul g d a b) 3 d a b (fun x y => x * y) s

/-- R140. -/
def execMulhi (g : BitVec 4) (d a b : BitVec 5) (s : State) : Host.Outcome State Fault Refusal :=
  scalar3 (.mulhi g d a b) 3 d a b mulHighS s

/-- R140. -/
def execMulhn (g : BitVec 4) (d a b : BitVec 5) (s : State) : Host.Outcome State Fault Refusal :=
  scalar3 (.mulhn g d a b) 3 d a b mulHighU s

/-- R141. -/
def execDiv (g : BitVec 4) (d a b : BitVec 5) (s : State) : Host.Outcome State Fault Refusal :=
  scalar3 (.div g d a b) 20 d a b divS s

/-- R141. -/
def execDivn (g : BitVec 4) (d a b : BitVec 5) (s : State) : Host.Outcome State Fault Refusal :=
  scalar3 (.divn g d a b) 20 d a b divU s

/-- R141. -/
def execRem (g : BitVec 4) (d a b : BitVec 5) (s : State) : Host.Outcome State Fault Refusal :=
  scalar3 (.rem g d a b) 20 d a b remS s

/-- R141. -/
def execRemn (g : BitVec 4) (d a b : BitVec 5) (s : State) : Host.Outcome State Fault Refusal :=
  scalar3 (.remn g d a b) 20 d a b remU s

/-- R140. -/
def execAnd (g : BitVec 4) (d a b : BitVec 5) (s : State) : Host.Outcome State Fault Refusal :=
  scalar3 (.and g d a b) 1 d a b (fun x y => x &&& y) s

/-- R140. -/
def execOr (g : BitVec 4) (d a b : BitVec 5) (s : State) : Host.Outcome State Fault Refusal :=
  scalar3 (.or g d a b) 1 d a b (fun x y => x ||| y) s

/-- R140. -/
def execXor (g : BitVec 4) (d a b : BitVec 5) (s : State) : Host.Outcome State Fault Refusal :=
  scalar3 (.xor g d a b) 1 d a b (fun x y => x ^^^ y) s

/-- R140. -/
def execShl (g : BitVec 4) (d a b : BitVec 5) (s : State) : Host.Outcome State Fault Refusal :=
  scalar3 (.shl g d a b) 1 d a b shl64 s

/-- R140. -/
def execShr (g : BitVec 4) (d a b : BitVec 5) (s : State) : Host.Outcome State Fault Refusal :=
  scalar3 (.shr g d a b) 1 d a b shr64 s

/-- R140. -/
def execSra (g : BitVec 4) (d a b : BitVec 5) (s : State) : Host.Outcome State Fault Refusal :=
  scalar3 (.sra g d a b) 1 d a b sra64 s

/-- R140. -/
def execMin (g : BitVec 4) (d a b : BitVec 5) (s : State) : Host.Outcome State Fault Refusal :=
  scalar3 (.min g d a b) 1 d a b minS s

/-- R140. -/
def execMax (g : BitVec 4) (d a b : BitVec 5) (s : State) : Host.Outcome State Fault Refusal :=
  scalar3 (.max g d a b) 1 d a b maxS s

/-- R140. -/
def execMinn (g : BitVec 4) (d a b : BitVec 5) (s : State) : Host.Outcome State Fault Refusal :=
  scalar3 (.minn g d a b) 1 d a b minU s

/-- R140. -/
def execMaxn (g : BitVec 4) (d a b : BitVec 5) (s : State) : Host.Outcome State Fault Refusal :=
  scalar3 (.maxn g d a b) 1 d a b maxU s

/-- R140. -/
def execClz (g : BitVec 4) (d a : BitVec 5) (s : State) : Host.Outcome State Fault Refusal :=
  scalar2 (.clz g d a) d a clz64 s

/-- R140. -/
def execPopc (g : BitVec 4) (d a : BitVec 5) (s : State) : Host.Outcome State Fault Refusal :=
  scalar2 (.popc g d a) d a popc64 s

/-- R142. -/
def execAddi (g : BitVec 4) (d a : BitVec 5) (i : BitVec 11) (s : State) : Host.Outcome State Fault Refusal :=
  scalar2 (.addi g d a i) d a (fun x => x + sext64 i) s

/-- R142. -/
def execAndi (g : BitVec 4) (d a : BitVec 5) (i : BitVec 11) (s : State) : Host.Outcome State Fault Refusal :=
  scalar2 (.andi g d a i) d a (fun x => x &&& sext64 i) s

/-- R142. -/
def execOri (g : BitVec 4) (d a : BitVec 5) (i : BitVec 11) (s : State) : Host.Outcome State Fault Refusal :=
  scalar2 (.ori g d a i) d a (fun x => x ||| sext64 i) s

/-- R142. -/
def execXori (g : BitVec 4) (d a : BitVec 5) (i : BitVec 11) (s : State) : Host.Outcome State Fault Refusal :=
  scalar2 (.xori g d a i) d a (fun x => x ^^^ sext64 i) s

/-- R142. -/
def execShli (g : BitVec 4) (d a : BitVec 5) (i : BitVec 11) (s : State) : Host.Outcome State Fault Refusal :=
  scalar2 (.shli g d a i) d a (fun x => x <<< i.toNat) s

/-- R142. -/
def execShri (g : BitVec 4) (d a : BitVec 5) (i : BitVec 11) (s : State) : Host.Outcome State Fault Refusal :=
  scalar2 (.shri g d a i) d a (fun x => x >>> i.toNat) s

/-- R142. -/
def execSrai (g : BitVec 4) (d a : BitVec 5) (i : BitVec 11) (s : State) : Host.Outcome State Fault Refusal :=
  scalar2 (.srai g d a i) d a (fun x => x.sshiftRight i.toNat) s

/-- R143. -/
def execLdi (g : BitVec 4) (d : BitVec 5) (i : BitVec 16) (s : State) : Host.Outcome State Fault Refusal :=
  scalar1 (.ldi g d i) d (fun _ => sext64 i) s

/-- R144. -/
def execLit (g : BitVec 4) (d : BitVec 5) (s : State) : Host.Outcome State Fault Refusal :=
  scalar1 (.lit g d) d (fun s => sext64 s.cur.lit) s

/-- R144: bits 63:32 from the literal, bits 31:0 of s[d] as read at issue. -/
def execLith (g : BitVec 4) (d : BitVec 5) (s : State) : Host.Outcome State Fault Refusal :=
  scalar1 (.lith g d) d (fun s => (zext64 s.cur.lit <<< 32) ||| (sregOf (curCtx s) d.toNat &&& 0xFFFFFFFF)) s

/-- R145. -/
def execScmp (g : BitVec 4) (f : BitVec 3) (a b : BitVec 5) (c : BitVec 4) (s : State) :
    Host.Outcome State Fault Refusal :=
  runSlot (.scmp g f a b c) .S s noPre fun s =>
    pushF s .S 1 f (scalarCond c (sregOf (curCtx s) a.toNat) (sregOf (curCtx s) b.toNat))

/-- R145: the literal is sign-extended whatever the condition. -/
def execScmpl (g : BitVec 4) (f : BitVec 3) (a : BitVec 5) (c : BitVec 4) (s : State) :
    Host.Outcome State Fault Refusal :=
  runSlot (.scmpl g f a c) .S s noPre fun s =>
    pushF s .S 1 f (scalarCond c (sregOf (curCtx s) a.toNat) (sext64 s.cur.lit))

/-- R146. -/
def execSel (g : BitVec 4) (d a b : BitVec 5) (f : BitVec 3) (s : State) : Host.Outcome State Fault Refusal :=
  scalar1 (.sel g d a b f) d
    (fun s => if flagOf (curCtx s) f.toNat then sregOf (curCtx s) a.toNat else sregOf (curCtx s) b.toNat) s

/-- R147, R252: whether the oldest entry of lqs can be read at issue. -/
def lqsPre (s : State) : Pre :=
  let q := (curCtx s).lqs
  match q with
  | [] => .fault 0x32 0 0 0
  | e :: _ =>
    match e.val with
    | none => if (curCore s).pinned then .fault 0x32 (word (256 * q.length)) 0 0 else .wait s
    | some _ => if e.poison then .fault 0x7D (word 10) (word e.id) 0 else .ok

/-- The oldest entry of lqs. -/
def lqsHead (s : State) : Word := (((curCtx s).lqs.head?.bind LqEntry.val).getD 0).setWidth 64

/-- R147: the entry is removed at issue; s[d] lands at issue+1. -/
def execLqpop (g : BitVec 4) (d : BitVec 5) (s : State) : Host.Outcome State Fault Refusal :=
  runSlot (.lqpop g d) .S s lqsPre fun s =>
    let v := lqsHead s
    pushS (modCurCtx s fun c => { c with lqs := c.lqs.tail }) .S 1 d v

/-- R147. -/
def execLqpeek (g : BitVec 4) (d : BitVec 5) (s : State) : Host.Outcome State Fault Refusal :=
  runSlot (.lqpeek g d) .S s lqsPre fun s => pushS s .S 1 d (lqsHead s)

/-- R148: the gauge step current in the bundle's issue cycle. -/
def execGauge (g : BitVec 4) (d : BitVec 5) (s : State) : Host.Outcome State Fault Refusal :=
  scalar1 (.gauge g d) d (fun s => word s.gauge) s

/-- R148: cycles before this one in which the context was the issuing context. -/
def execCycles (g : BitVec 4) (d : BitVec 5) (s : State) : Host.Outcome State Fault Refusal :=
  scalar1 (.cycles g d) d (fun s => (curCtx s).cycles) s

/-- R87, R89: the values that FMTSET accepts. -/
def fmtLegal (v : Word) : Bool :=
  v.toNat / 2 ^ 14 = 0 && fmtAtype v ≤ 3 && fmtBtype v ≤ 3 && fmtSub v ≠ 3
    && (fmtAtype v < 2) = (fmtBtype v < 2) && (2 ≤ fmtAtype v) = (fmtAcc v = 3)

/-- R89. -/
def execFmtset (g : BitVec 4) (a : BitVec 5) (s : State) : Host.Outcome State Fault Refusal :=
  runSlot (.fmtset g a) .S s
    (fun s => if fmtLegal (sregOf (curCtx s) a.toNat) then .ok else .fault 0x06 0 0 0)
    fun s => push s .S 4 (.fmt (sregOf (curCtx s) a.toNat))

/-- R90. -/
def execFmtget (g : BitVec 4) (d : BitVec 5) (s : State) : Host.Outcome State Fault Refusal :=
  scalar1 (.fmtget g d) d (fun s => (curCtx s).fmt) s

/-- R236: seed 0 is refused; the seed lands at issue+2. -/
def execGseed (g : BitVec 4) (n : BitVec 2) (a : BitVec 5) (s : State) : Host.Outcome State Fault Refusal :=
  runSlot (.gseed g n a) .S s
    (fun s => if sregOf (curCtx s) a.toNat = 0 then .fault 0x06 0 0 0 else .ok)
    fun s => push s .S 2 (.seed n.toNat (sregOf (curCtx s) a.toNat))

/-- R243. -/
def execGbest (g : BitVec 4) (d : BitVec 5) (x : BitVec 11) (s : State) : Host.Outcome State Fault Refusal :=
  scalar1 (.gbest g d x) d (fun s => if x = 0 then (curCtx s).bestseed else zext64 (curCtx s).resid) s

/-- R103: the status word as it stood at issue, at issue+6. -/
def execTstat (g : BitVec 4) (d t : BitVec 5) (s : State) : Host.Outcome State Fault Refusal :=
  runSlot (.tstat g d t) .S s noPre fun s => pushS s .S 6 d (zext64 (tileOf (curCore s) t.toNat).stat)

/-- R348: the oldest record that is visible is removed at issue; 0 when there is none. -/
def execSqpop (g : BitVec 4) (d : BitVec 5) (s : State) : Host.Outcome State Fault Refusal :=
  runSlot (.sqpop g d) .S s noPre fun s =>
    let c := statSettle (curCtx s) s.gauge
    pushS (modCurCtx s fun _ => { c with statq := c.statq.tail }) .S 1 d (c.statq.headD 0)

/-- R156: TRAP raises 0x70 with its code. -/
def execTrap (g : BitVec 4) (c : BitVec 16) (s : State) : Host.Outcome State Fault Refusal :=
  runSlot (.trap g c) .S s (fun _ => .fault 0x70 (zext64 c) 0 0) fun s => s

/-- R156: BRK raises 0x71 with its code. -/
def execBrk (g : BitVec 4) (c : BitVec 16) (s : State) : Host.Outcome State Fault Refusal :=
  runSlot (.brk g c) .S s (fun _ => .fault 0x71 (zext64 c) 0 0) fun s => s

/-- R62: a NOP has no effect in any slot. -/
def execNop (sl : Slot) (g : BitVec 4) (s : State) : Host.Outcome State Fault Refusal :=
  runSlot (.nop sl g) sl s noPre fun s => s

/-- R74, R76: a word whose opcode its slot's map does not list faults 0x01 in that slot. -/
def execIllegalOpcode (sl : Slot) (w : Word32) (s : State) : Host.Outcome State Fault Refusal :=
  .next (encodingFault s sl 0x01 w)

end Sys2Proof.Machine
end

