-- ==== Sys2Proof/Machine/Control.lean ====
section
/-! DEFINITION. Branches, calls, loops, BSWAP and IFENCE (R149-R155, R263-R266). -/
namespace Sys2Proof.Machine

/-- R149, R263: the checks of a branch target; a register target is checked for alignment first. -/
def targetPre (s : State) (a : Word) (fromReg : Bool) : Pre :=
  if fromReg && a.toNat % 4 ≠ 0 then .fault 0x09 a 0 0
  else if 0x22000 ≤ a.toNat then .fault 0x7B a 0 0
  else if otherHalf (curCtx s) a.toNat then .fault 0x39 a 0 0
  else .ok

/-- R150: a taken branch supplies the bundle three positions on. -/
def takeBranch (s : State) (a : Nat) (pops : Bool) : State :=
  modCurCtx s fun c => { c with targets := c.targets ++ [{ pos := s.cur.pos + 3, addr := a, pops := pops }] }

/-- R151: the target of an OFF form. -/
def offTarget (s : State) (o : BitVec 21) : Word := word s.cur.addr + (sext64 o <<< 2)

/-- The header of the bundle at an instruction offset as the scratchpad holds it. -/
def headerAt (c : CoreSt) (a : Nat) : Word32 := BitVec.ofNat 32 (readNat c.isp a 4)

/-- R151: the address of the third bundle after an address in program order. DESIGN CHOICE (log 89): the sizes are those of the
headers that now stand in the scratchpad, where a fetch could still see older ones (R265). -/
def thirdAfter (c : CoreSt) (a : Nat) : Nat :=
  let a1 := a + hSize (headerAt c a)
  let a2 := a1 + hSize (headerAt c a1)
  a2 + hSize (headerAt c a2)

/-- R151. -/
def execBr (g : BitVec 4) (o : BitVec 21) (s : State) : Host.Outcome State Fault Refusal :=
  runSlot (.br g o) .S s (fun s => targetPre s (offTarget s o) false) fun s => takeBranch s (offTarget s o).toNat true

/-- R151: s31 gets the address of the third bundle after the CALL in program order, at issue+3. -/
def execCall (g : BitVec 4) (o : BitVec 21) (s : State) : Host.Outcome State Fault Refusal :=
  runSlot (.call g o) .S s (fun s => targetPre s (offTarget s o) false) fun s =>
    pushS (takeBranch s (offTarget s o).toNat false) .S 3 31 (word (thirdAfter (curCore s) s.cur.addr))

/-- R151: the target is s[a], read at issue. -/
def execBri (g : BitVec 4) (a : BitVec 5) (s : State) : Host.Outcome State Fault Refusal :=
  runSlot (.bri g a) .S s (fun s => targetPre s (sregOf (curCtx s) a.toNat) true) fun s =>
    takeBranch s (sregOf (curCtx s) a.toNat).toNat true

/-- R151: the target is s31, read at issue. -/
def execRet (g : BitVec 4) (s : State) : Host.Outcome State Fault Refusal :=
  runSlot (.ret g) .S s (fun s => targetPre s (sregOf (curCtx s) 31) true) fun s =>
    takeBranch s (sregOf (curCtx s) 31).toNat false

/-- R153: a nonzero count needs room on the loop stack. -/
def loopPre (s : State) (n : Word) : Pre :=
  let c := curCtx s
  if n ≠ 0 ∧ 4 ≤ c.loops.length then
    .fault 0x79 (word c.loops.length) (word ((c.loops.head?.map LoopEntry.stop).getD 0)) 0
  else .ok

/-- R153: opens a loop, or with a zero count puts two bubbles before the bundle after the end bundle, whose size is that of the header now
in the scratchpad (log 89, DESIGN CHOICE). -/
def openLoop (s : State) (n : Word) (off : Nat) : State :=
  let stop := s.cur.addr + 4 * off
  modCurCtx s fun c =>
    if n = 0 then
      { c with bubbles := [s.cur.pos + 1, s.cur.pos + 2], seqNext := stop + hSize (headerAt (curCore s) stop) }
    else { c with loops := { start := s.cur.addr + hSize s.cur.hdr, stop := stop, count := n } :: c.loops }

/-- R153. -/
def execLoop (g : BitVec 4) (a : BitVec 5) (e : BitVec 16) (s : State) : Host.Outcome State Fault Refusal :=
  runSlot (.loop g a e) .S s (fun s => loopPre s (sregOf (curCtx s) a.toNat)) fun s =>
    openLoop s (sregOf (curCtx s) a.toNat) e.toNat

/-- R153. -/
def execLoopi (g : BitVec 4) (c : BitVec 9) (e : BitVec 12) (s : State) : Host.Outcome State Fault Refusal :=
  runSlot (.loopi g c e) .S s (fun s => loopPre s (zext64 c)) fun s => openLoop s (zext64 c) e.toNat

/-- R272: some of `rows` rows of `len` bytes, laid from an address on at one pitch, has a byte in [lo, hi). The first row that
ends past `lo`, or the first that starts before `hi` where the pitch is negative, decides. -/
def spanTouches (a len rows p lo hi : Int) : Bool :=
  let at' (r : Int) : Bool :=
    decide (0 ≤ r ∧ r < rows) && decide (lo < a + r * p + len) && decide (a + r * p < hi)
  if len = 0 then false
  else if p = 0 then at' 0
  else if 0 < p then at' (max 0 ((lo - len - a) / p + 1))
  else at' (max 0 ((a - hi) / (-p) + 1))

/-! ## Shapes, their rows, and what a command writes (R272) -/

def shRow (h : BitVec 256) : Nat := field h.toNat 0 32
def shRows (h : BitVec 256) : Nat := field h.toNat 32 32
def shSpitch (h : BitVec 256) : Int := toSigned 64 (field h.toNat 64 64)
def shDpitch (h : BitVec 256) : Int := toSigned 64 (field h.toNat 128 64)
def shLand (h : BitVec 256) : Nat := field h.toNat 192 16
def shCodec (h : BitVec 256) : Nat := field h.toNat 208 8
def shTheta (h : BitVec 256) : Nat := field h.toNat 224 16

/-- R272: some byte of a block laid from an address on at a pitch lies in [lo, hi). -/
def rowsTouch (base : Word) (pitch : Int) (sh : BitVec 256) (lo hi : Int) : Bool :=
  spanTouches base.toNat (shRow sh) (shRows sh) pitch lo hi

/-- R272: some byte from block byte `p` on, of a block laid from an address on at a pitch, lies in [lo, hi). -/
def laterTouch (base : Word) (pitch : Int) (sh : BitVec 256) (p : Nat) (lo hi : Int) : Bool :=
  let len := shRow sh
  let row := p / len
  let a : Int := base.toNat + row * pitch
  len ≠ 0 && decide (row < shRows sh) &&
    (spanTouches (a + (p % len : Nat)) (len - p % len : Nat) 1 0 lo hi ||
     spanTouches (a + pitch) len (shRows sh - row - 1 : Nat) pitch lo hi)

/-- R73, R263: the first byte of a half of a core as a global address. -/
def halfBase (k : Nat) (half : Bool) : Int := ((ispGlobal k (if half then 0x10000 else 0)).toNat : Int)

/-- The one word that a command writes in place of rows: a stamp, a result, an atomic's operand (R278, R286, R307, R314). -/
def wordWritten (c : Cmd) : Option Word :=
  match c.kind with
  | .stamp => some c.a
  | .atom => some c.a
  | .sum => some c.b
  | .alloc => some c.b
  | .free => some c.b
  | _ => none

/-- R121, R263: a command writes some byte of the global addresses [lo, hi) of the cores' spaces; FQUANT and FDEDUP write none there
(R285, R310). -/
def writesInto (c : Cmd) (lo hi : Int) : Bool :=
  match c.kind with
  | .copy => rowsTouch c.b (shDpitch c.shape) c.shape lo hi
  | _ => (wordWritten c).any fun a => decide (lo < (a.toNat : Int) + 8 ∧ (a.toNat : Int) < hi)

/-- R263: a command's destination takes in some byte of a half. -/
def touchesHalf (c : Cmd) (k : Nat) (half : Bool) : Bool := writesInto c (halfBase k half) (halfBase k half + 0x10000)

/-- R263: a ferry command writes a half from its issue until its completion. -/
def cmdIssued (c : Cmd) : Bool :=
  match c.st with
  | .entering => false
  | .waiting => false
  | _ => true

/-- R263, R264: some issued ferry command writes the half of a core. -/
def halfWritten (s : State) (k : Nat) (half : Bool) : Bool :=
  s.ferries.any fun f => f.2.cmds.any fun c => cmdIssued c && touchesHalf c k half

/-- R266: only from the resident region, and not into a half that a ferry command is writing. -/
def execBswap (g : BitVec 4) (o : BitVec 21) (s : State) : Host.Outcome State Fault Refusal :=
  runSlot (.bswap g o) .S s
    (fun s =>
      if regionOf s.cur.addr ≠ 2 ∨ halfWritten s s.cur.core (!(curCtx s).liveHalf) then
        .fault 0x39 (word ((if (curCtx s).liveHalf then 0 else 0x10000) + 4 * o.toNat)) 0 0
      else .ok)
    fun s =>
      let half := !(curCtx s).liveHalf
      takeBranch (modCurCtx s fun c => { c with liveHalf := half }) ((if half then 0x10000 else 0) + 4 * o.toNat) false

/-- R265: fetched bundles are discarded, and no slot issues or passes the next bundle before issue+3. -/
def execIfence (g : BitVec 4) (s : State) : Host.Outcome State Fault Refusal :=
  runSlot (.ifence g) .S s noPre fun s =>
    modCurCtx s fun c => { c with fetchSince := s.gauge, stallUntil := (curCore s).cyc + 3 }

end Sys2Proof.Machine
end

