-- ==== Sys2Proof/Machine/Vector.lean ====
section
/-! DEFINITION. The V-slot arithmetic, compares, conversions, reductions, moves, masks, basins and codebook
(R93-R99, R158-R181). -/
namespace Sys2Proof.Machine

/-! ## Lanes -/

/-- Applies a function to every lane of width `w` (R159). -/
def map1 (w : Nat) (f : Nat → Nat) (a : VReg) : VReg :=
  BitVec.ofNat 4096 (packLanes w ((lanes w (4096 / w) a.toNat).map f))

/-- Applies a function to the lanes of two registers. -/
def map2 (w : Nat) (f : Nat → Nat → Nat) (a b : VReg) : VReg :=
  BitVec.ofNat 4096 (packLanes w (List.zipWith f (lanes w (4096 / w) a.toNat) (lanes w (4096 / w) b.toNat)))

/-- Applies a function to the lanes of three registers. -/
def map3 (w : Nat) (f : Nat → Nat → Nat → Nat) (a b c : VReg) : VReg :=
  BitVec.ofNat 4096 (packLanes w ((List.zip (lanes w (4096 / w) a.toNat)
    (List.zip (lanes w (4096 / w) b.toNat) (lanes w (4096 / w) c.toNat))).map fun e => f e.1 e.2.1 e.2.2))

/-- R162: latency by type: .d and .s, then .h and .b, then integer. -/
def latT (t : BitVec 3) (ds hb int : Nat) : Nat := if t.toNat < 2 then ds else if isFloatT t then hb else int

/-- R66: unsigned reading and saturation of an integer form. -/
def mUns (m : BitVec 3) : Bool := m.getLsbD 2
def mSatOn (m : BitVec 3) : Bool := m.getLsbD 0

/-- R80: a lane as an integer in the signed or the unsigned reading. -/
def laneInt (w : Nat) (uns : Bool) (x : Nat) : Int := if uns then (x : Int) else toSigned w x

/-- R80: an exact integer result, wrapped or clamped to the range of its reading. -/
def intResult (w : Nat) (uns sat : Bool) (x : Int) : Nat :=
  if sat then
    (if uns then (if x < 0 then 0 else if (2 ^ w : Nat) ≤ x then 2 ^ w - 1 else x.toNat) else ofInt w (clampS w x))
  else ofInt w x

/-- A lane of a floating type as a value, under the subnormal policy. -/
def laneF (fmt : Word) (t : BitVec 3) (x : Nat) : FV := fInput (envOf fmt 0) (fmtOf t.toNat) x

/-- R164: a two-operand lane function, by its floating and its integer reading. -/
def lane2 (fmt : Word) (t m : BitVec 3) (ff : FEnv → FFmt → FV → FV → Nat) (fi : Int → Int → Int) (x y : Nat) : Nat :=
  if isFloatT t then ff (envOf fmt m.toNat) (fmtOf t.toNat) (laneF fmt t x) (laneF fmt t y)
  else intResult (widthT t) (mUns m) (mSatOn m) (fi (laneInt (widthT t) (mUns m) x) (laneInt (widthT t) (mUns m) y))

/-- a - b, rounded: the sum with the negation, but a NaN keeps its sign (R84). -/
def fSubV (v : FEnv) (x : FFmt) (a b : FV) : Nat := fAddV v x a (fNegV b)

def lessInt (x y : Int) : Int := if y < x then y else x
def moreInt (x y : Int) : Int := if x < y then y else x

/-- R165: the lesser and the greater lane. -/
def laneMin (fmt : Word) (t m : BitVec 3) : Nat → Nat → Nat := lane2 fmt t m (fun v x a b => fMinMax v x false a b) lessInt
def laneMax (fmt : Word) (t m : BitVec 3) : Nat → Nat → Nat := lane2 fmt t m (fun v x a b => fMinMax v x true a b) moreInt

/-- A value with its sign cleared; a NaN is left to R84. -/
def fAbsV : FV → FV
  | .nan n f => .nan n f
  | .inf _ => .inf false
  | .fin _ m e => .fin false m e

/-- R164, R165: VABS and VNEG of a lane. -/
def lane1 (fmt : Word) (t m : BitVec 3) (ff : FV → FV) (fi : Int → Int) (x : Nat) : Nat :=
  if isFloatT t then fPack (envOf fmt 0) (fmtOf t.toNat) (ff (laneF fmt t x))
  else intResult (widthT t) (mUns m) (mSatOn m) (fi (laneInt (widthT t) (mUns m) x))

/-- R164: the shifts of a lane of width `w`. -/
def laneShl (w x y : Nat) : Nat := if w ≤ y then 0 else (x <<< y) % 2 ^ w
def laneShr (w x y : Nat) : Nat := if w ≤ y then 0 else x >>> y
def laneSra (w x y : Nat) : Nat := ofInt w (toSigned w x >>> (min y w))

/-! ## The frames of the V slot -/

/-- A V-slot instruction whose result is one register of its cluster. -/
def vres (i : Instr) (sl : VSlot) (lat : Nat) (d : BitVec 5) (f : State → VReg) (s : State) :
    Host.Outcome State Fault Refusal :=
  runSlot i sl.slot s noPre fun s => push s sl.slot lat (.vreg (vbase sl.slot + d.toNat) (f s))

/-- One source field. -/
def vres1 (i : Instr) (sl : VSlot) (lat : Nat) (d a : BitVec 5) (f : Word → VReg → VReg) (s : State) :
    Host.Outcome State Fault Refusal :=
  vres i sl lat d (fun s => f (curCtx s).fmt (vsrc s sl.slot a)) s

/-- Two source fields. -/
def vres2 (i : Instr) (sl : VSlot) (lat : Nat) (d a b : BitVec 5) (f : Word → VReg → VReg → VReg) (s : State) :
    Host.Outcome State Fault Refusal :=
  vres i sl lat d (fun s => f (curCtx s).fmt (vsrc s sl.slot a) (vsrc s sl.slot b)) s

/-! ## Element-wise forms (R164-R166) -/

/-- R164. -/
def execVadd (sl : VSlot) (g : BitVec 4) (d a b : BitVec 5) (t m : BitVec 3) (s : State) :
    Host.Outcome State Fault Refusal :=
  vres2 (.vadd sl g d a b t m) sl (latT t 4 3 2) d a b (fun fmt x y => map2 (widthT t) (lane2 fmt t m fAddV (fun p q => p + q)) x y) s

/-- R164. -/
def execVsub (sl : VSlot) (g : BitVec 4) (d a b : BitVec 5) (t m : BitVec 3) (s : State) :
    Host.Outcome State Fault Refusal :=
  vres2 (.vsub sl g d a b t m) sl (latT t 4 3 2) d a b (fun fmt x y => map2 (widthT t) (lane2 fmt t m fSubV (fun p q => p - q)) x y) s

/-- R164. -/
def execVmul (sl : VSlot) (g : BitVec 4) (d a b : BitVec 5) (t m : BitVec 3) (s : State) :
    Host.Outcome State Fault Refusal :=
  vres2 (.vmul sl g d a b t m) sl (latT t 4 3 2) d a b (fun fmt x y => map2 (widthT t) (lane2 fmt t m fMulV (fun p q => p * q)) x y) s

/-- R165. -/
def execVmin (sl : VSlot) (g : BitVec 4) (d a b : BitVec 5) (t m : BitVec 3) (s : State) :
    Host.Outcome State Fault Refusal :=
  vres2 (.vmin sl g d a b t m) sl (latT t 4 3 2) d a b (fun fmt x y => map2 (widthT t) (laneMin fmt t m) x y) s

/-- R165. -/
def execVmax (sl : VSlot) (g : BitVec 4) (d a b : BitVec 5) (t m : BitVec 3) (s : State) :
    Host.Outcome State Fault Refusal :=
  vres2 (.vmax sl g d a b t m) sl (latT t 4 3 2) d a b (fun fmt x y => map2 (widthT t) (laneMax fmt t m) x y) s

/-- R164, R165. -/
def execVabs (sl : VSlot) (g : BitVec 4) (d a : BitVec 5) (t m : BitVec 3) (s : State) :
    Host.Outcome State Fault Refusal :=
  vres1 (.vabs sl g d a t m) sl (latT t 4 3 2) d a (fun fmt x => map1 (widthT t) (lane1 fmt t m fAbsV (fun p => if p < 0 then -p else p)) x) s

/-- R164, R165. -/
def execVneg (sl : VSlot) (g : BitVec 4) (d a : BitVec 5) (t m : BitVec 3) (s : State) :
    Host.Outcome State Fault Refusal :=
  vres1 (.vneg sl g d a t m) sl (latT t 4 3 2) d a (fun fmt x => map1 (widthT t) (lane1 fmt t m fNegV (fun p => -p)) x) s

/-- R164. -/
def execVand (sl : VSlot) (g : BitVec 4) (d a b : BitVec 5) (t m : BitVec 3) (s : State) :
    Host.Outcome State Fault Refusal :=
  vres2 (.vand sl g d a b t m) sl 2 d a b (fun _ x y => x &&& y) s

/-- R164. -/
def execVor (sl : VSlot) (g : BitVec 4) (d a b : BitVec 5) (t m : BitVec 3) (s : State) :
    Host.Outcome State Fault Refusal :=
  vres2 (.vor sl g d a b t m) sl 2 d a b (fun _ x y => x ||| y) s

/-- R164. -/
def execVxor (sl : VSlot) (g : BitVec 4) (d a b : BitVec 5) (t m : BitVec 3) (s : State) :
    Host.Outcome State Fault Refusal :=
  vres2 (.vxor sl g d a b t m) sl 2 d a b (fun _ x y => x ^^^ y) s

/-- R164. -/
def execVshl (sl : VSlot) (g : BitVec 4) (d a b : BitVec 5) (t m : BitVec 3) (s : State) :
    Host.Outcome State Fault Refusal :=
  vres2 (.vshl sl g d a b t m) sl 2 d a b (fun _ x y => map2 (widthT t) (laneShl (widthT t)) x y) s

/-- R164. -/
def execVshr (sl : VSlot) (g : BitVec 4) (d a b : BitVec 5) (t m : BitVec 3) (s : State) :
    Host.Outcome State Fault Refusal :=
  vres2 (.vshr sl g d a b t m) sl 2 d a b (fun _ x y => map2 (widthT t) (laneShr (widthT t)) x y) s

/-- R164. -/
def execVsra (sl : VSlot) (g : BitVec 4) (d a b : BitVec 5) (t m : BitVec 3) (s : State) :
    Host.Outcome State Fault Refusal :=
  vres2 (.vsra sl g d a b t m) sl 2 d a b (fun _ x y => map2 (widthT t) (laneSra (widthT t)) x y) s

/-- R166: one fused multiply-add per lane of a floating type, rounded in fmt.rnd. -/
def fmaLanes (t : BitVec 3) (n : BitVec 1) (fmt : Word) (a b c : VReg) : VReg :=
  map3 (widthT t) (fun x y z => fFmaV (envOf fmt 0) (fmtOf t.toNat) (n == 1) (laneF fmt t x) (laneF fmt t y) (laneF fmt t z))
    a b c

/-- R166: the frame of the four VFMA forms. -/
def vfma (i : Instr) (t : BitVec 3) (sl : VSlot) (d a b c : BitVec 5) (n : BitVec 1) (s : State) :
    Host.Outcome State Fault Refusal :=
  vres i sl (latT t 4 3 2) d
    (fun s => fmaLanes t n (curCtx s).fmt (vsrc s sl.slot a) (vsrc s sl.slot b) (vsrc s sl.slot c)) s

/-- R166. -/
def execVfmaD (sl : VSlot) (g : BitVec 4) (d a b c : BitVec 5) (n : BitVec 1) (s : State) :
    Host.Outcome State Fault Refusal :=
  vfma (.vfma_d sl g d a b c n) 0 sl d a b c n s

/-- R166. -/
def execVfmaS (sl : VSlot) (g : BitVec 4) (d a b c : BitVec 5) (n : BitVec 1) (s : State) :
    Host.Outcome State Fault Refusal :=
  vfma (.vfma_s sl g d a b c n) 1 sl d a b c n s

/-- R166. -/
def execVfmaH (sl : VSlot) (g : BitVec 4) (d a b c : BitVec 5) (n : BitVec 1) (s : State) :
    Host.Outcome State Fault Refusal :=
  vfma (.vfma_h sl g d a b c n) 2 sl d a b c n s

/-- R166. -/
def execVfmaB (sl : VSlot) (g : BitVec 4) (d a b c : BitVec 5) (n : BitVec 1) (s : State) :
    Host.Outcome State Fault Refusal :=
  vfma (.vfma_b sl g d a b c n) 3 sl d a b c n s

/-! ## Compare, select, convert (R167-R169) -/

/-- The condition of VCMP on one pair of lanes. -/
def laneCmp (fmt : Word) (t : BitVec 3) (u : BitVec 1) (c : BitVec 2) (x y : Nat) : Bool :=
  if isFloatT t then fCond c.toNat (laneF fmt t x) (laneF fmt t y) else laneCond (widthT t) (u == 1) c x y

/-- A mask from bits, bit 0 first. -/
def maskOfBits (bs : List Bool) : Mask := BitVec.ofNat 256 (packLanes 1 (bs.map fun b => if b then 1 else 0))

/-- R160, R167: the mask of lane-wise answers; with 512 lanes a bit stands for a pair. -/
def cmpMask (fmt : Word) (t : BitVec 3) (u : BitVec 1) (c : BitVec 2) (a b : VReg) : Mask :=
  let w := widthT t
  let r := List.zipWith (laneCmp fmt t u c) (lanes w (4096 / w) a.toNat) (lanes w (4096 / w) b.toNat)
  if w = 8 then maskOfBits ((List.range 256).map fun j => (r[2 * j]?).getD false && (r[2 * j + 1]?).getD false)
  else maskOfBits r

/-- R167. -/
def execVcmp (sl : VSlot) (g : BitVec 4) (k : BitVec 3) (a b : BitVec 5) (t : BitVec 3) (u : BitVec 1) (c : BitVec 2)
    (s : State) : Host.Outcome State Fault Refusal :=
  runSlot (.vcmp sl g k a b t u c) sl.slot s noPre fun s =>
    push s sl.slot (latT t 4 3 2)
      (.mask k.toNat (cmpMask (curCtx s).fmt t u c (vsrc s sl.slot a) (vsrc s sl.slot b)))

/-- R160: the mask bit that governs a lane of width `w`. -/
def governs (k : Mask) (w i : Nat) : Bool := k.getLsbD (if w = 8 then i / 2 else i)

/-- R168. -/
def execVsel (sl : VSlot) (g : BitVec 4) (d a b : BitVec 5) (t k : BitVec 3) (s : State) :
    Host.Outcome State Fault Refusal :=
  vres (.vsel sl g d a b t k) sl 2 d (fun s =>
    let w := widthT t
    let m := maskOf (curCtx s) k.toNat
    let x := (vsrc s sl.slot a).toNat
    let y := (vsrc s sl.slot b).toNat
    BitVec.ofNat 4096 (packLanes w ((List.range (4096 / w)).map fun i => if governs m w i then lane w x i else lane w y i))) s

/-- R169: conversion of one lane from type `s'` to type `t`; `x` and `y` are the unsigned bits of the destination and the
source. -/
def convLane (fmt : Word) (x y : BitVec 1) (s' t r : BitVec 3) (v : Nat) : Nat :=
  let env := envOf fmt r.toNat
  if isFloatT t then
    if isFloatT s' then fPack env (fmtOf t.toNat) (laneF fmt s' v)
    else fOfInt env (fmtOf t.toNat) (laneInt (widthT s') (y == 1) v)
  else if isFloatT s' then
    match laneF fmt s' v with
    | .nan _ _ => 0
    | .inf n =>
      if mSatOn r then
        (if x == 1 then (if n then 0 else 2 ^ widthT t - 1)
         else if n then 2 ^ (widthT t - 1) else 2 ^ (widthT t - 1) - 1)
      else 0
    | .fin n m e => intResult (widthT t) (x == 1) (mSatOn r) (fToInt (fmtRnd fmt) n m e)
  else intResult (widthT t) (x == 1) (mSatOn r) (laneInt (widthT s') (y == 1) v)

/-- R169: lanes beyond the source's count are zero, and source lanes beyond the destination's are not read. -/
def convLanes (fmt : Word) (x y : BitVec 1) (s' t r : BitVec 3) (a : VReg) : VReg :=
  let n := min (4096 / widthT s') (4096 / widthT t)
  BitVec.ofNat 4096 (packLanes (widthT t) ((lanes (widthT s') n a.toNat).map (convLane fmt x y s' t r)))

/-- R169. -/
def execVcvt (sl : VSlot) (g : BitVec 4) (d a : BitVec 5) (x y : BitVec 1) (s' t r : BitVec 3) (s : State) :
    Host.Outcome State Fault Refusal :=
  vres1 (.vcvt sl g d a x y s' t r) sl 3 d a (fun fmt v => convLanes fmt x y s' t r v) s

/-! ## Division, roots, exponentials (R170) -/

/-- R170. -/
def execVdiv (sl : VSlot) (g : BitVec 4) (d a b : BitVec 5) (t r : BitVec 3) (s : State) :
    Host.Outcome State Fault Refusal :=
  vres2 (.vdiv sl g d a b t r) sl (if t = 0 then 14 else 10) d a b (fun fmt x y =>
    map2 (widthT t) (fun p q => fDivV (envOf fmt r.toNat) (fmtOf t.toNat) (laneF fmt t p) (laneF fmt t q)) x y) s

/-- A one-operand function of R170 over the lanes. -/
def funLanes (f : FEnv → FFmt → FV → Nat) (t r : BitVec 3) (fmt : Word) (x : VReg) : VReg :=
  map1 (widthT t) (fun p => f (envOf fmt r.toNat) (fmtOf t.toNat) (laneF fmt t p)) x

/-- R170. -/
def execVsqrt (sl : VSlot) (g : BitVec 4) (d a : BitVec 5) (t r : BitVec 3) (s : State) :
    Host.Outcome State Fault Refusal :=
  vres1 (.vsqrt sl g d a t r) sl (if t = 0 then 14 else 10) d a (funLanes fSqrtV t r) s

/-- R170. -/
def execVrcp (sl : VSlot) (g : BitVec 4) (d a : BitVec 5) (t r : BitVec 3) (s : State) :
    Host.Outcome State Fault Refusal :=
  vres1 (.vrcp sl g d a t r) sl (if t = 0 then 14 else 10) d a (funLanes (fun v x a => fDivV v x (.fin false 1 0) a) t r) s

/-- R170. -/
def execVrsq (sl : VSlot) (g : BitVec 4) (d a : BitVec 5) (t r : BitVec 3) (s : State) :
    Host.Outcome State Fault Refusal :=
  vres1 (.vrsq sl g d a t r) sl (if t = 0 then 14 else 10) d a (funLanes fRsqV t r) s

/-- R170. -/
def execVexp2 (sl : VSlot) (g : BitVec 4) (d a : BitVec 5) (t r : BitVec 3) (s : State) :
    Host.Outcome State Fault Refusal :=
  vres1 (.vexp2 sl g d a t r) sl 6 d a (funLanes fExp2V t r) s

/-- R170. -/
def execVlog2 (sl : VSlot) (g : BitVec 4) (d a : BitVec 5) (t r : BitVec 3) (s : State) :
    Host.Outcome State Fault Refusal :=
  vres1 (.vlog2 sl g d a t r) sl 6 d a (funLanes fLog2V t r) s

/-! ## Reductions (R93, R171, R172) -/

/-- One level of the tree of R93. -/
def pairUp (f : Nat → Nat → Nat) : List Nat → List Nat
  | x :: y :: rest => f x y :: pairUp f rest
  | r => r

/-- The levels of the tree. -/
def treeRun (f : Nat → Nat → Nat) : Nat → List Nat → List Nat
  | 0, xs => xs
  | n + 1, xs => treeRun f n (pairUp f xs)

/-- R93: the result of the tree over all lanes, in lane 0. -/
def reduceLanes (t : BitVec 3) (f : Nat → Nat → Nat) (a : VReg) : VReg :=
  let n := 4096 / widthT t
  BitVec.ofNat 4096 ((treeRun f (Nat.log2 n) (lanes (widthT t) n a.toNat)).headD 0)

/-- R171. -/
def execVredadd (sl : VSlot) (g : BitVec 4) (d a : BitVec 5) (t m : BitVec 3) (s : State) :
    Host.Outcome State Fault Refusal :=
  vres1 (.vredadd sl g d a t m) sl 6 d a (fun fmt x => reduceLanes t (lane2 fmt t m fAddV (fun p q => p + q)) x) s

/-- R171. -/
def execVredmax (sl : VSlot) (g : BitVec 4) (d a : BitVec 5) (t m : BitVec 3) (s : State) :
    Host.Outcome State Fault Refusal :=
  vres1 (.vredmax sl g d a t m) sl 6 d a (fun fmt x => reduceLanes t (laneMax fmt t m) x) s

/-- R171. -/
def execVredmin (sl : VSlot) (g : BitVec 4) (d a : BitVec 5) (t m : BitVec 3) (s : State) :
    Host.Outcome State Fault Refusal :=
  vres1 (.vredmin sl g d a t m) sl 6 d a (fun fmt x => reduceLanes t (laneMin fmt t m) x) s

/-- R172: lane `y` wins over an earlier lane `x` only as a NaN over a number or as a greater value. -/
def argBeats (fmt : Word) (t m : BitVec 3) (x y : Nat) : Bool :=
  if isFloatT t then
    let a := laneF fmt t x
    let b := laneF fmt t y
    !fIsNan a && (fIsNan b || fLtV a b)
  else decide (laneInt (widthT t) (mUns m) x < laneInt (widthT t) (mUns m) y)

/-- R172: the winning lane. -/
def argmaxFrom (fmt : Word) (t m : BitVec 3) : List Nat → Nat → Nat × Nat → Nat
  | [], _, best => best.1
  | y :: ys, i, best => argmaxFrom fmt t m ys (i + 1) (if argBeats fmt t m best.2 y then (i, y) else best)

/-- R172. -/
def execVargmx (sl : VSlot) (g : BitVec 4) (d a : BitVec 5) (t m : BitVec 3) (s : State) :
    Host.Outcome State Fault Refusal :=
  vres1 (.vargmx sl g d a t m) sl 6 d a (fun fmt x =>
    let xs := lanes (widthT t) (4096 / widthT t) x.toNat
    BitVec.ofNat 4096 (argmaxFrom fmt t m xs 0 (0, xs.headD 0))) s

/-! ## Moves (R173) -/

/-- R173: every lane gets the low bits of a scalar register. -/
def execVbcast (sl : VSlot) (g : BitVec 4) (d a : BitVec 5) (t : BitVec 3) (s : State) :
    Host.Outcome State Fault Refusal :=
  vres (.vbcast sl g d a t) sl 2 d (fun s =>
    BitVec.ofNat 4096 (packLanes (widthT t) (List.replicate (4096 / widthT t) (sregOf (curCtx s) a.toNat).toNat))) s

/-- R173: an index at or above the lane count gives 0. -/
def execVperm (sl : VSlot) (g : BitVec 4) (d a b : BitVec 5) (t : BitVec 3) (s : State) :
    Host.Outcome State Fault Refusal :=
  vres2 (.vperm sl g d a b t) sl 2 d a b (fun _ x y =>
    map1 (widthT t) (fun j => if j < 4096 / widthT t then lane (widthT t) x.toNat j else 0) y) s

/-- R173. -/
def execVmov (sl : VSlot) (g : BitVec 4) (d a : BitVec 5) (s : State) : Host.Outcome State Fault Refusal :=
  vres1 (.vmov sl g d a) sl 2 d a (fun _ x => x) s

/-- R63, R173: the destination names v0-v31 itself. -/
def execXmov (sl : VSlot) (g : BitVec 4) (d a : BitVec 5) (s : State) : Host.Outcome State Fault Refusal :=
  runSlot (.xmov sl g d a) sl.slot s noPre fun s => push s sl.slot 2 (.vreg d.toNat (vsrc s sl.slot a))

/-! ## Masks (R174, R175) -/

/-- R174. -/
def execVsumm (sl : VSlot) (g : BitVec 4) (f k : BitVec 3) (s : State) : Host.Outcome State Fault Refusal :=
  runSlot (.vsumm sl g f k) sl.slot s noPre fun s => pushF s sl.slot 3 f (maskOf (curCtx s) k.toNat != 0)

/-- R174. -/
def execVcount (sl : VSlot) (g : BitVec 4) (d : BitVec 5) (k : BitVec 3) (s : State) : Host.Outcome State Fault Refusal :=
  runSlot (.vcount sl g d k) sl.slot s noPre fun s =>
    pushS s sl.slot 3 d (word (popcountN 256 (maskOf (curCtx s) k.toNat).toNat))

/-- R175. -/
def execKand (sl : VSlot) (g : BitVec 4) (d a b : BitVec 3) (s : State) : Host.Outcome State Fault Refusal :=
  runSlot (.kand sl g d a b) sl.slot s noPre fun s =>
    push s sl.slot 1 (.mask d.toNat (maskOf (curCtx s) a.toNat &&& maskOf (curCtx s) b.toNat))

/-- R175. -/
def execKor (sl : VSlot) (g : BitVec 4) (d a b : BitVec 3) (s : State) : Host.Outcome State Fault Refusal :=
  runSlot (.kor sl g d a b) sl.slot s noPre fun s =>
    push s sl.slot 1 (.mask d.toNat (maskOf (curCtx s) a.toNat ||| maskOf (curCtx s) b.toNat))

/-- R175. -/
def execKxor (sl : VSlot) (g : BitVec 4) (d a b : BitVec 3) (s : State) : Host.Outcome State Fault Refusal :=
  runSlot (.kxor sl g d a b) sl.slot s noPre fun s =>
    push s sl.slot 1 (.mask d.toNat (maskOf (curCtx s) a.toNat ^^^ maskOf (curCtx s) b.toNat))

/-- R175: all 256 bits are inverted. -/
def execKnot (sl : VSlot) (g : BitVec 4) (d a : BitVec 3) (s : State) : Host.Outcome State Fault Refusal :=
  runSlot (.knot sl g d a) sl.slot s noPre fun s => push s sl.slot 1 (.mask d.toNat (~~~(maskOf (curCtx s) a.toNat)))

/-! ## Basins (R95, R96, R176-R178) -/

/-- R177. -/
def execBclr (sl : VSlot) (g : BitVec 4) (n : BitVec 2) (s : State) : Host.Outcome State Fault Refusal :=
  runSlot (.bclr sl g n) sl.slot s noPre fun s => push s sl.slot 1 (.basinClear n.toNat)

/-- R95: the state that two terms leave. -/
def stateJoin (a b : BitVec 2) : BitVec 2 :=
  if a = 3 || b = 3 then 3 else if a = 0 then b else if b = 0 then a else if a = b then a else 3

/-- R95: what a product enters a basin as: a multiple of 2^-2176, and a state. -/
def basinTerm : Option FV → Int × BitVec 2
  | some (.fin n m e) =>
    let x : Int := ((if 0 ≤ e + 2176 then m <<< (e + 2176).toNat else m >>> (-(e + 2176)).toNat) : Nat)
    (if n then -x else x, 0)
  | some (.inf n) => (0, if n then 2 else 1)
  | _ => (0, 3)

/-- R177: the finite products as one exact term, and the state that the others leave together. -/
def dotTerms (fmt : Word) (t : BitVec 3) (a b : VReg) : Int × BitVec 2 :=
  let w := widthT t
  (List.zip (lanes w (4096 / w) a.toNat) (lanes w (4096 / w) b.toNat)).foldl (fun acc e =>
    let r := basinTerm (mulV (laneF fmt t e.1) (laneF fmt t e.2))
    (acc.1 + r.1, stateJoin acc.2 r.2)) (0, 0)

/-- R177. -/
def execBacc (sl : VSlot) (g : BitVec 4) (n : BitVec 2) (a b : BitVec 5) (t : BitVec 3) (s : State) :
    Host.Outcome State Fault Refusal :=
  runSlot (.bacc sl g n a b t) sl.slot s noPre fun s =>
    let r := dotTerms (curCtx s).fmt t (vsrc s sl.slot a) (vsrc s sl.slot b)
    push s sl.slot 6 (.basinAdd n.toNat r.1 r.2 false)

/-- R95, R177: the source basin is read at issue; its value is the term while it is finite. DEDUCED (log 27): the value bits of a source
that is not finite add nothing; its state alone counts. -/
def execBadd (sl : VSlot) (g : BitVec 4) (n m : BitVec 2) (s : State) : Host.Outcome State Fault Refusal :=
  runSlot (.badd sl g n m) sl.slot s noPre fun s =>
    let b := basinOf (curCtx s) m.toNat
    push s sl.slot 6 (.basinAdd n.toNat (if b.st = 0 then b.val.toInt else 0) b.st b.ov)

/-- R96: a basin rounded to a floating type. -/
def basinRound (fmt : Word) (b : Basin) (t r : BitVec 3) : Nat :=
  let x := fmtOf t.toNat
  if b.st = 3 || b.ov then fCanon x
  else if b.st = 1 then fInf x false
  else if b.st = 2 then fInf x true
  else fRound (envOf fmt r.toNat) x (b.val.toInt < 0) b.val.toInt.natAbs (-2176) false

/-- R178. -/
def execBrnd (sl : VSlot) (g : BitVec 4) (d : BitVec 5) (n : BitVec 2) (t r : BitVec 3) (s : State) :
    Host.Outcome State Fault Refusal :=
  vres (.brnd sl g d n t r) sl 8 d
    (fun s => BitVec.ofNat 4096 (basinRound (curCtx s).fmt (basinOf (curCtx s) n.toNat) t r)) s

/-- R178: the exact sign or state. -/
def basinSign (b : Basin) (c : BitVec 2) : Bool :=
  if b.st = 3 || b.ov then c == 3
  else if b.st = 1 then c == 0
  else if b.st = 2 then c == 1
  else
    match c.toNat with
    | 0 => decide (0 < b.val.toInt)
    | 1 => decide (b.val.toInt < 0)
    | 2 => b.val == 0
    | _ => false

/-- R178. -/
def execBsgn (sl : VSlot) (g : BitVec 4) (f : BitVec 3) (n c : BitVec 2) (s : State) : Host.Outcome State Fault Refusal :=
  runSlot (.bsgn sl g f n c) sl.slot s noPre fun s =>
    pushF s sl.slot 3 f (basinSign (basinOf (curCtx s) n.toNat) c)

/-- R96: the parts of a basin. -/
def basinPart (b : Basin) (p : BitVec 1) : VReg :=
  if p = 0 then b.val.setWidth 4096
  else BitVec.ofNat 4096 (b.val.toNat / 2 ^ 4096 + 2 ^ 256 * b.st.toNat + if b.ov then 2 ^ 258 else 0)

/-- R178. -/
def execBmovb (sl : VSlot) (g : BitVec 4) (d : BitVec 5) (n : BitVec 2) (p : BitVec 1) (s : State) :
    Host.Outcome State Fault Refusal :=
  vres (.bmovb sl g d n p) sl 4 d (fun s => basinPart (basinOf (curCtx s) n.toNat) p) s

/-! ## Codebook (R98, R99, R179, R180) -/

/-- The 16 entries of cb as values, under the subnormal policy. -/
def cbValues (fmt : Word) (c : Ctx) : List FV :=
  (List.range 16).map fun j => laneF fmt c.cbType (mapGet 0 c.cb j).toNat

/-- The exact distance of two finite values as a magnitude and an exponent. -/
def fDist (a b : FV) : Option (Nat × Int) :=
  match a, b with
  | .fin n1 m1 e1, .fin n2 m2 e2 =>
    let r := sumFin 0 n1 m1 e1 (!n2) m2 e2
    some (r.2.1, r.2.2)
  | _, _ => none

/-- A distance is strictly less than another; none is infinite. -/
def distLt (x y : Option (Nat × Int)) : Bool :=
  match x, y with
  | none, _ => false
  | some _, none => true
  | some (m1, e1), some (m2, e2) =>
    let e := min e1 e2
    decide (m1 <<< (e1 - e).toNat < m2 <<< (e2 - e).toNat)

/-- The first entry that no later one beats. -/
def bestEntry (better : FV → FV → Bool) : List (Nat × FV) → Option (Nat × FV) → Nat
  | [], best => (best.map Prod.fst).getD 0
  | y :: ys, none => bestEntry better ys (some y)
  | y :: ys, some b => bestEntry better ys (some (if better y.2 b.2 then y else b))

/-- R179: the index of one lane. -/
def quantIndex (es : List FV) (x : FV) : Nat :=
  let num := (es.mapIdx fun i e => (i, e))
  let real := num.filter fun e => !fIsNan e.2
  let lt (a b : FV) := fLtV a b && !fEqV a b
  match x with
  | .nan _ _ => ((num.find? fun e => fIsNan e.2).map Prod.fst).getD 0
  | .inf n => bestEntry (fun a b => if n then lt a b else lt b a) real none
  | _ => bestEntry (fun a b => distLt (fDist x a) (fDist x b)) real none

/-- R179: the c4 indices of the lanes, 4 bits each from bit 0 up. -/
def execVcbq (sl : VSlot) (g : BitVec 4) (d a : BitVec 5) (t : BitVec 3) (s : State) :
    Host.Outcome State Fault Refusal :=
  vres (.vcbq sl g d a t) sl 4 d (fun s =>
    let fmt := (curCtx s).fmt
    let es := cbValues fmt (curCtx s)
    let w := widthT t
    BitVec.ofNat 4096 (packLanes 4 ((lanes w (4096 / w) (vsrc s sl.slot a).toNat).map fun x => quantIndex es (laneF fmt t x)))) s

/-- R180. -/
def execVcbx (sl : VSlot) (g : BitVec 4) (d a : BitVec 5) (t : BitVec 3) (s : State) :
    Host.Outcome State Fault Refusal :=
  vres (.vcbx sl g d a t) sl 3 d (fun s =>
    let fmt := (curCtx s).fmt
    let es := cbValues fmt (curCtx s)
    let w := widthT t
    BitVec.ofNat 4096 (packLanes w ((lanes 4 (4096 / w) (vsrc s sl.slot a).toNat).map fun j =>
      fPack (envOf fmt 0) (fmtOf t.toNat) ((es[j]?).getD (.fin false 0 0))))) s

/-- R99: the first 16 elements become the table, at issue+3. -/
def execCbld (sl : VSlot) (g : BitVec 4) (a : BitVec 5) (t : BitVec 3) (s : State) : Host.Outcome State Fault Refusal :=
  runSlot (.cbld sl g a t) sl.slot s noPre fun s =>
    push s sl.slot 3 (.cb ((lanes (widthT t) 16 (vsrc s sl.slot a).toNat).map word) t)

/-! ## Normalisation (R181) -/

/-- R181, R226: a sum of zero gives +0 and a row-empty bit; any other is a division. -/
def snormLane (fmt : Word) (t r : BitVec 3) (x y : Nat) : Nat × Bool :=
  match laneF fmt t y with
  | .fin _ 0 _ => (0, true)
  | b => (fDivV (envOf fmt r.toNat) (fmtOf t.toNat) (laneF fmt t x) b, false)

/-- R181, R226: the quotients, and the row-empty mask in k7, land together. -/
def execVsnorm (sl : VSlot) (g : BitVec 4) (d a b : BitVec 5) (t r : BitVec 3) (s : State) :
    Host.Outcome State Fault Refusal :=
  runSlot (.vsnorm sl g d a b t r) sl.slot s noPre fun s =>
    let w := widthT t
    let lat := if t = 0 then 14 else 10
    let rs := List.zipWith (snormLane (curCtx s).fmt t r) (lanes w (4096 / w) (vsrc s sl.slot a).toNat)
      (lanes w (4096 / w) (vsrc s sl.slot b).toNat)
    let s := push s sl.slot lat (.vreg (vbase sl.slot + d.toNat) (BitVec.ofNat 4096 (packLanes w (rs.map Prod.fst))))
    push s sl.slot lat (.mask 7 (maskOfBits (rs.map Prod.snd)))

end Sys2Proof.Machine
end

