-- ==== Sys2Proof/Machine/Blocks.lean ====
section
/-! DEFINITION. The stored forms of device memory: HRC and QRC blocks (R100, R101, R285), codebook-4 elements (R98, R294)
and lossless lines (R308). -/
namespace Sys2Proof.Machine

/-! ## HRC and QRC blocks (R100, R101) -/

/-- Code bits of a block format: HRC (2) has 7, QRC (3) has 3. -/
def codeBits (fmt : Nat) : Nat := if fmt = 2 then 7 else 3
/-- Stored bytes of a block of 64 elements. -/
def blockBytes (fmt : Nat) : Nat := if fmt = 2 then 64 else 32
/-- Bytes of the code string, where the other fields start. -/
def codeBytes (fmt : Nat) : Nat := if fmt = 2 then 56 else 24

/-- R101: the element of a code, from min and range in BF16. DESIGN CHOICE (log 73): R101 fixes rounding and subnormals and
names no NaN; a result that is none of the numbers is the canonical one. -/
def decodeElem (fmt code mn rg : Nat) : Nat :=
  let m := 2 ^ codeBits fmt - 1
  let prod := (mulV (.fin false code 0) (fUnpack bf16 rg)).getD (.nan false 0)
  let q := fDivV envPlain fp32 prod (.fin false m 0)
  fAddV envPlain bf16 (fUnpack bf16 mn) (fUnpack fp32 q)

/-- R100: the side-slot index that a block names. -/
def sideIndex (fmt : Nat) (blk : List Byte) : Nat := bytesToNat ((blk.drop (codeBytes fmt + 5)).take 3)

/-- R101: the 64 elements of a block and its side slot; a later side entry wins. -/
def decodeBlock (fmt : Nat) (blk side : List Byte) : List Nat :=
  let b := codeBits fmt
  let codes := bytesToNat (blk.take (codeBytes fmt))
  let mn := bytesToNat ((blk.drop (codeBytes fmt)).take 2)
  let rg := bytesToNat ((blk.drop (codeBytes fmt + 2)).take 2)
  let count := min (field (bytesToNat ((blk.drop (codeBytes fmt + 4)).take 1)) 0 4) 8
  let plain := (List.range 64).map fun i => decodeElem fmt (field codes (i * b) b) mn rg
  (List.range count).foldl (fun es j =>
    let e := bytesToNat ((side.drop (4 * j)).take 4)
    es.set (field e 0 6) (field e 16 16)) plain

/-- A finite BF16 value as a multiple of 2^-133. -/
def bfFix (x : Nat) : Int :=
  match fUnpack bf16 x with
  | .fin n m e => scaleTo n m e (-133)
  | _ => 0

def bfFinite (x : Nat) : Bool := decide (field x 7 8 ≠ 255)
def bfNan (x : Nat) : Bool := decide (field x 7 8 = 255 ∧ field x 0 7 ≠ 0)

/-- R285: 64 times the mean: the FP32 sum of the finite magnitudes, added in ascending order. -/
def blockSum (xs : List Nat) : FV :=
  fUnpack fp32 ((xs.filter bfFinite).foldl (fun acc x =>
    fAddV envPlain fp32 (fUnpack fp32 acc) (fUnpack bf16 (field x 0 15))) 0)

/-- R285: |x| > theta * mean, exactly; `sum` is 64 times the mean. -/
def isOutlier (theta : Nat) (sum : FV) (x : Nat) : Bool :=
  match fUnpack bf16 theta, sum, fUnpack bf16 (field x 0 15) with
  | .fin _ m1 e1, .fin _ m2 e2, y =>
    let t : FV := .fin false (m1 * m2) (e1 + e2 - 6)
    fLtV t y && !fEqV t y
  | _, _, _ => false

/-- R285: the candidates for the side list, best first. -/
def sideOrder (xs : List Nat) (theta : Nat) : List Nat :=
  let sum := blockSum xs
  let el := xs.mapIdx fun i x => (i, x)
  let cand := el.filter fun e => !bfFinite e.2 || (decide (field theta 0 15 ≠ 0) && isOutlier theta sum e.2)
  let big := 2 ^ 16
  (sortBy (fun e : Nat × Nat => (if bfFinite e.2 then big + (big - field e.2 0 15) else 0)) cand).map Prod.fst

/-- Nearest integer to a / b, ties to even, of b positive. -/
def nearestDiv (a b : Nat) : Nat :=
  let q := a / b
  let r := a % b
  if 2 * r > b || (2 * r = b && q % 2 = 1) then q + 1 else q

/-- R101, R285: range is BF16 rounded up, the largest finite value where that overflows. -/
def blockRange (mx mn : Nat) : Nat :=
  let r := fAddV ⟨3, 0, false⟩ bf16 (fUnpack bf16 mx) (fNegV (fUnpack bf16 mn))
  if bfFinite r then r else 0x7F7F

/-- R285: the encoding of 64 BF16 elements as block bytes, side-slot bytes and whether there were more than eight
candidates. `slot` is the block's number in its buffer. DESIGN CHOICE (log 78), where R100, R101 and R285 leave it open: an element on
the side list has code 0; a +inf among the rest has code M also where range is zero; the least of +0 and -0 is -0, in VMIN's
order; side entries past count are zero. -/
def encodeBlock (fmt theta slot : Nat) (xs : List Nat) : List Byte × List Byte × Bool :=
  let b := codeBits fmt
  let m := 2 ^ b - 1
  let order := sideOrder xs theta
  let side := sortBy id (order.take 8)
  let el := xs.mapIdx fun i x => (i, x)
  let rest := (el.filter fun e => !side.contains e.1 && bfFinite e.2).map Prod.snd
  let mn := match rest with
    | [] => 0
    | x :: ys => ys.foldl (fun a y => fMinMax envPlain bf16 false (fUnpack bf16 a) (fUnpack bf16 y)) x
  let mx := match rest with
    | [] => 0
    | x :: ys => ys.foldl (fun a y => fMinMax envPlain bf16 true (fUnpack bf16 a) (fUnpack bf16 y)) x
  let rg := match rest with
    | [] => 0
    | _ => blockRange mx mn
  let code (e : Nat × Nat) : Nat :=
    if side.contains e.1 || bfNan e.2 then 0
    else if !bfFinite e.2 then (if e.2 < 2 ^ 15 then m else 0)
    else if bfFix rg ≤ 0 then 0
    else min m (nearestDiv ((bfFix e.2 - bfFix mn) * m).toNat (bfFix rg).toNat)
  let codes := packLanes b (el.map code)
  let sideBytes := side.flatMap fun i => natToBytes 4 (i + 2 ^ 16 * ((xs[i]?).getD 0))
  (natToBytes (codeBytes fmt) codes ++ natToBytes 2 mn ++ natToBytes 2 rg ++ natToBytes 1 side.length ++ natToBytes 3 slot,
   sideBytes ++ List.replicate (32 - sideBytes.length) 0, decide (8 < order.length))

/-! ## Codebook-4 (R98, R294) -/

/-- Width in bits of an entry of a codebook record, from its type byte. DESIGN CHOICE (log 95): a byte above 3 is read as a 16-bit type. -/
def cbWidth (ty : Nat) : Nat := match ty with | 0 => 64 | 1 => 32 | _ => 16

/-- Entry j of a codebook record: the low bytes of slot j. -/
def cbEntry (rec : List Byte) (w j : Nat) : Nat := bytesToNat ((rec.drop (8 * j)).take (w / 8))

/-- The index that a write of an element stores: the choice of R179 on the record's entries (log 12). -/
def cbIndex (rec : List Byte) (ty x : Nat) : Nat :=
  let f := fmtOf (min ty 3)
  quantIndex ((List.range 16).map fun j => fUnpack f (cbEntry rec (cbWidth ty) j)) (fUnpack f x)

/-! ## Lossless lines (R308) -/

/-- The words of a line. -/
def lineWords (w : Nat) (line : List Byte) : List Nat := lanes (8 * w) (128 / w) (bytesToNat line)

/-- The deltas of a line's words from word 0, when every one fits in signed `d` bits. -/
def lineDeltas (w d : Nat) (line : List Byte) : Option (List Nat) :=
  let ws := lineWords w line
  let b := ws.headD 0
  let ds := ws.map fun x => toSigned (8 * w) ((x + 2 ^ (8 * w) - b) % 2 ^ (8 * w))
  if ds.all fun x => decide (-(2 ^ (d - 1) : Int) ≤ x ∧ x < 2 ^ (d - 1)) then some (ds.map (ofInt d)) else none

/-- R308: the tag and payload of a line: the first tag of 1, 2, 3, 5, 4, 0 that represents it. -/
def encodeLine (line : List Byte) : Nat × List Byte :=
  let ws := lineWords 8 line
  let b := ws.headD 0
  let base (w : Nat) := natToBytes w ((lineWords w line).headD 0)
  let deltas (d : Nat) (ds : List Nat) := ds.flatMap fun x => natToBytes (d / 8) x
  if ws.all fun x => x = 0 then (1, [])
  else if ws.all fun x => x = b then (2, natToBytes 8 b)
  else
    match lineDeltas 8 8 line, lineDeltas 4 8 line, lineDeltas 8 16 line with
    | some ds, _, _ => (3, base 8 ++ deltas 8 ds)
    | none, some ds, _ => (5, base 4 ++ deltas 8 ds)
    | none, none, some ds => (4, base 8 ++ deltas 16 ds)
    | none, none, none => (0, line)

/-- R308: the line of a tag and its slot; a reserved tag has none. -/
def decodeLine (tag : Nat) (slot : List Byte) : Option (List Byte) :=
  let expand (w d : Nat) : List Byte :=
    let b := bytesToNat (slot.take w)
    (List.range (128 / w)).flatMap fun i =>
      let x := toSigned d (bytesToNat ((slot.drop (w + i * (d / 8))).take (d / 8)))
      natToBytes w (ofInt (8 * w) (b + x))
  match tag with
  | 0 => some (slot.take 128)
  | 1 => some (List.replicate 128 0)
  | 2 => some ((List.replicate 16 (slot.take 8)).flatten)
  | 3 => some (expand 8 8)
  | 4 => some (expand 8 16)
  | 5 => some (expand 4 8)
  | _ => none

end Sys2Proof.Machine
end

