-- ==== Sys2Proof/Machine/Digest.lean ====
section
/-! DEFINITION. The two digests that the spec names: CRC-32C (R286) and SHA3-256 (R310, R358). -/
namespace Sys2Proof.Machine

/-- R286: one bit of the reflected CRC of polynomial 0x82F63B78. -/
def crcBit (c : Word32) : Word32 := if c.getLsbD 0 then (c >>> 1) ^^^ 0x82F63B78 else c >>> 1

/-- R286: one byte. -/
def crcByte (c : Word32) (b : Byte) : Word32 := (List.range 8).foldl (fun c _ => crcBit c) (c ^^^ b.setWidth 32)

/-- R286: the running CRC over bytes, from a value that starts at 0xFFFFFFFF. -/
def crcRun (c : Word32) (bs : List Byte) : Word32 := bs.foldl crcByte c

/-- R286: the final XOR. -/
def crcEnd (c : Word32) : Word32 := c ^^^ 0xFFFFFFFF

/-! ## Keccak, with its constants computed: the rotation offsets along the walk of lanes, the round constants by a shift
register -/

/-- Lane `i` = x + 5y of a Keccak state. -/
def keccakLane (a : List Word) (i : Nat) : Word := (a[i]?).getD 0

/-- Every lane xored with the parities of the two columns beside its own. -/
def keccakTheta (a : List Word) : List Word :=
  let parity := (List.range 5).map fun x => (List.range 5).foldl (fun p y => p ^^^ keccakLane a (x + 5 * y)) 0
  a.mapIdx fun i l => l ^^^ keccakLane parity ((i + 4) % 5) ^^^ (keccakLane parity ((i + 1) % 5)).rotateLeft 1

/-- The lane that lane `i` moves to: (x, y) goes to (y, 2x + 3y). -/
def keccakMove (i : Nat) : Nat := i / 5 + 5 * ((2 * (i % 5) + 3 * (i / 5)) % 5)

/-- The walk of `n` further moves from lane `i`: move t = 24 - n turns its lane by the triangular number of t. -/
def keccakWalk : Nat → Nat → List Word → List Word → List Word
  | 0, _, _, b => b
  | n + 1, i, a, b =>
    let turn := (24 - n) * (25 - n) / 2 % 64
    keccakWalk n (keccakMove i) a (b.set (keccakMove i) ((keccakLane a i).rotateLeft turn))

/-- Every lane with the next two of its row. -/
def keccakChi (b : List Word) : List Word :=
  b.mapIdx fun i l =>
    l ^^^ (~~~ keccakLane b (i / 5 * 5 + (i + 1) % 5) &&& keccakLane b (i / 5 * 5 + (i + 2) % 5))

/-- One step of the shift register of x^8 + x^6 + x^5 + x^4 + 1. -/
def keccakShift (r : BitVec 8) : BitVec 8 := (r <<< 1) ^^^ (if r.getLsbD 7 then 0x71 else 0)

/-- A round constant and the register after it: bit 2^j - 1 is the register's bit 1 after j + 1 steps. -/
def keccakConstant (r : BitVec 8) : Word × BitVec 8 :=
  (List.range 7).foldl
    (fun (p : Word × BitVec 8) j =>
      let q := keccakShift p.2
      (if q.getLsbD 1 then p.1 ||| (1 : Word) <<< (2 ^ j - 1) else p.1, q))
    (0, r)

/-- The rounds of Keccak-f[1600] still to run. -/
def keccakRounds : Nat → BitVec 8 → List Word → List Word
  | 0, _, a => a
  | n + 1, r, a =>
    let th := keccakTheta a
    let (rc, r) := keccakConstant r
    keccakRounds n r ((keccakChi (keccakWalk 24 1 th th)).modify 0 (· ^^^ rc))

/-- Keccak-f[1600]. -/
def kPerm (a : List Word) : List Word := keccakRounds 24 1 a

/-- Absorbs one block of 136 bytes. -/
def kAbsorb (a : List Word) (blk : List Byte) : List Word :=
  kPerm (a.mapIdx fun i l => if i < 17 then l ^^^ word (bytesToNat ((blk.drop (8 * i)).take 8)) else l)

/-- The message padded to blocks of 136 bytes with the SHA3 suffix. -/
def shaPad (bs : List Byte) : List Byte :=
  let n := 136 - bs.length % 136
  bs ++ (if n = 1 then [0x86] else 0x06 :: List.replicate (n - 2) 0 ++ [0x80])

/-- The first blocks of a message absorbed in turn. -/
def shaRun : Nat → List Byte → List Word → List Word
  | 0, _, a => a
  | n + 1, bs, a => shaRun n (bs.drop 136) (kAbsorb a (bs.take 136))

/-- SHA3-256 of bytes, as 32 bytes. -/
def sha3 (bs : List Byte) : List Byte :=
  let m := shaPad bs
  ((shaRun (m.length / 136) m (List.replicate 25 0)).take 4).flatMap fun l => natToBytes 8 l.toNat

end Sys2Proof.Machine
end

