-- ==== Sys2Proof/Machine/DeviceMemory.lean ====
section
/-! DEFINITION. Device memory: buffers, translation, key-value pages, stored forms, poisoned sectors
(R291-R299, R308, R309, R313). -/
namespace Sys2Proof.Machine

/-! ## Places that a global address names (R73) -/

/-- Where one byte of a ferry global address lies. -/
inductive Loc where
  | dev (va : Nat)
  | spad (core off : Nat)
  | tile (core t off : Nat)
  | isp (core off : Nat)
  /-- a nonzero bit that must be zero, or an offset outside its space -/
  | bad
  deriving DecidableEq, Repr

/-- R73. -/
def locOf (a : Nat) : Loc :=
  match a / 2 ^ 60 with
  | 0 => if field a 57 3 ≠ 0 then .bad else .dev (field a 0 57)
  | 1 => if field a 27 33 ≠ 0 then .bad else .spad (field a 19 8) (field a 0 19)
  | 2 => if field a 28 32 ≠ 0 then .bad else .tile (field a 20 8) (field a 15 5) (field a 0 15)
  | 3 =>
    if field a 27 33 ≠ 0 ∨ field a 18 1 ≠ 0 ∨ 0x22000 ≤ field a 0 18 then .bad else .isp (field a 19 8) (field a 0 18)
  | _ => .bad

/-! ## Buffers (R293, R294) -/

def hBase (h : BitVec 512) : Nat := field h.toNat 0 64
def hSizeB (h : BitVec 512) : Nat := field h.toNat 64 40
def hFmt (h : BitVec 512) : Nat := field h.toNat 104 3
def hXp (h : BitVec 512) : Nat := field h.toNat 107 2
def hImm (h : BitVec 512) : Bool := h.getLsbD 109
def hPin (h : BitVec 512) : Bool := h.getLsbD 110
def hMig (h : BitVec 512) : Bool := h.getLsbD 111
def hOwnerB (h : BitVec 512) : Nat := field h.toNat 112 16
def hAux (h : BitVec 512) : Nat := field h.toNat 192 64
def hRqmap (h : BitVec 512) : Nat := field h.toNat 256 64
def hRqfmt (h : BitVec 512) : Nat := field h.toNat 320 3

/-- A header with one field replaced. -/
def hSet (h : BitVec 512) (lo n x : Nat) : BitVec 512 := BitVec.ofNat 512 (setField h.toNat lo n x)

def bufKey (asid bid : Nat) : Nat := asid * 2 ^ 20 + bid
def headerOf (s : State) (asid bid : Nat) : BitVec 512 := mapGet 0 s.buffers (bufKey asid bid)
def setHeader (s : State) (asid bid : Nat) (h : BitVec 512) : State :=
  { s with buffers := mapSet 0 s.buffers (bufKey asid bid) h }

/-- R293: the buffer whose range holds a device-virtual address of an address space. -/
def bufferAt (s : State) (asid va : Nat) : Option (Nat × BitVec 512) :=
  (s.buffers.find? fun e => e.1 / 2 ^ 20 = asid && decide (hBase e.2 ≤ va) && decide (va < hBase e.2 + hSizeB e.2)).map
    fun e => (e.1 % 2 ^ 20, e.2)

/-- Key-value blocks stand among the counted buffers under a number that is no ASID (R296, R299). -/
def blockTag (b : Nat) : Nat × Nat := (2 ^ 16, b)

/-- R296: the busy count of a buffer or block, taken over the commands that it counts. -/
def busyOf (s : State) (asid bid : Nat) : Nat :=
  (s.ferries.map fun f => (f.2.cmds.filter fun c => c.touched.contains (asid, bid)).length).sum

/-! ## Translation (R297-R299) -/

/-- What a table walk finds. -/
inductive Walk where
  /-- physical address of the 4 KiB page, buffer, W -/
  | page (phys bid : Nat) (w : Bool)
  /-- no valid leaf -/
  | none
  /-- unresolvable, or a table entry that cannot be read, with the status -/
  | bad (status : BitVec 7)
  deriving DecidableEq, Repr

/-- A physical address has the chip above its 39 bits (R291). -/
def physOf (chip addr : Nat) : Nat := chip * 2 ^ 39 + addr
def chipOf (phys : Nat) : Nat := phys / 2 ^ 39

/-- R313: the 32-byte sector of a physical address is poisoned. -/
def sectorBad (s : State) (phys : Nat) : Bool := s.badSectors.contains (phys / 32)

/-- R297: some reserved bit of a table entry is nonzero. -/
def entryReserved (e : Nat) : Bool :=
  decide (field e 4 8 ≠ 0 ∨ field e 39 9 ≠ 0 ∨ field e 57 7 ≠ 0 ∨ field e 84 44 ≠ 0)

/-- R291, R297, R357: the walk from a table with `n` levels at and below it; a table out of reach ends it. -/
def walk (s : State) (va : Nat) : Nat → Nat → Walk
  | 0, _ => .bad 0x42
  | n + 1, table =>
    let at' := table + 16 * field va (12 + 9 * n) 9
    let e := readNat s.dram at' 16
    let addr := field e 12 27 * 4096
    if noRoute s (chipOf table) then .bad 0x42
    else if sectorBad s at' then .bad 0x43
    else if e % 2 = 0 then .none
    else if entryReserved e then .bad 0x42
    else if field e 1 2 = 3 then (if n = 0 then .bad 0x42 else walk s va n (physOf (chipOf table) addr))
    else if field e 1 2 ≠ n ∨ addr % 2 ^ (12 + 9 * n) ≠ 0 ∨ 432 ≤ field e 48 9 then .bad 0x42
    else .page (physOf (field e 48 9) (addr + field va 12 (9 * n) * 4096)) (field e 64 20) (field e 3 1 = 1)

/-- The table root of an address space. -/
def rootOf (s : State) (asid : Nat) : Option Nat := (s.roots.find? fun e => e.1 = asid).map Prod.snd

/-- R297: the walk of a device-virtual address. -/
def walkFrom (s : State) (asid va : Nat) : Walk :=
  match rootOf s asid with
  | some r => walk s va 5 r
  | none => .none

/-- R298: a leaf that a ferry's TLB holds. -/
def tlbFind (f : Ferry) (asid page : Nat) : Option (BitVec 128) :=
  (f.tlb.find? fun e => e.asid = asid && e.page = page).map TlbEntry.leaf

/-- The leaf of a page as a TLB keeps it: physical page, buffer, W. -/
def packLeaf (phys bid : Nat) (w : Bool) : BitVec 128 := BitVec.ofNat 128 ((phys / 4096) * 2 ^ 21 + bid * 2 + (if w then 1 else 0))
def unpackLeaf (l : BitVec 128) : Walk :=
  .page (l.toNat / 2 ^ 21 * 4096) (field l.toNat 1 20) (field l.toNat 0 1 = 1)

/-- R298: the translation of a page through a ferry, and the ferry with the leaf cached. -/
def ferryWalk (s : State) (f asid va : Nat) : Walk :=
  match tlbFind (ferryOf s f) asid (va / 4096) with
  | some l => unpackLeaf l
  | none => walkFrom s asid va

def tlbPut (s : State) (f asid va : Nat) (w : Walk) : State :=
  match w with
  | .page phys bid wr =>
    let fe := ferryOf s f
    if (tlbFind fe asid (va / 4096)).isSome then s
    else setFerry s f { fe with tlb := fe.tlb ++ [{ asid := asid, page := va / 4096, leaf := packLeaf phys bid wr }] }
  | _ => s

/-- R292, R298: an entry leaves every TLB. -/
def tlbDrop (s : State) (asid : Nat) (hit : Nat → Bool) : State :=
  { s with ferries := s.ferries.map fun f =>
      (f.1, { f.2 with tlb := f.2.tlb.filter fun e => !(e.asid = asid && hit e.page) }) }

/-! ## Key-value pages (R299, R300) -/

def isKv (va : Nat) : Bool := decide (field va 56 1 = 1)
def kvPage (va : Nat) : Nat := field va 12 44
def kvKey (asid page : Nat) : Nat := asid * 2 ^ 44 + page
def kvOf (s : State) (asid page : Nat) : Word := mapGet 0 s.kv (kvKey asid page)
def kvValid (e : Word) : Bool := e.getLsbD 63
def kvTier (e : Word) : Nat := field e.toNat 61 2
/-- The block that a first-stage entry names: its owning chip above the block number. -/
def kvBlock (e : Word) : Nat := field e.toNat 52 9 * 2 ^ 40 + field e.toNat 0 40
def Block.owner (b : Block) : Nat := hOwnerB b.hdr
def Block.frame (b : Block) : Nat := hAux b.hdr
def Block.dref (b : Block) : Nat := field b.hdr.toNat 160 32
def Block.setDref (b : Block) (n : Nat) : Block := { b with hdr := hSet b.hdr 160 32 n }
def blockOf (s : State) (b : Nat) : Option Block := (s.blocks.find? fun e => e.1 = b).map Prod.snd
def setBlock (s : State) (b : Nat) (x : Block) : State := { s with blocks := mapPut s.blocks b x }
def modBlock (s : State) (b : Nat) (f : Block → Block) : State :=
  match blockOf s b with
  | some x => setBlock s b (f x)
  | none => s

/-- R5, R299: reserved bits of an entry are nonzero. -/
def kvReserved (e : Word) : Bool := decide (field e.toNat 40 12 ≠ 0)

/-- R299, R353, R357: the block of a valid entry, when its tier is legal and can be reached, as can its chip, and that chip
grants it to the ASID. -/
def kvGranted (s : State) (asid : Nat) (e : Word) : Option Block :=
  if kvTier e = 3 ∨ (kvTier e = 2 ∧ !runsCxl s) ∨ noRoute s (kvBlock e / 2 ^ 40) then none
  else (blockOf s (kvBlock e)).bind fun b => if b.owner = asid ∧ !noRoute s (chipOf b.frame) then some b else none

/-- R299, R301: the owning chip grants the block of an entry of a legal tier to the ASID. -/
def blockGranted (s : State) (asid : Nat) (e : Word) : Bool :=
  decide (kvTier e ≠ 3) && (blockOf s (kvBlock e)).any fun b => decide (b.owner = asid)

/-- R299: a page's block, none where the command ends with 0x42. -/
def kvResolve (s : State) (asid va : Nat) : Option (Nat × Block) :=
  let e := kvOf s asid (kvPage va)
  if kvValid e then (kvGranted s asid e).map fun b => (kvBlock e, b) else none

/-! ## Physical bytes (R313) -/

/-- Physical address of a byte through the pages of a chunk. -/
def through (xl : SMap Nat) (va : Nat) : Nat := mapGet 0 xl (va / 4096) * 4096 + va % 4096

/-- Reads stored bytes through a chunk's pages; a poisoned sector gives 0x43. -/
def readStored (s : State) (xl : SMap Nat) (va n : Nat) : Except (BitVec 7) (List Byte) :=
  let at' := (List.range n).map fun i => through xl (va + i)
  if at'.any (sectorBad s) then .error 0x43 else .ok (at'.map fun p => mapGet 0 s.dram p)

/-- Writes single bytes of physical memory. -/
def putPhys (s : State) (ws : List (Nat × Byte)) : State :=
  { s with dram := ws.foldl (fun m e => mapSet 0 m e.1 e.2) s.dram }

/-- R313: writes stored bytes; a poisoned sector that is not wholly written refuses them, one that is loses its poison. -/
def writePhys (s : State) (whole : Nat → Bool) (ws : List (Nat × Byte)) : Except (BitVec 7) State :=
  if ws.any fun e => sectorBad s e.1 && !whole (e.1 / 32) then .error 0x43
  else
    let s := putPhys s ws
    .ok { s with badSectors := s.badSectors.filter fun x => !(ws.any fun e => e.1 / 32 = x) }

/-- R303, R311: copies stored bytes, whole sectors of them; what the destination held goes with its poison, and a poisoned
source sector makes a poisoned copy (DEDUCED, log 60). -/
def copySpan (s : State) (src dst n : Nat) : State :=
  let within (lo x : Nat) : Bool := decide (lo / 32 ≤ x) && decide (x < (lo + n) / 32)
  { s with dram := (mapRange s.dram src n).foldl (fun m e => mapSet 0 m (e.1 - src + dst) e.2) (mapClearRange s.dram dst n)
           badSectors := (s.badSectors.filter fun x => !within dst x) ++
             ((s.badSectors.filter (within src)).map fun x => x - src / 32 + dst / 32) }

/-- The sectors that a list of bytes covers whole. -/
def coversSector (ps : List Nat) (x : Nat) : Bool := (List.range 32).all fun i => ps.contains (32 * x + i)

/-! ## Bytes beside a buffer's data: tags, side slots, codebooks, requantisation maps (R294, R308, R312) -/

/-- A byte of an area that a header names, translated at its use: no valid leaf, a foreign owner or an unresolvable
translation is 0x42; a write is also refused by a sealed buffer (R235) and by W = 0. -/
def auxPhys (s : State) (asid : Nat) (write : Bool) (va : Nat) : Except (BitVec 7) Nat :=
  match walkFrom s asid va with
  | .page phys bid w =>
    let h := headerOf s asid bid
    if hOwnerB h ≠ asid ∨ noRoute s (chipOf phys) then .error 0x42
    else if write && hImm h then .error 0x45
    else if write && !w then .error 0x42
    else .ok (phys + va % 4096)
  | .none => .error 0x42
  | .bad st => .error st

/-- The physical addresses of bytes of such an area. -/
def auxSpan (s : State) (asid : Nat) (write : Bool) : Nat → Nat → Except (BitVec 7) (List Nat)
  | _, 0 => .ok []
  | va, n + 1 =>
    match auxPhys s asid write va, auxSpan s asid write (va + 1) n with
    | .ok p, .ok ps => .ok (p :: ps)
    | .error e, _ => .error e
    | .ok _, .error e => .error e

def auxRead (s : State) (asid va n : Nat) : Except (BitVec 7) (List Byte) :=
  match auxSpan s asid false va n with
  | .ok ps => if ps.any (sectorBad s) then .error 0x43 else .ok (ps.map fun p => mapGet 0 s.dram p)
  | .error e => .error e

def auxWrite (s : State) (asid va : Nat) (bs : List Byte) : Except (BitVec 7) State :=
  match auxSpan s asid true va bs.length with
  | .ok ps => writePhys s (coversSector ps) (List.zip ps bs)
  | .error e => .error e

/-! ## Units of a buffer (R284, R294, R295, R328) -/

/-- R284, R295: a buffer with compressed blocks, of its format or of a requantisation, that is marked 3: they travel as stored bytes to
every destination, and are never expanded there. -/
def marked3 (h : BitVec 512) : Bool := decide (hXp h = 3 ∧ (hRqmap h ≠ 0 ∨ (1 ≤ hFmt h ∧ hFmt h ≤ 4)))

/-- R232, R284, R295: the buffer's stored bytes are delivered as they are. DEDUCED (log 29): a lossless line that a copy takes
into another lossless buffer is expanded and encoded again, which gives the same stored bytes together with their tag. -/
def rawRead (h : BitVec 512) (toDev : Bool) : Bool :=
  decide (hFmt h = 5) || (marked3 h && !(decide (hFmt h = 1) && toDev))

/-- R294, R312: the buffer has a stored form of its own, read and written by whole lines, blocks or codebook units. -/
def inUnits (h : BitVec 512) : Bool := decide (hRqmap h ≠ 0 ∨ (1 ≤ hFmt h ∧ hFmt h ≤ 4))

/-- The buffer's bytes are expanded at a read or encoded at a write. -/
def isCoded (h : BitVec 512) (raw : Bool) : Bool := inUnits h && !raw

/-- R312: the encoding of one block: the format it has now, and whether it is a new one. -/
def blockFormat (s : State) (asid : Nat) (h : BitVec 512) (n : Nat) : Except (BitVec 7) (Nat × Bool) :=
  if hRqmap h = 0 then .ok (hFmt h, false)
  else
    match auxRead s asid (hRqmap h + n / 4) 1 with
    | .ok b => if field (bytesToNat b) (2 * (n % 4)) 2 = 1 then .ok (hRqfmt h, true) else .ok (hFmt h, false)
    | .error e => .error e

/-- R232, R284, R295: the block at an address is delivered as its stored bytes; a block of a plain buffer only when it is re-encoded. -/
def blockRaw (s : State) (asid : Nat) (h : BitVec 512) (va : Nat) (toDev : Bool) : Bool :=
  rawRead h toDev &&
    (decide (hFmt h ≠ 0) ||
      (match blockFormat s asid h ((va - hBase h) / 128) with
       | .ok (_, fresh) => fresh
       | .error _ => false))

/-- R328: logical bytes of a unit that is read or written in one step: a block or a line is read whole, raw or not. -/
def unitBytes (h : BitVec 512) : Nat := if inUnits h then (if hFmt h = 4 ∧ hRqmap h = 0 then 8 else 128) else 8

/-- Width in bits of the entries of a codebook-4 buffer. Where the record cannot be read the access ends with that status (log 31), and 64
serves only to find the unit. -/
def bookWidth (s : State) (asid : Nat) (h : BitVec 512) : Nat :=
  match auxRead s asid (hAux h + 128) 1 with
  | .ok b => cbWidth (bytesToNat b)
  | .error _ => 64

/-- R294: the stored bytes of the unit at an address, as start and length. DEDUCED (log 32): a re-encoded block is checked and
translated through the leaves of its old stored bytes. -/
def storedSpan (s : State) (asid : Nat) (h : BitVec 512) (va : Nat) : Nat × Nat :=
  let o := va - hBase h
  if !inUnits h then (va, unitBytes h)
  else
    match blockFormat s asid h (o / 128) with
    | .error _ => (va, 0)
    | .ok _ =>
      let f := hFmt h
      if f = 2 ∨ f = 3 then (hBase h + o / 128 * blockBytes f, blockBytes f)
      else if f = 4 then
        let w := bookWidth s asid h
        let e0 := o * 8 / w
        (hBase h + e0 / 2, (e0 + 64 / w - 1) / 2 - e0 / 2 + 1)
      else (va, 128)

/-- R294: logical bytes for each stored byte of the block at an offset of a buffer, the inverse of the ratio of its format. -/
def shrinkOf (s : State) (asid : Nat) (h : BitVec 512) (o : Nat) : Nat :=
  match blockFormat s asid h (o / 128) with
  | .ok (2, _) => 2
  | .ok (3, _) => 4
  | .ok (4, _) => bookWidth s asid h / 4
  | _ => 1

/-- The 64 BF16 elements of 128 bytes. -/
def bfElems (bs : List Byte) : List Nat := lanes 16 64 (bytesToNat bs)
def bfBytes (xs : List Nat) : List Byte := natToBytes 128 (packLanes 16 xs)

/-- The side slot that a block names; a block with no entries names none. -/
def readSide (s : State) (asid : Nat) (h : BitVec 512) (fmt : Nat) (blk : List Byte) : Except (BitVec 7) (List Byte) :=
  if field (bytesToNat (blk.drop (codeBytes fmt + 4))) 0 4 = 0 then .ok []
  else auxRead s asid (hAux h + 32 * sideIndex fmt blk) 32

/-- R312: a re-encoded block and its side slot. -/
def newBlock (s : State) (key n fmt : Nat) : List Byte × List Byte :=
  let m := mapGet [] s.newEnc key
  (readBytes m (n * blockBytes fmt) (blockBytes fmt), readBytes m (2 ^ 40 + 32 * n) 32)

/-- R308: payload bytes of a tag, as far as they are read. -/
def payloadBytes (tag : Nat) : Nat := match tag with | 1 => 0 | 2 => 8 | 3 => 24 | 4 => 40 | 5 => 36 | _ => 128

/-- R308: the tag of a line. -/
def readTag (s : State) (asid : Nat) (h : BitVec 512) (line : Nat) : Except (BitVec 7) Nat :=
  match auxRead s asid (hAux h + line / 2) 1 with
  | .ok b => .ok (field (bytesToNat b) (4 * (line % 2)) 4)
  | .error e => .error e

/-- The logical bytes of the elements of one unit of a codebook-4 buffer (R98, R294). -/
def bookElems (rec stored : List Byte) (e0 w : Nat) : List Byte :=
  (List.range (64 / w)).flatMap fun i =>
    let e := e0 + i
    let b := bytesToNat ((stored.drop (e / 2 - e0 / 2)).take 1)
    natToBytes (w / 8) (cbEntry rec w (field b (4 * (e % 2)) 4))

/-- R284: the logical bytes of the coded unit at an address. -/
def readCoded (s : State) (asid bid : Nat) (xl : SMap Nat) (h : BitVec 512) (va : Nat) : Except (BitVec 7) (List Byte) :=
  let o := va - hBase h
  let n := o / 128
  match blockFormat s asid h n with
  | .error e => .error e
  | .ok (f, fresh) =>
    if f = 2 ∨ f = 3 then
      if fresh then
        let b := newBlock s (bufKey asid bid) n f
        .ok (bfBytes (decodeBlock f b.1 b.2))
      else
        match readStored s xl (hBase h + n * blockBytes f) (blockBytes f) with
        | .error e => .error e
        | .ok blk =>
          match readSide s asid h f blk with
          | .error e => .error e
          | .ok side => .ok (bfBytes (decodeBlock f blk side))
    else if f = 1 then
      match readTag s asid h n with
      | .error e => .error e
      | .ok tag =>
        match readStored s xl va (payloadBytes tag) with
        | .error e => .error e
        | .ok slot =>
          match decodeLine tag slot with
          | some line => .ok line
          | none => .error 0x43
    else if f = 4 then
      match auxRead s asid (hAux h) 129 with
      | .error e => .error e
      | .ok rec =>
        let w := cbWidth (bytesToNat (rec.drop 128))
        let e0 := o * 8 / w
        match readStored s xl (hBase h + e0 / 2) ((e0 + 64 / w - 1) / 2 - e0 / 2 + 1) with
        | .error e => .error e
        | .ok st => .ok (bookElems rec st e0 w)
    else readStored s xl va 128

/-- The header of the buffer of the ASID that holds a device-virtual address outside the key-value space. -/
def plainBuffer (s : State) (asid va : Nat) : Option (Nat × BitVec 512) := if isKv va then none else bufferAt s asid va

/-- R294: what an access to a codebook-4 block meets when it reads the entry type of the record. -/
def bookRead (s : State) (asid : Nat) (h : BitVec 512) (fmt : Nat) : Except (BitVec 7) (List Byte) :=
  if fmt = 4 then auxRead s asid (hAux h + 128) 1 else .ok []

/-- R284, R312: the stored bytes of the unit at an address of a buffer that has a stored form of its own. -/
def readRaw (s : State) (asid bid : Nat) (xl : SMap Nat) (h : BitVec 512) (va : Nat) : Except (BitVec 7) (List Byte) :=
  let n := (va - hBase h) / 128
  match blockFormat s asid h n with
  | .error e => .error e
  | .ok (f, fresh) =>
    if fresh then .ok (newBlock s (bufKey asid bid) n f).1
    else
      match bookRead s asid h f with
      | .error e => .error e
      | .ok _ => let r := storedSpan s asid h va; readStored s xl r.1 r.2

/-- R284: the bytes of the unit at an address of device memory, as stored or as delivered. -/
def readUnit (s : State) (asid : Nat) (xl : SMap Nat) (raw : Bool) (va : Nat) : Except (BitVec 7) (List Byte) :=
  match plainBuffer s asid va with
  | none => readStored s xl va 8
  | some (bid, h) =>
    if !inUnits h then readStored s xl va (unitBytes h)
    else if raw then readRaw s asid bid xl h va
    else readCoded s asid bid xl h va

/-- R294: the logical bytes for each byte that a device-virtual address delivers, 1 where logical bytes travel. -/
def shrinkAt (s : State) (asid : Nat) (raw : Bool) (va : Nat) : Nat :=
  match raw, plainBuffer s asid va with
  | true, some (_, h) => shrinkOf s asid h (va - hBase h)
  | _, _ => 1

/-- R294: the place of a byte among those of its unit; the stored byte at offset o * ρ stands for the logical byte at offset o. Bases
are multiples of 4 KiB, and so of every ratio. -/
def unitIndex (s : State) (asid : Nat) (raw : Bool) (u va : Nat) : Nat :=
  let k := shrinkAt s asid raw va
  va / k - u / k

/-- R284: bytes of the unit in which a reader outside device memory gets a byte, and whether they are the stored ones. -/
def deliveredUnit (s : State) (asid va : Nat) : Nat × Bool :=
  match plainBuffer s asid va with
  | some (_, h) => (unitBytes h, blockRaw s asid h va false)
  | none => (8, false)

/-- R294, R308, R312: the bytes beside a buffer's data that an access of the unit at an address reads or writes, device-virtual: the map,
a line's tag, a codebook record, a side slot. -/
def auxBytes (s : State) (asid : Nat) (h : BitVec 512) (raw write : Bool) (va : Nat) : List Nat :=
  let n := (va - hBase h) / 128
  let side (k : Nat) : List Nat := (List.range 32).map fun i => hAux h + 32 * k + i
  (if hRqmap h = 0 then [] else [hRqmap h + n / 4]) ++
    (match raw, blockFormat s asid h n with
     | false, .ok (1, _) => [hAux h + n / 2]
     | false, .ok (4, _) => (List.range 129).map fun i => hAux h + i
     | true, .ok (4, _) => [hAux h + 128]
     | false, .ok (f, false) =>
       if f ≠ 2 ∧ f ≠ 3 then []
       else if write then side n
       else
         match auxRead s asid (hBase h + n * blockBytes f) (blockBytes f) with
         | .ok blk => if field (bytesToNat (blk.drop (codeBytes f + 4))) 0 4 = 0 then [] else side (sideIndex f blk)
         | .error _ => []
     | _, _ => [])

/-- The bytes that a read of the unit at an address reads, device-virtual and physical, in the order in which it reads them. -/
def unitPlaces (s : State) (asid : Nat) (raw : Bool) (xl : SMap Nat) (va : Nat) : List (Nat × Nat) :=
  let data (r : Nat × Nat) : List (Nat × Nat) := (List.range r.2).map fun i => (r.1 + i, through xl (r.1 + i))
  match plainBuffer s asid va with
  | none => data (va, 8)
  | some (_, h) =>
    let beside := (auxBytes s asid h raw false va).filterMap fun a =>
      match auxPhys s asid false a with
      | .ok p => some (a, p)
      | .error _ => none
    let stored := data (storedSpan s asid h va)
    let first := if hRqmap h = 0 then 0 else 1
    if hFmt h = 2 ∨ hFmt h = 3 then beside.take first ++ stored ++ beside.drop first else beside ++ stored

/-! ## Writing a unit (R295, R309) -/

/-- The unit with some of its bytes replaced. -/
def mergeUnit (old : List Byte) (upd : List (Nat × Byte)) : List Byte := upd.foldl (fun l e => l.set e.1 e.2) old

/-- The unit's bytes after a write: the old ones are read only where some stay (R309). -/
def mergedUnit (old : Except (BitVec 7) (List Byte)) (n : Nat) (upd : List (Nat × Byte)) : Except (BitVec 7) (List Byte) :=
  if (List.range n).all fun i => upd.any fun e => e.1 = i then .ok (mergeUnit (List.replicate n 0) upd)
  else
    match old with
    | .ok l => .ok (mergeUnit l upd)
    | .error e => .error e

/-- Stored bytes at a device-virtual address, written through a chunk's pages; `all` clears the poison of their sectors. -/
def writeStored (s : State) (xl : SMap Nat) (all : Bool) (whole : Nat → Bool) (va : Nat) (bs : List Byte) :
    Except (BitVec 7) State :=
  let ws := bs.mapIdx fun i b => (through xl (va + i), b)
  writePhys s (fun x => all || whole x || coversSector (ws.map Prod.fst) x) ws

/-- R308, R313: one line and its tag. Of the slot only the payload's sectors are written: a whole line clears their poison,
and a merge on a poisoned one is refused. -/
def writeLine (s : State) (asid : Nat) (xl : SMap Nat) (h : BitVec 512) (va : Nat) (merge : Bool) (line : List Byte) :
    Except (BitVec 7) State :=
  let n := (va - hBase h) / 128
  let e := encodeLine line
  if merge && (List.range e.2.length).any fun i => sectorBad s (through xl (va + i)) then .error 0x43
  else
  match auxRead s asid (hAux h + n / 2) 1 with
  | .error st => .error st
  | .ok b =>
    match auxWrite s asid (hAux h + n / 2) (natToBytes 1 (setField (bytesToNat b) (4 * (n % 2)) 4 e.1)) with
    | .error st => .error st
    | .ok s => writeStored s xl true (fun _ => true) va e.2

/-- R285, R295: one HRC or QRC block with its side slot; the answer tells a side-list overflow. -/
def writeBlock (s : State) (asid : Nat) (xl : SMap Nat) (h : BitVec 512) (fmt n theta : Nat) (bs : List Byte) :
    Except (BitVec 7) (State × Bool) :=
  let e := encodeBlock fmt theta n (bfElems bs)
  match auxWrite s asid (hAux h + 32 * n) e.2.1 with
  | .error st => .error st
  | .ok s =>
    match writeStored s xl true (fun _ => true) (hBase h + n * blockBytes fmt) e.1 with
    | .error st => .error st
    | .ok s => .ok (s, e.2.2)

/-- R312: a block of the new encoding. -/
def writeNew (s : State) (key fmt n theta : Nat) (bs : List Byte) : State × Bool :=
  let e := encodeBlock fmt theta n (bfElems bs)
  let m := mapGet [] s.newEnc key
  let m := writeBytes (writeBytes m (n * blockBytes fmt) e.1) (2 ^ 40 + 32 * n) e.2.1
  ({ s with newEnc := mapSet [] s.newEnc key m }, e.2.2)

/-- The nibble indices of elements of a unit of a codebook-4 buffer, written into its stored bytes. -/
def bookStore (rec stored : List Byte) (e0 w : Nat) (bs : List Byte) (els : List Nat) : List Byte :=
  els.foldl (fun st i =>
    let e := e0 + i
    let x := bytesToNat ((bs.drop (i * (w / 8))).take (w / 8))
    let j := cbIndex rec (bytesToNat (rec.drop 128)) x
    let at' := e / 2 - e0 / 2
    st.set at' (BitVec.ofNat 8 (setField (((st[at']?).getD 0).toNat) (4 * (e % 2)) 4 j))) stored

/-- R313: stored bytes that a write takes in, read through a chunk's pages: a poisoned sector that the chunk covers whole holds none
that it keeps, and gives no 0x43. -/
def readKept (s : State) (xl : SMap Nat) (whole : Nat → Bool) (va n : Nat) : Except (BitVec 7) (List Byte) :=
  let at' := (List.range n).map fun i => through xl (va + i)
  if at'.any fun p => sectorBad s p && !whole (p / 32) then .error 0x43 else .ok (at'.map fun p => mapGet 0 s.dram p)

/-- R98, R294: writes bytes of the unit at an address of a codebook-4 buffer; only elements that take some byte are written. -/
def writeBook (s : State) (asid : Nat) (xl : SMap Nat) (h : BitVec 512) (whole : Nat → Bool) (va : Nat) (upd : List (Nat × Byte)) :
    Except (BitVec 7) State :=
  match auxRead s asid (hAux h) 129 with
  | .error e => .error e
  | .ok rec =>
    let w := cbWidth (bytesToNat (rec.drop 128))
    let e0 := (va - hBase h) * 8 / w
    match readKept s xl whole (hBase h + e0 / 2) ((e0 + 64 / w - 1) / 2 - e0 / 2 + 1) with
    | .error e => .error e
    | .ok st =>
      let els := (List.range (64 / w)).filter fun i => upd.any fun e => decide (e.1 / (w / 8) = i)
      writeStored s xl false whole (hBase h + e0 / 2) (bookStore rec st e0 w (mergeUnit (bookElems rec st e0 w) upd) els)

/-- R284, R295, R309: writes bytes of a coded unit, given by their offsets in it. -/
def writeCoded (s : State) (asid bid : Nat) (xl : SMap Nat) (h : BitVec 512) (theta : Nat) (whole : Nat → Bool) (va : Nat)
    (upd : List (Nat × Byte)) : Except (BitVec 7) (State × Bool) :=
  let n := (va - hBase h) / 128
  match blockFormat s asid h n with
  | .error e => .error e
  | .ok (f, fresh) =>
    if f = 4 then (writeBook s asid xl h whole va upd).map fun s => (s, false)
    else if f ≠ 1 ∧ f ≠ 2 ∧ f ≠ 3 then (writePhys s whole (upd.map fun e => (through xl (va + e.1), e.2))).map fun s => (s, false)
    else
      let merge := !(List.range 128).all fun i => upd.any fun e => e.1 = i
      match mergedUnit (readCoded s asid bid xl h va) 128 upd with
      | .error e => .error e
      | .ok bs =>
        if f = 1 then (writeLine s asid xl h va merge bs).map fun s => (s, false)
        else if fresh then .ok (writeNew s (bufKey asid bid) f n theta bs)
        else writeBlock s asid xl h f n theta bs

/-- R284, R312: writes stored bytes as they are, given by the offsets in their unit of the logical bytes that they stand for. -/
def writeRaw (s : State) (asid bid : Nat) (xl : SMap Nat) (h : BitVec 512) (whole : Nat → Bool) (va : Nat) (upd : List (Nat × Byte)) :
    Except (BitVec 7) State :=
  let o := va - hBase h
  let k := shrinkOf s asid h o
  match blockFormat s asid h (o / 128) with
  | .error e => .error e
  | .ok (f, fresh) =>
    if fresh then
      let m := upd.foldl (fun m e => mapSet 0 m ((o + e.1) / k) e.2) (mapGet [] s.newEnc (bufKey asid bid))
      .ok { s with newEnc := mapSet [] s.newEnc (bufKey asid bid) m }
    else
      match bookRead s asid h f with
      | .error e => .error e
      | .ok _ => writePhys s whole (upd.map fun e => (through xl (hBase h + (o + e.1) / k), e.2))

/-- R310: any write into a key-value block takes its fingerprint out of the index: that of the block whose frame is written. -/
def dropFingerprint (s : State) (xl : SMap Nat) (va : Nat) : State :=
  if isKv va then
    let frame := through xl va / 4096 * 4096
    { s with blocks := s.blocks.map fun b => (b.1, if b.2.frame = frame then { b.2 with fp := none } else b.2) }
  else s

/-- R357: a stored byte of a unit, which has at most two pages, lies on a chip that is out of reach by now. -/
def unitAway (s : State) (xl : SMap Nat) (r : Nat × Nat) : Bool :=
  decide (r.2 ≠ 0) && ([r.1, r.1 + r.2 - 1].any fun a => noRoute s (chipOf (through xl a)))

/-- R311: the write goes into a block that two entries name by now, whatever the entry named when the chunk began. -/
def sharedFrame (s : State) (xl : SMap Nat) (va : Nat) : Bool :=
  isKv va && s.blocks.any fun b => decide (b.2.frame = through xl va / 4096 * 4096 ∧ 2 ≤ b.2.dref)

/-- Writes bytes of the unit at an address of device memory. `raw` writes stored bytes as they are; `whole` tells the
physical sectors that the chunk covers. -/
def writeUnit (s : State) (asid : Nat) (xl : SMap Nat) (raw : Bool) (theta : Nat) (whole : Nat → Bool) (va : Nat)
    (upd : List (Nat × Byte)) : Except (BitVec 7) (State × Bool) :=
  match plainBuffer s asid va with
  | some (bid, h) =>
    if !inUnits h then (writePhys s whole (upd.map fun e => (through xl (va + e.1), e.2))).map fun s => (s, false)
    else if raw then (writeRaw s asid bid xl h whole va upd).map fun s => (s, false)
    else writeCoded s asid bid xl h theta whole va upd
  | none =>
    (writePhys (dropFingerprint s xl va) whole (upd.map fun e => (through xl (va + e.1), e.2))).map fun s => (s, false)

end Sys2Proof.Machine
end

