-- ==== Sys2Proof/Machine/Records.lean ====
section
/-! DEFINITION. What the scheduler reads and writes in device memory outside a ferry: records, event rings, interrupts
(R133-R135, R340, R341, R378). -/
namespace Sys2Proof.Machine

/-! ## Device-virtual bytes, without page faults (R378) -/

/-- The pages of a device-virtual span, or the status that refuses it: no valid leaf, a foreign owner, an unreachable chip
(0x42). -/
def spanPages (s : State) (asid : Nat) : List Nat → Except (BitVec 7) (SMap Nat)
  | [] => .ok []
  | p :: ps =>
    let here : Except (BitVec 7) Nat :=
      if isKv (p * 4096) then
        match kvResolve s asid (p * 4096) with
        | some (_, b) => .ok (b.frame / 4096)
        | none => .error 0x42
      else
        match walkFrom s asid (p * 4096) with
        | .page phys bid _ =>
          if hOwnerB (headerOf s asid bid) = asid ∧ !noRoute s (chipOf phys) then .ok (phys / 4096) else .error 0x42
        | .none => .error 0x42
        | .bad st => .error st
    match here, spanPages s asid ps with
    | .ok x, .ok m => .ok (mapPut m p x)
    | .error e, _ => .error e
    | .ok _, .error e => .error e

/-- The 4 KiB pages of a span. -/
def pagesOf (va n : Nat) : List Nat := (List.range ((va % 4096 + n + 4095) / 4096)).map fun i => va / 4096 + i

/-- The pages that a span's bytes are stored in: those of the stored form where its buffer is coded (R294). -/
def storedPages (s : State) (asid va n : Nat) : List Nat :=
  match plainBuffer s asid va with
  | some (_, h) =>
    if inUnits h then
      let size := unitBytes h
      let units := (List.range ((va % size + n + size - 1) / size)).map fun i => va / size * size + i * size
      (units.flatMap fun u => let r := storedSpan s asid h u; pagesOf r.1 r.2).eraseDups
    else pagesOf va n
  | none => pagesOf va n

/-- Reads bytes as the buffer delivers them, unit by unit. -/
def readSpan (s : State) (asid : Nat) (xl : SMap Nat) : Nat → Nat → Except (BitVec 7) (List Byte)
  | _, 0 => .ok []
  | va, n + 1 =>
    let d := deliveredUnit s asid va
    let u := va / d.1 * d.1
    match readUnit s asid xl d.2 u, readSpan s asid xl (va + 1) n with
    | .ok bs, .ok rest => .ok ((bs[unitIndex s asid d.2 u va]?).getD 0 :: rest)
    | .error e, _ => .error e
    | .ok _, .error e => .error e

/-- R378: device-virtual bytes, or the status that refuses them. -/
def dvRead (s : State) (asid : Nat) (a : Word) (n : Nat) : Except (BitVec 7) (List Byte) :=
  match locOf a.toNat with
  | .dev va =>
    match spanPages s asid (storedPages s asid va n) with
    | .ok xl => readSpan s asid xl va n
    | .error e => .error e
  | _ => .error 0x42

/-- Bytes of one span as (unit, offset in it, byte). -/
def unitWrites (s : State) (asid va : Nat) (bs : List Byte) : List (Nat × Nat × Byte) :=
  bs.mapIdx fun i b =>
    let a := va + i
    let size := ((plainBuffer s asid a).map fun b => unitBytes b.2).getD 8
    (a / size * size, a % size, b)

/-- Writes units in turn. -/
def writeUnits (asid : Nat) (xl : SMap Nat) (whole : Nat → Bool) (ws : List (Nat × Nat × Byte)) :
    List Nat → State → Except (BitVec 7) State
  | [], s => .ok s
  | u :: us, s =>
    match writeUnit s asid xl false 0 whole u ((ws.filter fun e => e.1 = u).map fun e => e.2) with
    | .ok r => writeUnits asid xl whole ws us r.1
    | .error e => .error e

/-- Some page of a span refuses writes: W = 0, a sealed or immutable buffer, or a block that other entries share (R311; the
scheduler does not park, so such a write fails: DEDUCED, log 31). -/
def spanSealed (s : State) (asid : Nat) (ps : List Nat) : Bool :=
  ps.any fun p =>
    if isKv (p * 4096) then (kvResolve s asid (p * 4096)).any fun b => hImm b.2.hdr || decide (2 ≤ b.2.dref)
    else
      match walkFrom s asid (p * 4096) with
      | .page _ bid w => !w || hImm (headerOf s asid bid)
      | _ => false

/-- Writes device-virtual bytes; none where the write fails. -/
def dvWrite (s : State) (asid : Nat) (a : Word) (bs : List Byte) : Option State :=
  match locOf a.toNat with
  | .dev va =>
    match spanPages s asid (storedPages s asid va bs.length) with
    | .error _ => none
    | .ok xl =>
      if spanSealed s asid (storedPages s asid va bs.length) then none
      else
        let ws := unitWrites s asid va bs
        let whole := coversSector ((List.range bs.length).map fun i => through xl (va + i))
        match writeUnits asid xl whole ws (ws.map Prod.fst).eraseDups s with
        | .ok s => some s
        | .error _ => none
  | _ => none

/-- A write whose failure loses its bytes. -/
def dvPut (s : State) (asid : Nat) (a : Word) (bs : List Byte) : State := (dvWrite s asid a bs).getD s

/-! ## Completion records (R134) -/

/-- R134. -/
def completionBytes (time : Nat) (c : Completion) : List Byte :=
  let f := c.first
  natToBytes 8 time ++ natToBytes 8 c.id.toNat ++
    natToBytes 8 (c.kind + 2 ^ 8 * c.status.toNat + 2 ^ 16 * min c.faults 255 + 2 ^ 24 * (c.stream % 16)
      + 2 ^ 32 * ((f.map fun x => x.cause.toNat).getD 0) + 2 ^ 40 * ((f.map FirstFault.entry).getD 0)
      + 2 ^ 48 * ((f.map fun x => x.slots.toNat).getD 0)) ++
    natToBytes 8 ((f.map fun x => x.bundle.toNat).getD 0)

/-! ## Event rings (R135) -/

/-- R135: raises the ring's interrupt, which resets both triggers. -/
def ringSignal (s : State) (n : Nat) : State :=
  let r := ringOf s n
  { setRing s n { r with unsignalled := 0 } with outbox := s.outbox ++ [.msix r.port r.vector] }

/-- R135: the count trigger, or every record when both triggers are disabled. -/
def ringCount (s : State) (n : Nat) : State :=
  let r := ringOf s n
  if r.inten && (decide (r.count ≠ 0 ∧ r.count.toNat ≤ r.unsignalled) || decide (r.count = 0 ∧ r.time = 0 ∧ 0 < r.unsignalled))
  then ringSignal s n else s

/-- R135: the time trigger. -/
def ringDue (s : State) (r : Ring) : Bool :=
  r.inten && decide (r.time ≠ 0 ∧ 0 < r.unsignalled ∧ r.oldest + r.time.toNat ≤ s.gauge)

/-- R135: 2^size unconsumed records stand in the ring. -/
def ringFull (r : Ring) : Bool := decide (2 ^ r.size.toNat ≤ (r.prod - r.cons).toNat)

/-- R112, R134, R364: puts one record into a ring with room, with the step as its time; a launch's dependents may go on from then
on, and a checkpoint's slot is whole.
A ring that is then full sets ov. DEDUCED (log 38): an EBASE that is not 32-byte aligned is taken as it stands. -/
def ringPut (s : State) (n : Nat) (c : Completion) : State :=
  let r := ringOf s n
  let bs := completionBytes s.gauge c
  let at' := physOf s.chip.toNat ((r.base.toNat + 32 * (r.prod.toNat % 2 ^ r.size.toNat)) % 2 ^ 39)
  let s := { s with dram := writeBytes s.dram at' bs
                    badSectors := s.badSectors.filter fun x => x ≠ at' / 32
                    ckpts := s.ckpts.map fun k => if c.ckpt = some (k.gang, k.number) then { k with whole := true } else k
                    done := s.done ++ (c.dep.map fun d => (d.1, d.2, c.status)).toList }
  let r := { r with prod := r.prod + 1, unsignalled := r.unsignalled + 1,
                    oldest := if r.unsignalled = 0 then s.gauge else r.oldest }
  ringCount (setRing s n { r with ov := r.ov || ringFull r }) n

/-- R135: a full ring holds the record. -/
def ringWrite (s : State) (n : Nat) (c : Completion) : State :=
  let r := ringOf s n
  if ringFull r || !r.held.isEmpty then setRing s n { r with ov := true, held := r.held ++ [c] } else ringPut s n c

/-- R135: writes held records, oldest first, while there is room. -/
def ringDrain : Nat → Nat → State → State
  | 0, _, s => s
  | k + 1, n, s =>
    let r := ringOf s n
    match r.held with
    | [] => s
    | b :: bs => if ringFull r then s else ringDrain k n (ringPut (setRing s n { r with held := bs }) n b)

/-! ## Writing a completion record -/

/-- Writes a completion record to a ring. -/
def complete (s : State) (ring : Nat) (c : Completion) : State := ringWrite s ring c

/-- The ring of a stream (R104). -/
def streamRing (s : State) (n : Nat) : Nat := (streamOf s n).ring.toNat

/-! ## Occupancy (R133) -/

/-- R133: the block of one context. -/
def occBytes (occ : SMap OccRow) (f : OccFerry) : List Byte :=
  ((List.range 16).flatMap fun p =>
    let r : OccRow := mapGet {} occ p
    [r.issuing, r.stalled, r.parked, r.waiting, r.busyS, r.busyV, r.busyM, r.busyC].flatMap (natToBytes 8)) ++
  [f.commands, f.bytes, f.parks, f.waits, f.cancelled, 0, 0, 0].flatMap (natToBytes 8)

/-- R133: writes the blocks of a gang. The counts run on across an eviction, so each write adds to those carried over. -/
def occWrite (s : State) (g : Gang) (counts : List (SMap OccRow × OccFerry)) : State :=
  if g.occarea = 0 then s
  else
    (counts.mapIdx fun i o => (i, o)).foldl (fun s io =>
      dvPut s g.asid (g.occarea + word (1088 * io.1)) (occBytes io.2.1 io.2.2)) s

/-- The occupancy counts of a gang's entries while it holds its contexts. -/
def occNow (s : State) (g : Gang) : List (SMap OccRow × OccFerry) :=
  g.entries.map fun e => ((ctxOf s e.core e.ctx).occ, (ctxOf s e.core e.ctx).occF)

/-- R133: gauge steps that a context's commands, which wait in time-sorted buffers, have waited by now. -/
def waitedSo (s : State) (key : Nat) (e : Entry) : Nat :=
  ((s.ferries.flatMap fun f => f.2.cmds).filter fun c =>
    c.gang = key && c.core = e.core && c.ctx = e.ctx && decide (c.st = .waiting)).foldl (fun n c => n + (s.gauge - c.entryStep)) 0

/-- R133: the counts as they stand at an eviction, at which commands may go on to wait. -/
def occOut (s : State) (key : Nat) (g : Gang) : List (SMap OccRow × OccFerry) :=
  List.zipWith (fun e o => (o.1, { o.2 with waits := o.2.waits + waitedSo s key e })) g.entries (occNow s g)

/-! ## Fault records (R340-R342) -/

/-- The cause came from a ferry command and is not a missed counted line: its d0 holds a stamp word whose sequence number
is filled in at the record's write (R342). -/
def deferredStamp (s : State) (f : FaultInfo) : Word :=
  match f.batch with
  | none => f.d0
  | some (fe, kx, b) =>
    match (ferryOf s fe).stamps.find? fun e => e.1 = kx / 8 && e.2.1 = kx % 8 && e.2.2.1 = b with
    | some e => f.d0 ||| word (field e.2.2.2.toNat 0 56)
    | none => f.d0

/-- R342: a core-port conflict whose cycle has still to come as its record is written: the record gives the step in which it comes as
the core's clock stands (log 99). The core has not had its cycle of this step yet. -/
def contestDue (s : State) (k : Nat) (f : FaultInfo) : FaultInfo :=
  match f.contest with
  | some n => contestAt f (cycleStep s.mhz (coreOf s k) (n - (coreOf s k).cyc) (s.gauge - 1))
  | none => f

/-- R341: a fault record: the core, the faulted context's handle, its count of faults, and whether causes remain deferred. -/
def faultRecord (s : State) (k : Nat) (handle : Word) (nfault : BitVec 8) (pending : Bool) (f : FaultInfo) : List Byte :=
  let b (v : Bool) (n : Nat) := if v then 2 ^ n else 0
  natToBytes 8 f.step ++ natToBytes 8 (ispGlobal k f.bundle).toNat ++ natToBytes 8 handle.toNat ++
    [BitVec.ofNat 8 f.cause.toNat, BitVec.ofNat 8 (f.slots.toNat + b f.level 6),
     BitVec.ofNat 8 (b f.pinned 0 + b f.delay 1 + 4 * (f.loops % 8) + b pending 5 + b f.queued 6 + b f.ferry 7),
     BitVec.ofNat 8 nfault.toNat] ++
    natToBytes 4 (packLanes 4 f.lead) ++ natToBytes 8 f.tick.toNat ++ natToBytes 8 (deferredStamp s (contestDue s k f)).toNat ++
    natToBytes 8 f.d1.toNat ++ natToBytes 8 f.d2.toNat

/-- R341: the record of a context's fault. -/
def faultBytes (s : State) (k x : Nat) (f : FaultInfo) : List Byte :=
  let c := ctxOf s k x
  faultRecord s k (ctxHandle s k x) c.nfault (!c.deferred.isEmpty) f

/-- R340: the address of a context's fault-record slot. -/
def faultSlot (g : Gang) (idx : Nat) : Word := g.faultarea + word (64 * idx)

end Sys2Proof.Machine
end

