-- ==== Sys2Proof/Machine/Commands.lean ====
section
/-! DEFINITION. Ferry commands: entering a buffer, ending, batches, and the C-slot forms (R268-R289, R296, R301-R315). -/
namespace Sys2Proof.Machine

/-! ## Ferries and their entries (R268, R269) -/

/-- R268: the ferry of a core, by its global number cluster * 4 + ferry. -/
def ferryNo (core : Nat) : Nat := 4 * (core / 8) + core % 8 / 2

def cmdOf (s : State) (f id : Nat) : Option Cmd := (ferryOf s f).cmds.find? fun c => c.id = id
def modFerry (s : State) (f : Nat) (g : Ferry → Ferry) : State := setFerry s f (g (ferryOf s f))
def putCmd (s : State) (f : Nat) (c : Cmd) : State :=
  modFerry s f fun y => { y with cmds := y.cmds.map fun b => if b.id = c.id then c else b }

/-- R269: entries held and already entering. -/
def entriesHeld (f : Ferry) : Nat := f.cmds.length
def roomOf (f : Ferry) : Nat := 64 - entriesHeld f

/-- The eddy that a command is in. -/
def eddyOf (c : Cmd) : Option Nat :=
  match c.st with
  | .parked e _ _ _ => e
  | .held e _ => e
  | _ => none

/-- R276: free eddies of a ferry. -/
def eddiesFree (f : Ferry) : Nat := 16 - (f.cmds.filter fun c => (eddyOf c).isSome).length

/-- The lowest free eddy of a ferry (DESIGN CHOICE, log 74). -/
def freeEddy (f : Ferry) : Option Nat := (List.range 16).find? fun n => !f.cmds.any fun c => eddyOf c = some n

/-- The stream that a command holds; 4 is none. -/
def streamHeld (c : Cmd) : Nat :=
  match c.st with
  | .stream n => n
  | .parked none _ _ n => n
  | .held none n => n
  | _ => 4

/-- R288: FROOM's word. -/
def roomWord (s : State) (f : Nat) : Word :=
  word (roomOf (ferryOf s f) + 2 ^ 8 * eddiesFree (ferryOf s f) + 2 ^ 16 * (f % 4))

/-- The address space of a command (R291). DESIGN CHOICE (log 107): a gang keeps the ASID that its stream had at its admission. -/
def cmdAsid (s : State) (c : Cmd) : Nat := ((gangOf s c.gang).map Gang.asid).getD 0

/-- R283: the issuing context is still in the start in which it issued the command. -/
def inItsStart (s : State) (c : Cmd) : Bool :=
  let x := ctxOf s c.core c.ctx
  decide (ctxHandle s c.core c.ctx = c.handle) && decide (x.gang = some c.gang) &&
    (match x.life with
     | .retired => false
     | .idle => false
     | .free => false
     | _ => true)

/-- R133: the ferry counts of the entry that a command belongs to; after its gang's end they stand with the gang. -/
def modOccF (s : State) (c : Cmd) (f : OccFerry → OccFerry) : State :=
  if (ctxOf s c.core c.ctx).gang = some c.gang then modCtx s c.core c.ctx fun y => { y with occF := f y.occF }
  else
    modGang s c.gang fun g =>
      match g.entries.findIdx? fun e => e.core = c.core && e.ctx = c.ctx with
      | some i => { g with occEnd := g.occEnd.modify i fun o => (o.1, f o.2) }
      | none => g

/-! ## Ending a command (R269, R278) -/

/-- R326: a cause that may be raised in the context's mode: 0x51 only while it is pinned. -/
def mayRaise (pinned : Bool) (d : Deferred) : Bool := pinned || d.cause ≠ 0x51

/-- R339: a cause falls due; a parked context becomes ready to take it. -/
def deferCause (s : State) (k x : Nat) (d : Deferred) : State :=
  modCtx s k x fun c =>
    { c with deferred := c.deferred ++ [d]
             life := match c.life with
               | .parked w => if mayRaise c.pinCur d then .waking (s.gauge + 1) else .parked w
               | l => l }

/-- R342: d2 of a deferred ferry cause. -/
def cmdSite (c : Cmd) : Nat := c.bundle % 2 ^ 18 + (if c.slot = 5 then 2 ^ 18 else 0)

/-- R282: the step of the command's next line; a counted command issues at the step that its t names. -/
def lineStep (c : Cmd) : Nat := c.issueStep + shLand c.shape + c.line

/-- R283, R302, R342: the fault that a failed command leaves in its context. -/
def deferFailure (s : State) (f : Nat) (c : Cmd) (status : BitVec 7) : State :=
  if status = 0 ∨ !inItsStart s c then s
  else if status = 0x51 then
    deferCause s c.core c.ctx
      { cause := 0x51, ferry := true, step := min s.gauge (lineStep c), d0 := word (lineStep c), d1 := 1,
        d2 := word (c.bundle % 2 ^ 18 + 2 ^ 24 * c.line), batch := none }
  else if c.x then
    deferCause s c.core c.ctx
      { cause := status, ferry := true, step := s.gauge, d0 := word (2 ^ 63 + 2 ^ 56 * status.toNat),
        d1 := word (c.chunk % 2 ^ 32 + 2 ^ 32 * (c.idx % 2 ^ 32)), d2 := word (cmdSite c), batch := some (f, 8 * c.core + c.ctx, c.batch) }
  else s

/-- R212: the fill count, sequence number and tag of a destination tile when the last byte of a command into it has performed
(`ok`), or the command ends without that. The fields of a gang that is out stand with its saved tiles. -/
def endFill (ok : Bool) (c : Cmd) (s : State) (e : Nat × Nat) : State :=
  if (gangOf s c.gang).isNone then s
  else
    modCore s e.1 fun y =>
      let r := tileOf y e.2
      let n := r.fills - 1
      setTile y e.2
        { r with fills := n, seq := if ok then r.seq + 1 else r.seq, tag := if n = 0 then (if ok then 2 else 0) else r.tag }

/-- R314: the lqs entry of a failed FATOM arrives holding 0. -/
def endEntry (s : State) (c : Cmd) (ok : Bool) : State :=
  match c.lqEntry with
  | none => s
  | some id =>
    if ok then s
    else modCtx s c.core c.ctx fun y =>
      { y with lqs := y.lqs.map fun e => if e.id = id ∧ e.val.isNone then { e with val := some 0 } else e }

/-- R276, R298: a command leaves its stream for an eddy. A park is counted, and canopy is told of a page fault with the eddy. DESIGN CHOICE
(log 105): a command that is held (R303, R315) takes an eddy without a count in the occupancy block. -/
def takeEddy (s : State) (f n : Nat) (c : Cmd) : State :=
  match c.st with
  | .parked none cow a _ =>
    let s := putCmd s f { c with st := .parked (some n) cow a 4 }
    let s := modOccF s c fun y => { y with parks := y.parks + 1 }
    if cow then s else { s with outbox := s.outbox ++ [.pageFault (cmdAsid s c) (word a) f n] }
  | .held none _ => putCmd s f { c with st := .held (some n) 4 }
  | _ => s

/-- A command waits in its stream for an eddy. -/
def waitsEddy (c : Cmd) : Bool :=
  match c.st with
  | .parked none _ _ _ => true
  | .held none _ => true
  | _ => false

/-- The commands that wait for an eddy, by when they began to wait. -/
def eddyQueue (f : Ferry) : List Nat := (sortBy Cmd.waitSeq (f.cmds.filter waitsEddy)).map Cmd.id

/-- R268, R276: while an eddy is free, it takes the command that has waited longest for one in its stream. -/
def fillEddies (s : State) (f : Nat) : State :=
  (eddyQueue (ferryOf s f)).foldl (fun s id =>
    match freeEddy (ferryOf s f), cmdOf s f id with
    | some n, some c => takeEddy s f n c
    | _, _ => s) s

/-- R269: a command ends: performed (status 0), failed or cancelled. Its entry, stream and eddy are free, its status goes to
its batch, and what R212, R302, R283 and R314 say follows. -/
def finishCmd (s : State) (f id : Nat) (status : BitVec 7) : State :=
  match cmdOf s f id with
  | none => s
  | some c =>
    let s := modFerry s f fun y =>
      { y with
        cmds := y.cmds.filter fun b => b.id ≠ id
        fails := if status = 0 ∨ c.kind = .stamp then y.fails
                 else y.fails ++ [{ core := c.core, ctx := c.ctx, batch := c.batch, idx := c.idx, status := status,
                                    chunk := c.chunk }] }
    let s := fillEddies s f
    let s := c.tileFills.foldl (endFill false c) s
    let s := endEntry s c (status = 0)
    let s := if status = 0x46 then
        modOccF s c fun y => { y with cancelled := y.cancelled + 1 }
      else s
    deferFailure s f c status

/-- R133, R289: cancels a command that waits for its issue time; an FSTAMP still writes its stamp. -/
def cancelCmd (s : State) (f : Nat) (c : Cmd) : State :=
  let s := modOccF s c fun y => { y with waits := y.waits + (s.gauge - c.entryStep) }
  if c.kind = .stamp then
    let s := modOccF s c fun y => { y with cancelled := y.cancelled + 1 }
    putCmd s f { c with st := .issued, cancelled := true }
  else finishCmd s f c.id 0x46

/-- R121, R130, R289: cancels a command that waits for its issue time. One whose time has come, held by a barrier or by the one
issue of a step, is not waiting for it and performs; one that has not entered yet is judged when it enters (R120). -/
def cancelOne (s : State) (f : Nat) (c : Cmd) : State :=
  match c.st with
  | .entering => putCmd s f { c with cancelled := true }
  | .waiting => if s.gauge < c.issueStep then cancelCmd s f c else s
  | _ => s

/-- R121, R130: cancels the waiting commands that a test selects. -/
def cancelWhere (s : State) (sel : Cmd → Bool) : State :=
  s.ferries.foldl (fun s fe => fe.2.cmds.foldl (fun s c => if sel c then cancelOne s fe.1 c else s) s) s

/-! ## Entering (R269, R271, R212, R314) -/

/-- R212: the tiles that a copy from a destination address on reaches, as core and tile. -/
def tilesReached (b : Word) (sh : BitVec 256) : List (Nat × Nat) :=
  let touch (lo n : Nat) := rowsTouch b (shDpitch sh) sh lo (lo + n : Nat)
  let coreAt (k : Nat) := 2 * 2 ^ 60 + k * 2 ^ 20
  if touch (coreAt 0) (2 ^ 28) then
    ((List.range 256).filter fun k => touch (coreAt k) (2 ^ 20)).flatMap fun k =>
      ((List.range 32).filter fun t => touch (coreAt k + t * 2 ^ 15) (2 ^ 15)).map fun t => (k, t)
  else []

/-- R212: the tiles in which a command has its destination under a shape; the tile that its address names is always one. DESIGN CHOICE
(log 28): only FCOPY fills; an FQUANT or FDEDUP that names a tile ends with 0x06 and never counts. -/
def fillTargets (c : Cmd) (sh : BitVec 256) : List (Nat × Nat) :=
  match c.kind with
  | .copy =>
    let named := match locOf c.b.toNat with
      | .tile k t _ => [(k, t)]
      | _ => []
    named ++ (tilesReached c.b sh).filter fun e => !named.contains e
  | _ => []

/-- R212: a command counts as a pending fill of tiles. -/
def startFills (s : State) (ts : List (Nat × Nat)) : State :=
  ts.foldl (fun s e => modCore s e.1 fun y => setTile y e.2 { tileOf y e.2 with fills := (tileOf y e.2).fills + 1, tag := 1 }) s

/-- R271, R273: an earlier FSHAPE of the command's entry has not ended: the shape that the command takes is not yet known. -/
def shapeOpen (f : Ferry) (c : Cmd) : Bool :=
  f.cmds.any fun b => b.kind = .shape && b.core = c.core && b.ctx = c.ctx && b.e = c.e && decide (b.id < c.id)

/-- R212: the tiles in which a command that enters has its destination: under its context's entry as it stands, or, while an FSHAPE
ahead is to change that, the tile that its address names (log 28). -/
def entryTargets (s : State) (f : Nat) (c : Cmd) : List (Nat × Nat) :=
  let all := fillTargets c (mapGet 0 (ctxOf s c.core c.ctx).shapes c.e)
  if shapeOpen (ferryOf s f) c then all.take (match locOf c.b.toNat with | .tile _ _ _ => 1 | _ => 0) else all

/-- A command enters its ferry's buffer. -/
def enterCmd (s : State) (f : Nat) (c : Cmd) : State :=
  let entry := s.gauge
  -- t names a value of the 64-bit gauge (R317)
  let t := entry / 2 ^ 64 * 2 ^ 64 + c.t.toNat
  let c' : Cmd := { c with st := .waiting, entryStep := entry, issueStep := max entry t, cancelled := false, order := s.seq,
                           onTime := decide (c.t ≠ 0 ∧ entry ≤ t),
                           tileFills := entryTargets s f c }
  let s := putCmd { s with seq := s.seq + 1 } f c'
  let s := modOccF s c fun y => { y with commands := y.commands + 1 }
  let s := startFills s c'.tileFills
  let s := if c.kind = .stamp then
      modFerry s f fun y => { y with stamps := y.stamps ++ [(c.core, c.ctx, c.batch, c.b)] }
    else s
  if c.cancelled ∧ entry < c'.issueStep then cancelCmd s f c'
  else if c.kind = .atom ∧ inItsStart s c then
    if 32 ≤ (ctxOf s c.core c.ctx).lqs.length then finishCmd s f c.id 0x35
    else
      let s := modCtx s c.core c.ctx fun y => { y with lqs := y.lqs ++ [{ id := c.id, ferry := true }] }
      putCmd s f { c' with lqEntry := some c.id }
  else s

/-- The commands whose entry step has come: two gauge steps after a pinned slot's issue, two cycles after an elastic one's. -/
def enterDue (s : State) (sel : Cmd → Bool) : State :=
  s.ferries.foldl (fun s fe => fe.2.cmds.foldl (fun s c => if c.st = .entering && sel c then enterCmd s fe.1 c else s) s) s

/-- At the start of a gauge step. -/
def enterPinned (s : State) : State := enterDue s fun c => c.pinned && decide (c.entryStep ≤ s.gauge)

/-- At the start of a core's cycle. -/
def enterElastic (s : State) (k : Nat) : State :=
  enterDue s fun c => !c.pinned && decide (c.core = k) && decide (c.enterCyc ≤ (coreOf s k).cyc)

/-! ## The C-slot forms -/

/-- R269: the instruction gives the ferry a command. -/
def givesCmd (i : Instr) : Bool :=
  match i with
  | .fcopy _ _ _ _ _ _ => true
  | .fshape _ _ _ _ => true
  | .fstamp _ _ _ _ => true
  | .fquant _ _ _ _ _ _ => true
  | .fdedup _ _ _ _ _ _ _ => true
  | .falloc _ _ _ _ _ _ _ => true
  | .ffree _ _ _ _ _ _ => true
  | .fatom _ _ _ _ _ _ _ => true
  | .fmtag _ _ _ _ _ => true
  | .fkvmap _ _ _ _ _ _ => true
  | .fcard _ _ _ _ => true
  | .fsum _ _ _ _ _ _ => true
  | _ => false

/-- R73, R269: a reserved space in an address is 0x06 in the slot; a full buffer is 0x41. DESIGN CHOICE (log 79): where both hold,
0x06 is raised; no rule orders the two. DEDUCED (log 96): C1's command waits in its slot until C0's of the same bundle has gone. -/
def cmdPre (s : State) (sl : CSlot) (addrs : List Word) : Pre :=
  let f := ferryNo s.cur.core
  if behindC0 s sl.slot givesCmd then .wait s
  else if addrs.any fun a => 4 ≤ a.toNat / 2 ^ 60 then .fault 0x06 0 0 0
  else if roomOf (ferryOf s f) = 0 then .fault 0x41 (word (f % 4)) (roomWord s f) 0
  else .ok

/-- A command of the issuing slot. -/
def newCmd (s : State) (sl : CSlot) (kind : CmdKind) (t a b : Word) (e : Nat) (x : Bool) : Cmd :=
  let c := curCtx s
  { id := s.seq, kind := kind, core := s.cur.core, ctx := s.cur.ctx, handle := ctxHandle s s.cur.core s.cur.ctx,
    gang := c.gang.getD 0, slot := sl.slot.idx, bundle := s.cur.addr, pos := s.cur.pos, pinned := (curCore s).pinned,
    t := t, a := a, b := b, e := e, x := x, enterCyc := (curCore s).cyc + 2, entryStep := s.gauge + 2, issueStep := 0,
    onTime := false, batch := c.batch, idx := c.batchIdx, st := .entering, shape := 0, chunk := 0, line := 0, toRead := [],
    toWrite := [], buf := [], started := false, xlat := [], cancelled := false, touched := [], tileFills := [], order := 0,
    waitSeq := 0, liveHalves := [], ending := none, block := none, waitFor := [], lqEntry := none, crc := 0xFFFFFFFF }

/-- R269, R278: the slot hands its command to its ferry and counts it in the batch; an FSTAMP closes the batch. -/
def giveCmd (s : State) (sl : CSlot) (kind : CmdKind) (t a b : Word) (e : Nat) (x : Bool) : State :=
  let c := newCmd s sl kind t a b e x
  let s := modFerry s (ferryNo s.cur.core) fun y => { y with cmds := y.cmds ++ [c] }
  let s := modCurCtx s fun y =>
    if kind = .stamp then { y with batch := y.batch + 1, batchIdx := 0 } else { y with batchIdx := y.batchIdx + 1 }
  { s with seq := s.seq + 1 }

/-- The value of a register field at issue. -/
def sval (s : State) (a : BitVec 5) : Word := sregOf (curCtx s) a.toNat

/-- R274. -/
def execFcopy (sl : CSlot) (g : BitVec 4) (t a b e : BitVec 5) (s : State) : Host.Outcome State Fault Refusal :=
  runSlot (.fcopy sl g t a b e) sl.slot s (fun s => cmdPre s sl [sval s a, sval s b]) fun s =>
    giveCmd s sl .copy (sval s t) (sval s a) (sval s b) e.toNat false

/-- R273: issue time now. -/
def execFshape (sl : CSlot) (g : BitVec 4) (a e : BitVec 5) (s : State) : Host.Outcome State Fault Refusal :=
  runSlot (.fshape sl g a e) sl.slot s (fun s => cmdPre s sl [sval s a]) fun s =>
    giveCmd s sl .shape 0 (sval s a) 0 e.toNat false

/-- R278. -/
def execFstamp (sl : CSlot) (g : BitVec 4) (a b : BitVec 5) (s : State) : Host.Outcome State Fault Refusal :=
  runSlot (.fstamp sl g a b) sl.slot s (fun s => cmdPre s sl [sval s a]) fun s =>
    giveCmd s sl .stamp 0 (sval s a) (sval s b) 0 false

/-- R285. -/
def execFquant (sl : CSlot) (g : BitVec 4) (t a b e : BitVec 5) (s : State) : Host.Outcome State Fault Refusal :=
  runSlot (.fquant sl g t a b e) sl.slot s (fun s => cmdPre s sl [sval s a, sval s b]) fun s =>
    giveCmd s sl .quant (sval s t) (sval s a) (sval s b) e.toNat false

/-- R310. -/
def execFdedup (sl : CSlot) (g : BitVec 4) (t a b e : BitVec 5) (x : BitVec 1) (s : State) :
    Host.Outcome State Fault Refusal :=
  runSlot (.fdedup sl g t a b e x) sl.slot s (fun s => cmdPre s sl [sval s a, sval s b]) fun s =>
    giveCmd s sl .dedup (sval s t) (sval s a) (sval s b) e.toNat (x == 1)

/-- R307. -/
def execFalloc (sl : CSlot) (g : BitVec 4) (t a b c : BitVec 5) (x : BitVec 1) (s : State) :
    Host.Outcome State Fault Refusal :=
  runSlot (.falloc sl g t a b c x) sl.slot s (fun s => cmdPre s sl [sval s a, sval s b]) fun s =>
    giveCmd s sl .alloc (sval s t) (sval s a) (sval s b) c.toNat (x == 1)

/-- R307. -/
def execFfree (sl : CSlot) (g : BitVec 4) (t a b : BitVec 5) (x : BitVec 1) (s : State) :
    Host.Outcome State Fault Refusal :=
  runSlot (.ffree sl g t a b x) sl.slot s (fun s => cmdPre s sl [sval s a, sval s b]) fun s =>
    giveCmd s sl .free (sval s t) (sval s a) (sval s b) 0 (x == 1)

/-- R314. -/
def execFatom (sl : CSlot) (g : BitVec 4) (t a b o : BitVec 5) (x : BitVec 1) (s : State) :
    Host.Outcome State Fault Refusal :=
  runSlot (.fatom sl g t a b o x) sl.slot s (fun s => cmdPre s sl [sval s a]) fun s =>
    giveCmd s sl .atom (sval s t) (sval s a) (sval s b) o.toNat (x == 1)

/-- R315. -/
def execFmtag (sl : CSlot) (g : BitVec 4) (t a b : BitVec 5) (s : State) : Host.Outcome State Fault Refusal :=
  runSlot (.fmtag sl g t a b) sl.slot s (fun s => cmdPre s sl [sval s a]) fun s =>
    giveCmd s sl .mtag (sval s t) (sval s a) (sval s b) 0 false

/-- R301. -/
def execFkvmap (sl : CSlot) (g : BitVec 4) (t a b : BitVec 5) (x : BitVec 1) (s : State) :
    Host.Outcome State Fault Refusal :=
  runSlot (.fkvmap sl g t a b x) sl.slot s (fun s => cmdPre s sl [sval s a]) fun s =>
    giveCmd s sl .kvmap (sval s t) (sval s a) (sval s b) 0 (x == 1)

/-- R287. -/
def execFcard (sl : CSlot) (g : BitVec 4) (t a : BitVec 5) (s : State) : Host.Outcome State Fault Refusal :=
  runSlot (.fcard sl g t a) sl.slot s (fun s => cmdPre s sl [sval s a]) fun s =>
    giveCmd s sl .card (sval s t) (sval s a) 0 0 false

/-- R286. -/
def execFsum (sl : CSlot) (g : BitVec 4) (t a b e : BitVec 5) (s : State) : Host.Outcome State Fault Refusal :=
  runSlot (.fsum sl g t a b e) sl.slot s (fun s => cmdPre s sl [sval s a, sval s b]) fun s =>
    giveCmd s sl .sum (sval s t) (sval s a) (sval s b) e.toNat false

/-- R288: the room as counted at issue, in s[d] at issue+4. -/
def execFroom (sl : CSlot) (g : BitVec 4) (d : BitVec 5) (s : State) : Host.Outcome State Fault Refusal :=
  runSlot (.froom sl g d) sl.slot s noPre fun s => pushS s sl.slot 4 d (roomWord s (ferryNo s.cur.core))

end Sys2Proof.Machine
end

