-- ==== Sys2Proof/Machine/Scratch.lean ====
section
/-! DEFINITION. Scratchpad accesses of the C slots, their checks, bank cycles and grants; address steps
(R210, R246-R256). -/
namespace Sys2Proof.Machine

/-! ## Addresses and checks (R246, R247) -/

/-- R246: the core of the issuing core's cluster that a scratchpad address names. -/
def spadTarget (k : Nat) (a : Word) : Nat := 8 * (k / 8) + field a.toNat 19 3
def spadOff (a : Word) : Nat := field a.toNat 0 19
def bankOf (off : Nat) : Nat := field off 9 4
/-- R246, R342: the address of a byte of the core that an address names. -/
def spadByte (a : Word) (off : Nat) : Nat := 2 ^ 19 * field a.toNat 19 3 + off

/-- R247: every byte lies in a range that the launch grants, on the target core, to a context of the gang. -/
def gangGrants (s : State) (g : Option Nat) (target off n : Nat) : Bool :=
  match g.bind (gangOf s) with
  | some y => (List.range n).all fun i => y.entries.any fun e => e.core = target && decide (e.lo ≤ off + i) && decide (off + i ≤ e.hi)
  | none => false

/-- R247, rows 1 to 3. -/
def addrPre (s : State) (a : Word) (n : Nat) : Pre :=
  if a.toNat / 2 ^ 22 ≠ 0 then .fault 0x33 a 0 0
  else if a.toNat % n ≠ 0 then .fault 0x06 0 0 0
  else if !gangGrants s (curCtx s).gang (spadTarget s.cur.core a) (spadOff a) n then .fault 0x33 a 0 0
  else .ok

def isLocal (s : State) (a : Word) : Bool := spadTarget s.cur.core a = s.cur.core

/-- R249: the access waits for a grant of the peer port. -/
def byGrant (s : State) (a : Word) : Bool := !isLocal s a && !(curCore s).pinned

/-- R249: the reservation that already holds the access's bank cycle. -/
def bankHolder (s : State) (a : Word) : Option Resv :=
  let loc := isLocal s a
  let at' := if loc then (curCore s).cyc + 3 else s.gauge + 10
  (coreOf s (spadTarget s.cur.core a)).resv.find? fun r =>
    r.bank = bankOf (spadOff a) && r.peer = !loc && (if loc then r.cyc else r.step) = at'

/-- R247 row 4, R342: a conflict names the bank, the port, the step and the holder. -/
def bankPre (s : State) (a : Word) : Pre :=
  if byGrant s a then .ok
  else
    match bankHolder s a with
    | none => .ok
    | some r =>
      .fault 0x31
        (word (spadTarget s.cur.core a + 2 ^ 8 * bankOf (spadOff a) + (if isLocal s a then 0 else 2 ^ 12)
          + 2 ^ 24 * (r.step % 2 ^ 40)))
        r.holder (word (r.bundle % 2 ^ 18 + 2 ^ 18 * r.slot))

/-- Bytes that an access writes. -/
def accBytes (a : Access) : Nat :=
  match a.kind with
  | .store bs => bs.length
  | .atom _ _ n _ _ => n
  | .loadS _ n => n
  | .loadV _ => 512
  | .tileLoad _ _ => 128

/-- R257: in debug pending-bit mode a read of a scratchpad byte that a store or ATOM of the core has still to write. -/
def spadPendingPre (s : State) (a : Word) (n : Nat) : Pre :=
  let hit := (curCore s).accs.find? fun b =>
    isWrite b && !isRequest b && b.target = spadTarget s.cur.core a && decide (b.off < spadOff a + n)
      && decide (spadOff a < b.off + accBytes b)
  match (curCore s).debug, hit with
  | true, some b => .fault 0x34 (word (7 + 256 * spadByte a (max b.off (spadOff a)))) 0 0
  | _, _ => .ok

/-! ## Issuing an access (R249, R250) -/

/-- R250: when an access of the issuing core acts on its bank. -/
def accDue (s : State) (a : Word) : AccDue :=
  if isLocal s a then .cycle ((curCore s).cyc + 3)
  else if (curCore s).pinned then .step (s.gauge + 10)
  else .grant

/-- An access of the issuing slot. -/
def mkAccess (s : State) (sl : Slot) (a : Word) (due : AccDue) (kind : AccKind) : Access :=
  { seq := s.seq, ctx := s.cur.ctx, pos := s.cur.pos, slot := sl.idx, bundle := s.cur.addr,
    target := spadTarget s.cur.core a, off := spadOff a, due := due, late := byGrant s a, land := none, kind := kind }

/-- The step of the issuing core's third cycle from now: a pinned core has one in every step (R320). -/
def thirdStep (s : State) : Nat :=
  cycleStep s.mhz (curCore s) 3 s.gauge

/-- R249: reserves the bank cycle of an access whose cycle is known. -/
def reserve (s : State) (x : Access) (holder : Word) : State :=
  let r (peer : Bool) (c st : Nat) : Resv :=
    { bank := bankOf x.off, peer := peer, cyc := c, step := st, holder := holder, bundle := x.bundle, slot := x.slot }
  match x.due with
  | .cycle c => modCore s x.target fun k => { k with resv := k.resv ++ [r false c (thirdStep s)] }
  | .step g => modCore s x.target fun k => { k with resv := k.resv ++ [r true 0 g] }
  | .grant => s

/-- The first step from one on at which a bank's peer port is free. -/
def firstFree (rs : List Resv) (bank : Nat) : Nat → Nat → Nat
  | 0, g => g
  | n + 1, g => if rs.any fun r => r.peer && r.bank = bank && r.step = g then firstFree rs bank n (g + 1) else g

/-- The step that an access performs in, once its port has granted one. -/
def stepOfAcc (b : Access) : Option Nat :=
  match b.due with
  | .step g => some g
  | _ => none

/-- Place of an access in its context's program. -/
def progKey (a : Access) : Nat := 8 * a.pos + a.slot

/-- A TLROW or ATOM that has waited in its slot for its release, or still does. -/
def isReleased (a : Access) : Bool :=
  a.land.isSome &&
    (match a.kind with
     | .atom _ _ _ _ _ => true
     | .tileLoad _ _ => true
     | _ => false)

/-- R251, R330: what an access of a context may not overtake at a target core: what was issued before it. Against a TLROW or
ATOM that waits in its slot, or has waited there, the place in the program counts (log 21). -/
def earlierAccs (c : CoreSt) (a : Access) : List Access :=
  c.accs.filter fun b => b.ctx = a.ctx && b.target = a.target && b.seq ≠ a.seq &&
    (if isRequest b || isReleased b then decide (progKey b < progKey a) else decide (b.seq < a.seq))

/-- R249: a peer port gives a waiting access the first free step, from one on, that keeps the order of its context's accesses
to that core. -/
def grantStep (s : State) (core first : Nat) (a : Access) : State :=
  let rs := (coreOf s a.target).resv
  let from' := (earlierAccs (coreOf s core) a).foldl (fun g b => max g ((stepOfAcc b).getD 0)) first
  let g := firstFree rs (bankOf a.off) (rs.length + 1) from'
  let s := modCore s core fun c => { c with accs := c.accs.map fun b => if b.seq = a.seq then { b with due := .step g } else b }
  reserve s { a with due := .step g } (ctxHandle s core a.ctx)

/-- R251, R330: as a pinned access to a peer takes its step, the earlier ones of its context to that core that still wait
for theirs are granted other ones. -/
def grantEarlier (s : State) (x : Access) : State :=
  match x.due with
  | .step _ =>
    ((curCore s).accs.filter fun b => b.ctx = x.ctx && b.target = x.target && b.due = .grant && !isRequest b).foldl
      (fun s b => grantStep s s.cur.core (s.gauge + 1) b) s
  | _ => s

/-- Puts an access in flight. -/
def putAccess (s : State) (sl : Slot) (a : Word) (kind : AccKind) : State :=
  let x := mkAccess s sl a (accDue s a) kind
  let s := grantEarlier (reserve s x (ctxHandle s s.cur.core s.cur.ctx)) x
  { modCurCore s (fun c => { c with accs := c.accs ++ [x] }) with seq := s.seq + 1 }

/-- A request of the issuing slot at this bundle for an address. -/
def myRequest (s : State) (sl : Slot) (a : Word) (b : Access) : Bool :=
  isRequest b && b.ctx = s.cur.ctx && b.slot = sl.idx && b.pos = s.cur.pos && b.target = spadTarget s.cur.core a
    && b.off = spadOff a

/-- R210, R255: the step of the peer port that a release in this cycle needs: that of the core's third cycle from now. -/
def releaseStep (s : State) : Nat := thirdStep s

/-- R249, R251, R330: the port is free in that step, and the order of the context's accesses to that core is kept. -/
def releaseFree (s : State) (b : Access) : Bool :=
  let g := releaseStep s
  !((coreOf s b.target).resv.any fun r => r.peer && r.bank = bankOf b.off && r.step = g) &&
    (curCore s).accs.all fun e =>
      !(e.ctx = b.ctx && e.target = b.target && e.seq ≠ b.seq) ||
        (match stepOfAcc e with
         | some h => decide (h ≤ g)
         | none => decide (progKey b < progKey e))

/-- R210, R255: an elastic peer TLROW or ATOM waits in its slot until the port, which its request has reached, grants it the
step of its third cycle from now. A request for another address than the register now holds gives way to a new one. -/
def releasePre (s : State) (sl : Slot) (a : Word) (kind : AccKind) : Pre :=
  match (curCore s).accs.find? (myRequest s sl a) with
  | some b => if b.land.isSome && releaseFree s b then .ok else .wait s
  | none =>
    let s := dropRequests s s.cur.core s.cur.ctx (fun i => i = sl.idx)
    let x := mkAccess s sl a .grant kind
    .wait { modCurCore s (fun c => { c with accs := c.accs ++ [x] }) with seq := s.seq + 1 }

/-- A released TLROW or ATOM performs in the step that the port has granted, which it reserves; its result lands as a local
one counted from the release. -/
def putReleased (s : State) (sl : Slot) (a : Word) (kind : AccKind) : State :=
  let s := dropRequests s s.cur.core s.cur.ctx (fun i => i = sl.idx)
  let lat := match kind with
    | .tileLoad _ _ => 8
    | _ => 7
  let x := { mkAccess s sl a (.step (releaseStep s)) kind with late := false, land := some ((curCore s).cyc + lat) }
  let s := modCurCore s fun c => { c with accs := c.accs ++ [x] }
  { reserve s x (ctxHandle s s.cur.core s.cur.ctx) with seq := s.seq + 1 }

/-- R210, R255, R257: what follows the address checks of an ATOM or TLROW: it reads its bytes at issue, which for an elastic
peer is its release, so while it waits for that nothing is read. -/
def readWritePre (s : State) (sl : Slot) (a : Word) (n : Nat) (kind : AccKind) : Pre :=
  if byGrant s a then (releasePre s sl a kind).andThen (spadPendingPre s a n)
  else (spadPendingPre s a n).andThen (bankPre s a)

/-- R255: an ATOM or TLROW, in its own way for an elastic peer. -/
def putReadWrite (s : State) (sl : Slot) (a : Word) (kind : AccKind) : State :=
  if byGrant s a then putReleased s sl a kind else putAccess s sl a kind

/-! ## Loads and stores (R252, R254) -/

/-- R254: the address of a MEM form: s[a] plus the offset in units. -/
def memAddr (s : State) (a : BitVec 5) (o : BitVec 9) (n : Nat) : Word :=
  sregOf (curCtx s) a.toNat + sext64 o * word n

/-- R252: a push that would make too many outstanding entries. -/
def queuePre (q : List LqEntry) (cap vec : Nat) : Pre :=
  if cap ≤ q.length then .fault 0x35 (word (vec + 256 * q.length)) 0 0 else .ok

/-- R254: the checks of a load: those of R247, then those of the push. DESIGN CHOICE (log 83): a pending byte's 0x34 comes after
R247's 0x33 and 0x06 and before its 0x31 and the push's 0x35. -/
def loadPre (s : State) (a : Word) (n : Nat) (q : List LqEntry) (cap vec : Nat) : Pre :=
  (addrPre s a n).andThen ((spadPendingPre s a n).andThen ((bankPre s a).andThen (queuePre q cap vec)))

/-- R254. -/
def execLda (sl : CSlot) (g : BitVec 4) (a : BitVec 5) (w : BitVec 2) (o : BitVec 9) (s : State) :
    Host.Outcome State Fault Refusal :=
  let n := 2 ^ w.toNat
  runSlot (.lda sl g a w o) sl.slot s
    (fun s => loadPre s (memAddr s a o n) n (curCtx s).lqs 32 0)
    fun s =>
      let id := s.seq
      putAccess (modCurCtx s fun c => { c with lqs := c.lqs ++ [{ id := id }] }) sl.slot (memAddr s a o n) (.loadS id n)

/-- R254. -/
def execVlda (sl : CSlot) (g : BitVec 4) (a : BitVec 5) (o : BitVec 9) (s : State) : Host.Outcome State Fault Refusal :=
  runSlot (.vlda sl g a o) sl.slot s
    (fun s => loadPre s (memAddr s a o 512) 512 (curCtx s).lqv 16 1)
    fun s =>
      let id := s.seq
      putAccess (modCurCtx s fun c => { c with lqv := c.lqv ++ [{ id := id }] }) sl.slot (memAddr s a o 512) (.loadV id)

/-- R254: the low bytes of s[d] as read at issue. -/
def execSt (sl : CSlot) (g : BitVec 4) (d a : BitVec 5) (w : BitVec 2) (o : BitVec 9) (s : State) :
    Host.Outcome State Fault Refusal :=
  let n := 2 ^ w.toNat
  runSlot (.st sl g d a w o) sl.slot s
    (fun s => (addrPre s (memAddr s a o n) n).andThen (bankPre s (memAddr s a o n)))
    fun s => putAccess s sl.slot (memAddr s a o n) (.store (natToBytes n (sregOf (curCtx s) d.toNat).toNat))

/-- R254: all of v[d] as read at issue. -/
def execVst (sl : CSlot) (g : BitVec 4) (d a : BitVec 5) (o : BitVec 9) (s : State) :
    Host.Outcome State Fault Refusal :=
  runSlot (.vst sl g d a o) sl.slot s
    (fun s => (addrPre s (memAddr s a o 512) 512).andThen (bankPre s (memAddr s a o 512)))
    fun s => putAccess s sl.slot (memAddr s a o 512) (.store (natToBytes 512 (vregOf (curCtx s) d.toNat).toNat))

/-! ## Tile lines (R210) -/

/-- R210. -/
def execTlrow (sl : CSlot) (g : BitVec 4) (t a : BitVec 5) (n : BitVec 8) (s : State) :
    Host.Outcome State Fault Refusal :=
  let kind : AccKind := .tileLoad t.toNat n.toNat
  runSlot (.tlrow sl g t a n) sl.slot s
    (fun s =>
      let x := sregOf (curCtx s) a.toNat
      (addrPre s x 128).andThen (readWritePre s sl.slot x 128 kind))
    fun s => putReadWrite s sl.slot (sregOf (curCtx s) a.toNat) kind

/-- R210: the line as visible at issue. -/
def execTsrow (sl : CSlot) (g : BitVec 4) (t a : BitVec 5) (n : BitVec 8) (s : State) :
    Host.Outcome State Fault Refusal :=
  runSlot (.tsrow sl g t a n) sl.slot s
    (fun s => (addrPre s (sregOf (curCtx s) a.toNat) 128).andThen (bankPre s (sregOf (curCtx s) a.toNat)))
    fun s => putAccess s sl.slot (sregOf (curCtx s) a.toNat)
      (.store (tileRead (tileOf (curCore s) t.toNat).bytes (128 * n.toNat) 128))

/-! ## Read-modify-write and address steps (R255, R256) -/

/-- R255. -/
def execAtom (sl : CSlot) (g : BitVec 4) (d a b : BitVec 5) (o : BitVec 3) (u : BitVec 1) (w : BitVec 2) (s : State) :
    Host.Outcome State Fault Refusal :=
  let n := 2 ^ w.toNat
  let kind (s : State) : AccKind := .atom o (u == 1) n (sregOf (curCtx s) b.toNat) d.toNat
  runSlot (.atom sl g d a b o u w) sl.slot s
    (fun s =>
      let x := sregOf (curCtx s) a.toNat
      (addrPre s x n).andThen (readWritePre s sl.slot x n (kind s)))
    fun s => putReadWrite s sl.slot (sregOf (curCtx s) a.toNat) (kind s)

/-- R256. -/
def execAupd (sl : CSlot) (g : BitVec 4) (d : BitVec 5) (i : BitVec 11) (s : State) :
    Host.Outcome State Fault Refusal :=
  runSlot (.aupd sl g d i) sl.slot s noPre fun s => pushS s sl.slot 1 d (sregOf (curCtx s) d.toNat + sext64 i)

/-- R256. -/
def execAupds (sl : CSlot) (g : BitVec 4) (d a : BitVec 5) (s : State) : Host.Outcome State Fault Refusal :=
  runSlot (.aupds sl g d a) sl.slot s noPre fun s =>
    pushS s sl.slot 1 d (sregOf (curCtx s) d.toNat + sregOf (curCtx s) a.toNat)

/-! ## Grants of a peer port to an elastic requester (R249, R251, R253, R255) -/

/-- R249, R253, R255: a peer port serves a waiting elastic access. When its request arrives is a free choice: a nonzero
choice leaves it for a later step, until its core has gone over to the gauge. A load or store is then granted its step, unless it would overtake an earlier access of
its context to that core; a TLROW or ATOM waits in its slot for its release. -/
def execPeerGrant (core access : Nat) (s : State) : Host.Outcome State Fault Refusal :=
  let c := coreOf s core
  match c.accs.find? fun a => a.seq = access && a.due = .grant && a.land.isNone with
  | none => .next s
  | some a =>
    let d := draw s
    let s := d.2
    if d.1 ≠ 0 ∧ !c.pinned then .next s
    else if isRequest a then
      .next (modCore s core fun c => { c with accs := c.accs.map fun b => if b.seq = access then { b with land := some c.cyc } else b })
    else if (earlierAccs (coreOf s core) a).any fun b => (stepOfAcc b).isNone then .next s
    else .next (grantStep s core s.gauge a)

end Sys2Proof.Machine
end

