-- ==== Sys2Proof/Machine/Chunks.lean ====
section
/-! DEFINITION. How a ferry reaches bytes: shapes, checks, translation, chunks read and written unit by unit
(R270, R272, R275-R277, R284, R298, R311, R327-R330). -/
namespace Sys2Proof.Machine

/-! ## Shapes (R272) -/

/-- R272: the ranges that every command asks of a shape. -/
def shapeBasic (h : BitVec 256) : Bool :=
  decide (1 ≤ shRow h ∧ shRow h ≤ 2 ^ 24 ∧ 1 ≤ shRows h ∧ shRows h ≤ 2 ^ 20) &&
  decide (shLand h = 0 ∨ 16 ≤ shLand h) &&
  decide (field h.toNat 216 8 = 0 ∧ field h.toNat 240 16 = 0) &&
  decide (shTheta h < 0x7F80)

/-- R272, R285: a shape that is legal for FQUANT. -/
def shapeQuant (h : BitVec 256) : Bool :=
  shapeBasic h && decide (shCodec h = 1 ∨ shCodec h = 2) && decide (shRow h % 128 = 0) &&
    decide (shRows h = 1 ∨ field h.toNat 128 64 % 128 = 0)

/-- R272: a shape that is legal for a copying command. -/
def shapeCopy (h : BitVec 256) : Bool := shapeBasic h && decide (shCodec h = 0)

/-- R273: a record that is legal for at least one command. -/
def shapeLegal (h : BitVec 256) : Bool := shapeBasic h && decide (shCodec h ≤ 2)

/-- R272, R310: the shape is legal for the command. -/
def shapeFor (k : CmdKind) (h : BitVec 256) : Bool :=
  match k with
  | .copy => shapeCopy h
  | .sum => shapeCopy h
  | .quant => shapeQuant h
  | .dedup => shapeCopy h && decide (shRow h * shRows h = 4096)
  | _ => true

/-- The kinds that move a block. -/
def hasShape (k : CmdKind) : Bool :=
  match k with
  | .copy => true
  | .sum => true
  | .quant => true
  | .dedup => true
  | _ => false

/-- The shape under which a command performs: one that has not issued takes its context's entry as it stands. -/
def shapeNow (s : State) (c : Cmd) : BitVec 256 :=
  if cmdIssued c ∨ !hasShape c.kind then c.shape else mapGet 0 (ctxOf s c.core c.ctx).shapes c.e

/-- R272: an address with a pitch applied, modulo 2^64. -/
def rowAddr (a : Word) (pitch : Int) (r i : Nat) : Nat := ofInt 64 ((a.toNat : Int) + r * pitch + i)

/-- Source and destination of block byte p. -/
def srcAt (c : Cmd) (p : Nat) : Nat := rowAddr c.a (shSpitch c.shape) (p / shRow c.shape) (p % shRow c.shape)
def dstAt (c : Cmd) (p : Nat) : Nat := rowAddr c.b (shDpitch c.shape) (p / shRow c.shape) (p % shRow c.shape)

def blockLen (c : Cmd) : Nat := shRow c.shape * shRows c.shape

/-- R275: the block bytes of the current chunk. -/
def chunkBytes (c : Cmd) : List Nat :=
  (List.range (min 4096 (blockLen c - 4096 * c.chunk))).map fun i => 4096 * c.chunk + i

/-- R275: the command's last chunk has performed. -/
def chunksDone (c : Cmd) : Bool := decide (blockLen c ≤ 4096 * c.chunk)

/-! ## One access of a command -/

/-- What an access of a command meets (R270, R276, R298, R311). -/
inductive Try (α : Type) where
  | ok (v : α)
  /-- a page fault or a copy-on-write fault at an address -/
  | park (addr : Nat) (cow : Bool)
  /-- held by a migration or a tag change -/
  | held
  /-- the status with which the command ends, and the poisoned sector of device memory that it has read (R313, R347) -/
  | stop (status : BitVec 7) (sector : Option Nat)
  deriving DecidableEq, Repr

/-- R207: the tile is granted to a context of a gang. -/
def gangTile (s : State) (g core t : Nat) : Bool :=
  (gangOf s g).any fun y => y.entries.any fun e => e.core = core && e.tiles.getLsbD t

/-- R263, R264: the half of an instruction offset is live for no context of an admitted gang of the core. -/
def halfIdle (s : State) (core off : Nat) : Bool :=
  decide (regionOf off ≠ 2) &&
    (List.range 8).all fun x =>
      let c := ctxOf s core x
      c.gang.isNone || decide (regionOf off ≠ (if c.liveHalf then 1 else 0))

/-- R303, R315: new transfers into a buffer are held: it is in migration, or an issued FMTAG waits for it. -/
def isHeld (s : State) (asid bid : Nat) : Bool :=
  hMig (headerOf s asid bid) ||
    s.ferries.any fun f => f.2.cmds.any fun c =>
      c.kind = .mtag && cmdIssued c && cmdAsid s c = asid &&
        (match locOf c.a.toNat with
         | .dev va => (bufferAt s asid va).any fun b => b.1 = bid
         | _ => false)

/-- R298, R299, R311: the translation of one 4 KiB page for an access of a command: its physical page, and the buffer or block
that counts the command busy. -/
def pageFor (s : State) (f : Nat) (c : Cmd) (write : Bool) (va : Nat) : Try (Nat × (Nat × Nat)) :=
  let asid := cmdAsid s c
  if isKv va then
    match kvResolve s asid va with
    | none => .stop 0x42 none
    | some (b, blk) =>
      if write && hImm blk.hdr then .stop 0x45 none
      else if write && decide (2 ≤ blk.dref) then .park va true
      else .ok (blk.frame / 4096, blockTag b)
  else
    match ferryWalk s f asid va with
    | .none => .park va false
    | .bad st => .stop st none
    | .page phys bid w =>
      let h := headerOf s asid bid
      if noRoute s (chipOf phys) then .stop 0x42 none
      else if hOwnerB h ≠ asid then .stop 0x42 none
      else if isHeld s asid bid && !c.touched.contains (asid, bid) then .held
      else if write && hImm h then .stop 0x45 none
      else if write && !w then .stop 0x42 none
      else .ok (phys / 4096, (asid, bid))

/-- A chunk's translations so far: pages, and the buffers that it touches. -/
abbrev Pages := SMap Nat × List (Nat × Nat)

/-- Translates pages in turn, as far as they translate; what they have touched counts the command busy even where a later one
parks it (R296). -/
def addPages (s : State) (f : Nat) (c : Cmd) (write : Bool) : List Nat → Pages → Pages × Try Unit
  | [], m => (m, .ok ())
  | p :: ps, m =>
    match pageFor s f c write (p * 4096) with
    | .ok (x, b) => addPages s f c write ps (mapPut m.1 p x, if m.2.contains b then m.2 else m.2 ++ [b])
    | .park a cow => (m, .park a cow)
    | .held => (m, .held)
    | .stop st sec => (m, .stop st sec)

/-- The header of the buffer at a global address, none outside buffers. -/
def headerAtAddr (s : State) (asid a : Nat) : Option (BitVec 512) :=
  match locOf a with
  | .dev va => (plainBuffer s asid va).map Prod.snd
  | _ => none

/-- R284: the buffer at a source address delivers its stored bytes as they are. -/
def rawAt (s : State) (asid a : Nat) (toDev : Bool) : Bool :=
  match locOf a with
  | .dev va => (plainBuffer s asid va).any fun b => blockRaw s asid b.2 va toDev
  | _ => false

/-- R328: the address of the unit that holds a byte, a whole line or block where the buffer has them. -/
def unitOf (s : State) (asid a : Nat) : Nat :=
  let n := ((headerAtAddr s asid a).map unitBytes).getD 8
  a / n * n

/-- R294: the stored bytes of the unit at a device-virtual address, as start and length. -/
def unitSpan (s : State) (asid va : Nat) : Nat × Nat :=
  match plainBuffer s asid va with
  | some (_, h) => storedSpan s asid h va
  | none => (va, 8)

/-- The pages of a span; an empty one has none. -/
def spanOf (r : Nat × Nat) : List Nat := if r.2 = 0 then [] else pagesOf r.1 r.2

/-- The device-virtual bytes beside a buffer's data that an access of the unit at an address reads or writes. -/
def besideUnit (s : State) (asid : Nat) (raw write : Bool) (va : Nat) : List Nat :=
  match plainBuffer s asid va with
  | some (_, h) => auxBytes s asid h raw write va
  | none => []

/-- R296, R303: the buffers of areas beside a unit's data count the command busy, and a buffer that may not be entered holds it.
An area that does not translate ends the access itself (R308). -/
def addBeside (s : State) (c : Cmd) : List Nat → Pages → Pages × Try Unit
  | [], m => (m, .ok ())
  | p :: ps, m =>
    let asid := cmdAsid s c
    match walkFrom s asid (p * 4096) with
    | .page _ bid _ =>
      if hOwnerB (headerOf s asid bid) ≠ asid ∨ m.2.contains (asid, bid) then addBeside s c ps m
      else if isHeld s asid bid && !c.touched.contains (asid, bid) then (m, .held)
      else addBeside s c ps (m.1, m.2 ++ [(asid, bid)])
    | _ => addBeside s c ps m

/-- R264: the half or the resident region is live, or has been at some time since the command's issue. -/
def halfRefuses (s : State) (c : Cmd) (k off : Nat) : Bool :=
  !halfIdle s k off || c.liveHalves.contains (k, decide (regionOf off = 1))

/-- R270: the check and the translation of the unit at an address. DESIGN CHOICE (log 75): a byte that a shape's rows or pitches
carry past offset 0x21FFF, into a bit that must be zero or into a reserved space ends the command with 0x06 at the chunk that
holds it, after earlier chunks; R73 speaks of the address that the command names. -/
def touchUnit (s : State) (f : Nat) (c : Cmd) (write raw : Bool) (a : Nat) (m : Pages) : Pages × Try Unit :=
  let asid := cmdAsid s c
  match locOf a with
  | .bad => (m, .stop 0x06 none)
  | .spad k off => (m, if gangGrants s (some c.gang) k off 1 then .ok () else .stop 0x33 none)
  | .tile k t _ => (m, if gangTile s c.gang k t then .ok () else .stop 0x11 none)
  | .isp k off => (m, if write && halfRefuses s c k off then .stop 0x39 none else .ok ())
  | .dev va =>
    match addPages s f c write (spanOf (unitSpan s asid va)) m with
    | (m, .ok _) => addBeside s c ((besideUnit s asid raw write va).map fun a => a / 4096).eraseDups m
    | r => r

/-- R270, R275: checks units in block order; the first that is refused, held or faults decides. -/
def touchAll (s : State) (f : Nat) (c : Cmd) : List (Bool × Bool × Nat) → Pages → Pages × Try Unit
  | [], m => (m, .ok ())
  | (w, raw, a) :: us, m =>
    match touchUnit s f c w raw a m with
    | (m, .ok _) => touchAll s f c us m
    | r => r

/-- A copy whose block goes to device memory. -/
def toDevice (c : Cmd) : Bool :=
  match c.kind with
  | .copy => decide (c.b.toNat / 2 ^ 60 = 0)
  | _ => false

/-- The command writes its block at all. -/
def writesBlock (c : Cmd) : Bool :=
  match c.kind with
  | .copy => true
  | .quant => true
  | _ => false

def srcRaw (s : State) (c : Cmd) (p : Nat) : Bool := rawAt s (cmdAsid s c) (srcAt c p) (toDevice c)
def srcUnit (s : State) (c : Cmd) (p : Nat) : Nat := unitOf s (cmdAsid s c) (srcAt c p)

/-- R284, R294: logical bytes of the source for each byte that is delivered at block byte p. -/
def shrinkHere (s : State) (c : Cmd) (p : Nat) : Nat :=
  match locOf (srcAt c p) with
  | .dev va => shrinkAt s (cmdAsid s c) (srcRaw s c p) va
  | _ => 1

/-- R284: a byte is delivered for block byte p: every one where logical bytes travel, the first of each group where stored ones
do. -/
def carried (s : State) (c : Cmd) (p : Nat) : Bool := decide (srcAt c p % shrinkHere s c p = 0)

/-- The block bytes of the chunk for which a byte is delivered. -/
def chunkPlaces (s : State) (c : Cmd) : List Nat := (chunkBytes c).filter (carried s c)

/-- R284, R294 (log 29): the block byte at which the byte delivered for block byte p arrives: its own, and for stored bytes the
next of its row. -/
def heldAt (s : State) (c : Cmd) (p : Nat) : Nat :=
  let k := shrinkHere s c p
  if k = 1 then p else p / shRow c.shape * shRow c.shape + p % shRow c.shape / k

/-- R284, R294 (log 29): logical bytes of a buffer of device memory that lie between two stored bytes delivered to it one after the
other, where the source's stored bytes are its logical ones: those of one stored byte at the row's start. -/
def spreadOf (s : State) (c : Cmd) (p : Nat) : Nat :=
  match locOf (dstAt c (p / shRow c.shape * shRow c.shape)) with
  | .dev va => if shrinkHere s c p = 1 then shrinkAt s (cmdAsid s c) (srcRaw s c p) va else 1
  | _ => 1

/-- R284, R294: where that byte is written: a buffer of device memory takes stored bytes at the logical place that they stand for. -/
def landsAt (s : State) (c : Cmd) (p : Nat) : Nat :=
  if toDevice c then rowAddr c.b (shDpitch c.shape) (p / shRow c.shape) (spreadOf s c p * (p % shRow c.shape))
  else dstAt c (heldAt s c p)
/-- R284, R295: stored bytes are written as they are where a copy's source delivers them so; only a line of a lossless-lines
buffer is encoded at every write (R309). -/
def dstRaw (s : State) (c : Cmd) (p : Nat) : Bool :=
  toDevice c && srcRaw s c p && !((headerAtAddr s (cmdAsid s c) (landsAt s c p)).any fun h => decide (hFmt h = 1))
def dstUnit (s : State) (c : Cmd) (p : Nat) : Nat := unitOf s (cmdAsid s c) (landsAt s c p)

/-- The units that the chunk touches, in block order, each source byte before its destination. -/
def chunkUnits (s : State) (c : Cmd) : List (Bool × Bool × Nat) :=
  ((chunkPlaces s c).flatMap fun p =>
    (false, srcRaw s c p, srcUnit s c p) :: (if writesBlock c then [(true, dstRaw s c p, dstUnit s c p)] else [])).eraseDups

/-- R312: the format of the stored block at an address and its ratio, none outside buffers. -/
def formAt (s : State) (asid a : Nat) : Option (Nat × Nat) :=
  match locOf a with
  | .dev va => (plainBuffer s asid va).bind fun b =>
      match blockFormat s asid b.2 ((va - hBase b.2) / 128) with
      | .ok (f, _) => some (f, shrinkOf s asid b.2 (va - hBase b.2))
      | .error _ => none
  | _ => none

/-- R284 (log 29): stored bytes of a compressed block of a buffer marked 3 are copied only into a buffer of the same format; other stored
bytes go to any, but one row of them to one ratio. -/
def rawMismatch (s : State) (c : Cmd) : Bool :=
  toDevice c && (chunkBytes c).any fun p =>
    let form := formAt s (cmdAsid s c) (srcAt c p)
    let there := formAt s (cmdAsid s c) (landsAt s c p)
    if (form.any fun f => decide (f.1 ≠ 0)) && (headerAtAddr s (cmdAsid s c) (srcAt c p)).any marked3 then decide (there ≠ form)
    else srcRaw s c p && decide ((there.elim 1 Prod.snd) ≠ spreadOf s c p)

/-- R24, R235: the chunk would write a byte of a sealed buffer. -/
def sealedDest (s : State) (c : Cmd) : Bool :=
  writesBlock c && (chunkBytes c).any fun p => (headerAtAddr s (cmdAsid s c) (landsAt s c p)).any hImm

/-- R285: every block of FQUANT's destination lies in a buffer of the codec's format, a multiple of 128 bytes from its base. -/
def quantDest (s : State) (c : Cmd) : Bool :=
  (List.range (blockLen c / 128)).all fun i =>
    match locOf (dstAt c (128 * i)) with
    | .dev va =>
      (plainBuffer s (cmdAsid s c) va).any fun b =>
        decide (hFmt b.2 = shCodec c.shape + 1) && decide ((va - hBase b.2) % 128 = 0)
    | _ => false

/-! ## Reading and writing one unit -/

/-- Bytes of an 8-byte word of a core store. -/
def wordBytes (m : Mem) (off : Nat) : List Byte := readBytes m off 8

/-- R357: a stored byte of the unit at an address that a command has translated is out of reach by now. -/
def awayNow (s : State) (c : Cmd) (xl : SMap Nat) (va : Nat) : Bool := unitAway s xl (unitSpan s (cmdAsid s c) va)

/-- R277, R349, R357: the bytes of the unit at an address, or the status of an error in them. -/
def fetchUnit (s : State) (c : Cmd) (raw : Bool) (xl : SMap Nat) (a : Nat) : Except (BitVec 7) (List Byte) :=
  match locOf a with
  | .bad => .error 0x06
  | .spad k off => if spadPoisoned (coreOf s k) off 8 then .error 0x43 else .ok (wordBytes (coreOf s k).spad off)
  | .tile k t off =>
    if (coreOf s k).poison.contains (.tile t (off / 8)) then .error 0x43 else .ok (tileRead (tileOf (coreOf s k) t).bytes off 8)
  | .isp k off =>
    if (coreOf s k).poison.contains (.isp (off / 8)) then .error 0x43 else .ok (wordBytes (coreOf s k).isp off)
  | .dev va => if awayNow s c xl va then .error 0x42 else readUnit s (cmdAsid s c) xl raw va

/-- R328, R349: bytes of one word of a scratchpad that act together; a whole word clears its poison. -/
def spadPut (s : State) (k : Nat) (ws : List (Nat × Byte)) : State :=
  let offs := ws.map Prod.fst
  let s := modCore s k fun c =>
    let ps := c.poison.filter fun p => match p with
      | .spad w => !((List.range 8).all fun i => offs.contains (8 * w + i))
      | _ => true
    { c with spad := (ws.filter fun e => !ps.contains (.spad (e.1 / 8))).foldl (fun m e => mapSet 0 m e.1 e.2) c.spad, poison := ps }
  wakeWords s k

/-- Bytes of one word of a tile. -/
def tilePut (s : State) (k t : Nat) (ws : List (Nat × Byte)) : State :=
  let offs := ws.map Prod.fst
  modCore s k fun c =>
    let ps := c.poison.filter fun p => match p with
      | .tile t' w => !(decide (t' = t) && (List.range 8).all fun i => offs.contains (8 * w + i))
      | _ => true
    let keep := ws.filter fun e => !ps.contains (.tile t (e.1 / 8))
    { setTile c t { tileOf c t with bytes := keep.foldl (fun b e => tileWrite b e.1 [e.2]) (tileOf c t).bytes } with
           poison := ps, ferried := c.ferried ++ keep.map fun e => (t, e) }

/-- Instruction bytes; the words that they replace stay for fetches that may still see them (R265). -/
def ispPut (s : State) (k : Nat) (ws : List (Nat × Byte)) : State :=
  let offs := ws.map Prod.fst
  modCore s k fun c =>
    let ps := c.poison.filter fun p => match p with
      | .isp w => !((List.range 8).all fun i => offs.contains (8 * w + i))
      | _ => true
    let olds := ((offs.map fun o => o / 4 * 4).eraseDups).map fun o => (s.gauge, o, BitVec.ofNat 32 (readNat c.isp o 4))
    { c with isp := (ws.filter fun e => !ps.contains (.isp (e.1 / 8))).foldl (fun m e => mapSet 0 m e.1 e.2) c.isp,
             ispOld := c.ispOld ++ olds, poison := ps }

/-- Writes bytes of the unit at an address, given by their offsets in it; the answer tells a side-list overflow. -/
def storeUnit (s : State) (c : Cmd) (raw : Bool) (theta : Nat) (xl : SMap Nat) (whole : Nat → Bool) (a : Nat)
    (upd : List (Nat × Byte)) : Except (BitVec 7) (State × Bool) :=
  let at' (off : Nat) := upd.map fun e => (off + e.1, e.2)
  match locOf a with
  | .bad => .error 0x06
  | .spad k off => .ok (spadPut s k (at' off), false)
  | .tile k t off => .ok (tilePut s k t (at' off), false)
  | .isp k off => if halfRefuses s c k off then .error 0x39 else .ok (ispPut s k (at' off), false)
  | .dev va => if awayNow s c xl va then .error 0x42 else writeUnit s (cmdAsid s c) xl raw theta whole va upd

/-! ## Small accesses: records, result words, stamps -/

/-- R347: the device-virtual sector of the first poisoned byte that a read of the unit at an address reads; a reserved tag is none. -/
def sectorOf (s : State) (c : Cmd) (raw : Bool) (xl : SMap Nat) (a : Nat) (status : BitVec 7) : Option Nat :=
  match locOf a with
  | .dev va =>
    if status = 0x43 then
      ((unitPlaces s (cmdAsid s c) raw xl va).find? fun b => sectorBad s b.2).map fun b => b.1 / 32 % 2 ^ 40
    else none
  | _ => none

/-- R309, R312, R313, R347: the sector that a write of the unit at an address has read and found poisoned: a write of a coded unit reads
what it keeps, one of a buffer with a requantisation map reads the map first, other writes read nothing. -/
def mergeSector (s : State) (c : Cmd) (raw : Bool) (xl : SMap Nat) (a : Nat) (status : BitVec 7) : Option Nat :=
  match formAt s (cmdAsid s c) a with
  | some (f, _) => if 1 ≤ f ∧ f ≤ 4 ∧ !raw then sectorOf s c false xl a status else none
  | none => if (headerAtAddr s (cmdAsid s c) a).isSome then sectorOf s c raw xl a status else none

/-- Translates a span of bytes that a command reads or writes at once; `deliver`: as R284 delivers them. -/
def touchSpan (s : State) (f : Nat) (c : Cmd) (write deliver : Bool) (a n : Nat) : Pages × Try Unit :=
  let raw (x : Nat) := deliver && rawAt s (cmdAsid s c) x false
  let units := ((List.range n).map fun i =>
    let x := (a + i) % 2 ^ 64
    (write, raw x, unitOf s (cmdAsid s c) x)).eraseDups
  touchAll s f c units ([], [])

/-- Bytes read at once, unit by unit: as R284 delivers them, or the logical ones. -/
def fetchSpan (s : State) (c : Cmd) (deliver : Bool) (xl : SMap Nat) (a : Nat) : Nat → Try (List Byte)
  | 0 => .ok []
  | n + 1 =>
    match fetchSpan s c deliver xl a n with
    | .ok bs =>
      let x := (a + n) % 2 ^ 64
      let raw := deliver && rawAt s (cmdAsid s c) x false
      let u := unitOf s (cmdAsid s c) x
      match fetchUnit s c raw xl u with
      | .error e => .stop e (sectorOf s c raw xl u e)
      | .ok us => .ok (bs ++ [(us[unitIndex s (cmdAsid s c) raw u x]?).getD 0])
    | r => r

/-- A record that a command reads: its bytes, or what stops the read. -/
def smallRead (s : State) (f : Nat) (c : Cmd) (deliver : Bool) (a n : Nat) : Pages × Try (List Byte) :=
  match touchSpan s f c false deliver a n with
  | (m, .ok _) => (m, fetchSpan s c deliver m.1 a n)
  | (m, .park x y) => (m, .park x y)
  | (m, .held) => (m, .held)
  | (m, .stop st sec) => (m, .stop st sec)

/-- Writes bytes at once, unit by unit; an error comes with its unit. -/
def storeSpan (c : Cmd) (xl : SMap Nat) (whole : Nat → Bool) (ws : List (Nat × Nat × Byte)) :
    List Nat → State → Except (Nat × BitVec 7) State
  | [], s => .ok s
  | u :: us, s =>
    match storeUnit s c false 0 xl whole u ((ws.filter fun e => e.1 = u).map fun e => e.2) with
    | .ok r => storeSpan c xl whole ws us r.1
    | .error e => .error (u, e)

/-- Bytes written at once through translated pages. -/
def putSpan (s : State) (c : Cmd) (xl : SMap Nat) (a : Nat) (bs : List Byte) : Except (Nat × BitVec 7) State :=
  let ws := bs.mapIdx fun i b =>
    let x := (a + i) % 2 ^ 64
    let u := unitOf s (cmdAsid s c) x
    (u, x - u, b)
  let whole := coversSector ((List.range bs.length).map fun i => through xl (a + i))
  storeSpan c xl whole ws (ws.map Prod.fst).eraseDups s

/-- A result word or a stamp that a command writes. -/
def smallWrite (s : State) (f : Nat) (c : Cmd) (a : Nat) (bs : List Byte) : Pages × Try State :=
  match touchSpan s f c true false a bs.length with
  | (m, .ok _) =>
    (m, match putSpan s c m.1 a bs with
        | .ok s => .ok s
        | .error (u, e) => .stop e (mergeSector s c false m.1 u e))
  | (m, .park x y) => (m, .park x y)
  | (m, .held) => (m, .held)
  | (m, .stop st sec) => (m, .stop st sec)

/-! ## Parking (R276, R303, R311) -/

/-- R276: a command parks at an address, and takes an eddy as soon as one is free. -/
def parkCmd (s : State) (f : Nat) (c : Cmd) (addr : Nat) (cow : Bool) : State :=
  fillEddies (putCmd { s with seq := s.seq + 1 } f
    { c with st := .parked none cow addr (streamHeld c), started := cow && c.started, waitSeq := s.seq }) f

/-- R303: a command that may not enter a buffer yet. -/
def holdCmd (s : State) (f : Nat) (c : Cmd) : State := fillEddies (putCmd { s with seq := s.seq + 1 } f { c with st := .held none (streamHeld c), waitSeq := s.seq }) f

/-- A parked or held command goes on: from its stream at once, from an eddy when a stream is free (R276). -/
def releaseCmd (c : Cmd) : Cmd :=
  match c.st with
  | .parked (some _) _ _ _ => { c with st := .issued }
  | .parked none _ _ n => { c with st := if n < 4 then .stream n else .issued }
  | .held (some _) _ => { c with st := .issued }
  | .held none n => { c with st := if n < 4 then .stream n else .issued }
  | _ => c

/-- R303, R315: every held command translates afresh. -/
def releaseHeld (s : State) : State :=
  let s := { s with ferries := s.ferries.map fun f =>
      (f.1, { f.2 with cmds := f.2.cmds.map fun c =>
        match c.st with
        | .held _ _ => releaseCmd c
        | _ => c }) }
  (mapKeys s.ferries).foldl fillEddies s

/-- R296: the buffers that a command touches count it busy. -/
def addTouched (c : Cmd) (bs : List (Nat × Nat)) : Cmd :=
  { c with touched := c.touched ++ bs.filter fun b => !c.touched.contains b }

/-- R346: a command appends to the queue of the context that issued it, in whatever state that is, while its gang holds it. -/
def cmdStat (s : State) (c : Cmd) (kind payload : Nat) : State :=
  if (ctxOf s c.core c.ctx).gang = some c.gang then statAppend s c.core c.ctx kind c.bundle payload else s

/-- R313, R347: a command read poisoned device memory: a record names the sector. -/
def poisonStat (s : State) (c : Cmd) (sector : Option Nat) : State :=
  match sector with
  | some x => cmdStat s c 9 x
  | none => s

/-- The word that an FSUM, FALLOC or FFREE writes when it ends with a status (R279, R286, R307). -/
def stampForm (status : BitVec 7) (low : Nat) : Word :=
  word ((if status = 0 then 0 else 2 ^ 63) + 2 ^ 56 * status.toNat + low % 2 ^ 56)

/-- The result word of a command that ends with a status, none for a kind that has none. -/
def failWord (c : Cmd) (status : BitVec 7) : Option Word :=
  match c.kind with
  | .sum => some (stampForm status 0)
  | .free => some (stampForm status 0)
  | .alloc => some 0
  | _ => none

/-- R286, R307: a command writes its result word and then ends with a status. A word that cannot be written now is written when
its page has come; one that never can is given up, and the first status stands. -/
def endWith (s : State) (f : Nat) (c : Cmd) (res : Word) (status : BitVec 7) : State :=
  let c := { c with ending := some (status, res) }
  match smallWrite s f c c.b.toNat (natToBytes 8 res.toNat) with
  | (_, .ok s) => finishCmd (putCmd s f c) f c.id status
  | (m, .park a cow) => parkCmd s f (addTouched c m.2) a cow
  | (m, .held) => holdCmd s f (addTouched c m.2)
  | (_, .stop st sec) => finishCmd (putCmd (poisonStat s c sec) f c) f c.id (if status = 0 then st else status)

/-- R277, R286, R307: a command fails; one with a result word writes it first. -/
def failCmd (s : State) (f : Nat) (c : Cmd) (status : BitVec 7) (sector : Option Nat) : State :=
  let s := poisonStat s c sector
  match c.ending, failWord c status with
  | none, some res => endWith s f c res status
  | some (st, _), _ => finishCmd (putCmd s f c) f c.id (if st = 0 then status else st)
  | none, none => finishCmd (putCmd s f c) f c.id status

/-- What a small access does to its command: it goes on, parks, is held or fails. -/
def settle {α : Type} (s : State) (f : Nat) (c : Cmd) (r : Pages × Try α) (k : α → State) : State :=
  match r with
  | (_, .ok v) => k v
  | (m, .park a cow) => parkCmd s f (addTouched c m.2) a cow
  | (m, .held) => holdCmd s f (addTouched c m.2)
  | (m, .stop st sec) => failCmd s f (addTouched c m.2) st sec

/-! ## Counted lines and the ferry port (R249, R282, R283) -/

/-- R282: block bytes of line i for which a byte is delivered. -/
def lineBytes (s : State) (c : Cmd) : List Nat :=
  ((List.range (min 512 (blockLen c - 512 * c.line))).map fun i => 512 * c.line + i).filter (carried s c)

/-- R249, R283: banks whose ferry port a line needs, with their cores. DESIGN CHOICE (log 92): a line that lies in several 512-byte lines of
one bank has that bank's port once, and is written whole in its step (R282). -/
def lineBanks (s : State) (c : Cmd) : List (Nat × Nat) :=
  ((lineBytes s c).filterMap fun p => match locOf (landsAt s c p) with
    | .spad k off => some (k, bankOf off)
    | _ => none).eraseDups

/-- R249, R282: a bank's ferry port is taken in this step, by an access that has had it or by a counted line that is due, which
goes ahead of every stream. -/
def portTaken (s : State) (b : Nat × Nat) : Bool :=
  s.ferries.any fun f => f.2.banks.contains (s.gauge, b) || f.2.ports.contains (s.gauge, b) ||
    f.2.cmds.any fun c => c.st = .counted && decide (lineStep c = s.gauge) && (lineBanks s c).contains b

/-- The bank and the 512-byte line of a word of a scratchpad. -/
def bankLine (u : Nat) : Option ((Nat × Nat) × Nat) :=
  match locOf u with
  | .spad k off => some ((k, bankOf off), off / 512)
  | _ => none

/-- R249: of words that a command would access in this step, those whose banks give it their ferry port: of one bank, one line. -/
def withPorts (s : State) : List Nat → List ((Nat × Nat) × Nat) → List Nat
  | [], _ => []
  | u :: us, held =>
    match bankLine u with
    | none => u :: withPorts s us held
    | some b =>
      if held.contains b then u :: withPorts s us held
      else if portTaken s b.1 || held.any fun e => e.1 = b.1 then withPorts s us held
      else u :: withPorts s us (b :: held)

/-- R249: words of scratchpads have been accessed in this step. -/
def usePorts (s : State) (f : Nat) (us : List Nat) : State :=
  let bs := (us.filterMap fun u => (bankLine u).map fun b => (s.gauge, b.1)).eraseDups
  if bs.isEmpty then s else modFerry s f fun y => { y with ports := (y.ports.filter fun b => b.1 = s.gauge) ++ bs }

/-- The words of the record, the result word or the stamp that a command reads or writes in one step. -/
def smallWords (c : Cmd) : List Nat :=
  let from' (a : Word) (n : Nat) : List Nat := (List.range n).map fun i => (a.toNat + 8 * i) % 2 ^ 64
  match c.kind with
  | .shape => from' c.a 4
  | .card => from' c.a 8
  | .stamp => from' c.a 2
  | .sum => from' c.b 1
  | .alloc => from' c.b 1
  | .free => from' c.b 1
  | _ => []

/-- R249: the ports that those words need are free in this step. -/
def smallPorts (s : State) (c : Cmd) : Bool := (smallWords c).all fun u => (bankLine u).all fun b => !portTaken s b.1

/-! ## Order with the issuing context (R330) -/

/-- R272: bytes that a command reads lie in [lo, hi): the rows of its source, or its record. -/
def readsFrom (c : Cmd) (lo hi : Int) : Bool :=
  let at' (n : Nat) := decide (lo < (c.a.toNat : Int) + n ∧ (c.a.toNat : Int) < hi)
  match c.kind with
  | .shape => at' 32
  | .card => at' 64
  | .alloc => at' 64
  | k => hasShape k && rowsTouch c.a (shSpitch c.shape) c.shape lo hi

/-- Some byte of the command lies in the issuing core's scratchpad. -/
def usesOwnSpad (c : Cmd) : Bool :=
  let lo : Int := (2 ^ 60 + c.core * 2 ^ 19 : Nat)
  readsFrom c lo (lo + 2 ^ 19) || writesInto c lo (lo + 2 ^ 19)

/-- R330: the context's scratchpad accesses of this bundle and of earlier ones have performed, those of a context that its
gang's end has released among them. A context that a fault has stopped may go on to issue them, and so may one whose gang is out; only a
counted line waits for neither (log 35). -/
def accessesPast (s : State) (c : Cmd) : Bool :=
  let y := ctxOf s c.core c.ctx
  let going := inItsStart s c && (c.st ≠ .counted || y.life ≠ .stopped)
  let passed (i : Nat) := decide (c.pos < (y.spos[i]?).getD 0)
  (gangOf s c.gang).isSome && (!going || (passed 4 && passed 5)) &&
    !((coreOf s c.core).accs.any fun a => decide (a.target = c.core) && !isRequest a &&
        (a.ctx = c.ctx && decide (a.pos ≤ c.pos) || a.ctx = 8 && decide (a.seq < c.id ∨ a.bundle = c.bundle)))

/-- R330: no access of the issuing context to its scratchpad holds the command back. -/
def inOrder (s : State) (c : Cmd) : Bool := !usesOwnSpad c || accessesPast s c

/-- R249, R330: the command may perform now. -/
def mayPerform (s : State) (c : Cmd) : Bool := inOrder s c && smallPorts s c

/-- R251: what the command does next is a read. -/
def readsNext (c : Cmd) : Bool :=
  c.ending.isNone && (c.kind = .shape || c.kind = .card || (hasShape c.kind && c.started && !c.toRead.isEmpty))

/-! ## Chunks (R275, R328) -/

/-- The units that a free choice leaves for a later step: those whose bit is set. -/
def chosen (mask : Nat) (us : List Nat) : List Nat × List Nat :=
  let ix := us.mapIdx fun i u => (i, u)
  ((ix.filter fun e => !mask.testBit e.1).map Prod.snd, (ix.filter fun e => mask.testBit e.1).map Prod.snd)

/-- R249, R328: the words that a command accesses in this step, and those left for a later one. -/
def pickWords (s : State) (mask : Nat) (us : List Nat) : List Nat × List Nat :=
  let go := withPorts s (chosen mask us).1 []
  (go, us.filter fun u => !go.contains u)

/-- R285, R328: the units that a command writes in this step, and those left for a later one: FQUANT's blocks in their order, each
whole before the next. -/
def pickWrites (s : State) (c : Cmd) (mask : Nat) : List Nat × List Nat :=
  match c.kind with
  | .quant =>
    let n := ((List.range c.toWrite.length).find? fun i => mask.testBit i).getD c.toWrite.length
    (c.toWrite.take n, c.toWrite.drop n)
  | _ => pickWords s mask c.toWrite

/-- Positions of a block in runs that lie in one unit. -/
def unitRuns (unit : Nat → Nat) : List Nat → List (Nat × List Nat)
  | [] => []
  | p :: ps =>
    match unitRuns unit ps with
    | (u, r) :: rs => if unit p = u then (u, p :: r) :: rs else (unit p, [p]) :: (u, r) :: rs
    | [] => [(unit p, [p])]

/-- The positions of a unit. -/
def runsOf (rs : List (Nat × List Nat)) (u : Nat) : List Nat := (rs.filter fun r => r.1 = u).flatMap Prod.snd

/-- Reads units, whose positions in the block are given, into the chunk's buffer; the first error ends the read. -/
def readRuns (s : State) (rs : List (Nat × List Nat)) : List Nat → Cmd → Except (Nat × BitVec 7) Cmd
  | [], c => .ok c
  | u :: us, c =>
    let ps := runsOf rs u
    let raw := (ps.head?.map (srcRaw s c)).getD false
    match fetchUnit s c raw c.xlat u with
    | .error e => .error (u, e)
    | .ok bs =>
      let place (p : Nat) : Nat := match locOf (srcAt c p), locOf u with
        | .dev va, .dev vu => unitIndex s (cmdAsid s c) raw vu va
        | _, _ => srcAt c p - u
      readRuns s rs us { c with buf := ps.foldl (fun m p => mapPut m (heldAt s c p) ((bs[place p]?).getD 0)) c.buf }

/-- Reads units into the chunk's buffer; the first error ends the read. -/
def readUnits (s : State) (us : List Nat) (c : Cmd) : Except (Nat × BitVec 7) Cmd :=
  readRuns s (unitRuns (srcUnit s c) (chunkPlaces s c)) us c

/-- R313: the stored byte that holds a byte of device memory that the command writes, physical, and how many such bytes fill it: the
elements of a codebook-4 byte, the stored byte alone elsewhere. -/
def storedPlace (s : State) (c : Cmd) (raw : Bool) (va : Nat) : Nat × Nat :=
  match plainBuffer s (cmdAsid s c) va with
  | some (_, h) =>
    let k := shrinkOf s (cmdAsid s c) h (va - hBase h)
    (through c.xlat (hBase h + (va - hBase h) / k), if raw then 1 else k)
  | none => (through c.xlat va, 1)

/-- R313: a chunk whose destination bytes are given covers every byte of a physical sector. -/
def coversAll (s : State) (c : Cmd) (ps : List Nat) (x : Nat) : Bool :=
  let at' := (ps.filterMap fun p => match locOf (landsAt s c p) with
    | .dev va => some (va, storedPlace s c (dstRaw s c p) va)
    | _ => none).eraseDups
  (List.range 32).all fun i => match at'.filter fun e => e.2.1 = 32 * x + i with
    | [] => false
    | e :: es => decide (e.2.2 ≤ es.length + 1)

/-- The physical sectors that the chunk's destination covers whole. -/
def chunkCovers (s : State) (c : Cmd) : Nat → Bool := coversAll s c (chunkPlaces s c)

/-- Writes units, whose positions in the block are given, from the chunk's buffer; the first error ends the write, and comes with its unit. -/
def writeRuns (c : Cmd) (rs : List (Nat × List Nat)) (covers : Nat → Bool) : List Nat → State → Except (Nat × BitVec 7 × State) State
  | [], s => .ok s
  | u :: us, s =>
    let ps := runsOf rs u
    let raw := (ps.head?.map (dstRaw s c)).getD false
    let upd := ps.map fun p => (landsAt s c p - u, mapGet 0 c.buf (heldAt s c p))
    match storeUnit s c raw (if c.kind = .quant then shTheta c.shape else 0) c.xlat covers u upd with
    | .error e => .error (u, e, s)
    | .ok (s, more) =>
      let s := match more && decide (c.kind = .quant), locOf u with
        | true, .dev va =>
          (match bufferAt s (cmdAsid s c) va with
           | some b => cmdStat s c 8 ((va - hBase b.2) / 128)
           | none => s)
        | _, _ => s
      writeRuns c rs covers us s

/-- Writes units from the chunk's buffer; the first error ends the write. -/
def writeChunk (c : Cmd) (us : List Nat) (s : State) : Except (Nat × BitVec 7 × State) State :=
  writeRuns c (unitRuns (dstUnit s c) (chunkPlaces s c)) (chunkCovers s c) us s

/-- R133: bytes that a command has moved. DESIGN CHOICE (log 105): those of a copy, an FQUANT's and those that an FDEDUP writes; FSUM, FATOM,
records, stamps and result words count none. -/
def countBytes (s : State) (c : Cmd) (n : Nat) : State :=
  modOccF s c fun y => { y with bytes := y.bytes + n }

end Sys2Proof.Machine
end

