-- ==== Sys2Proof/Machine/Pools.lean ====
section
/-! DEFINITION. The buddy allocator of pools (R305-R307). -/
namespace Sys2Proof.Machine

/-- Bytes of a block of a class. -/
def classBytes (c : Nat) : Nat := 4096 * 2 ^ c

/-- R305: what a descriptor says of its pool: arena base, log2 of the arena's size, address of the state area, free bytes and
exhaustions; and its reserved bits. -/
structure PoolDesc where
  arena : Nat
  size : Nat
  area : Nat
  free : Nat
  fails : Nat
  reserved : Nat
  deriving DecidableEq, Repr

/-- R305: a descriptor's fields. -/
def poolDesc (bs : List Byte) : PoolDesc :=
  let at' (i n : Nat) := bytesToNat ((bs.drop i).take n)
  { arena := at' 0 8, size := field (at' 8 1) 0 6, area := at' 16 8, free := at' 24 8, fails := at' 32 4
    reserved := field (at' 8 8) 6 58 + 2 ^ 58 * at' 36 28 }

/-- R305, R306: a wholly free arena. -/
def poolFresh (d : PoolDesc) : Pool :=
  let m := d.size
  let k := min m 30 - 12
  { arena := d.arena, size := m, area := d.area
    free := (List.range (2 ^ (m - min m 30))).map fun i => (i * classBytes k, k), used := [] }

/-- R306: the lowest free block of the smallest class that serves `c`. -/
def poolPick (p : Pool) (c : Nat) : Option (Nat × Nat) :=
  minBy (fun b => b.2 * 2 ^ 40 + b.1) (p.free.filter fun b => decide (c ≤ b.2))

/-- R306: the upper halves that a block of a class leaves as it is halved down to a smaller one. -/
def poolHalves (off c : Nat) : Nat → List (Nat × Nat)
  | 0 => []
  | n + 1 => (off + classBytes (c + n), c + n) :: poolHalves off c n

/-- R306: takes a block of class `c`, none when the pool has none. -/
def poolTake (p : Pool) (c : Nat) : Option (Nat × Pool) :=
  (poolPick p c).map fun b =>
    (b.1, { p with free := p.free.erase b ++ poolHalves b.1 c (b.2 - c), used := p.used ++ [(b.1, c)] })

/-- R306: frees a block, merging it with its buddy while that is free. -/
def poolMerge (top : Nat) : Nat → List (Nat × Nat) → Nat × Nat → List (Nat × Nat)
  | 0, free, b => free ++ [b]
  | n + 1, free, b =>
    let buddy := (if b.1 / classBytes b.2 % 2 = 0 then b.1 + classBytes b.2 else b.1 - classBytes b.2, b.2)
    if b.2 < top ∧ free.contains buddy then poolMerge top n (free.erase buddy) (min b.1 buddy.1, b.2 + 1) else free ++ [b]

/-- R306: the class of the allocated block that starts at an offset, and the pool without it. -/
def poolGive (m : Nat) (p : Pool) (off : Nat) : Option (Nat × Pool) :=
  (p.used.find? fun b => b.1 = off).map fun b =>
    (b.2, { p with free := poolMerge (min m 30 - 12) 19 p.free b, used := p.used.erase b })

/-- R305: free bytes of a pool. -/
def poolFree (p : Pool) : Nat := (p.free.map fun b => classBytes b.2).sum

/-- A state area of an address space. -/
def poolKey (asid area : Nat) : Nat := asid * 2 ^ 64 + area

/-- R305: the pool of a state area, whatever descriptor names it. What the area holds is kept in State (log 25); a descriptor that says
that its whole arena is free, or that names another arena or size than the area was used for, has a wholly free pool. -/
def poolOf (s : State) (asid : Nat) (d : PoolDesc) : Pool :=
  match (s.pools.find? fun e => e.1 = poolKey asid d.area).map Prod.snd with
  | some p => if p.arena = d.arena ∧ p.size = d.size ∧ d.free ≠ 2 ^ d.size then p else poolFresh d
  | none => poolFresh d

/-- R5, R305: the descriptor names a pool: its reserved bits are zero, and the buffer that holds its arena field answers to it. -/
def namesPool (s : State) (asid desc : Nat) (d : PoolDesc) : Bool :=
  decide (12 ≤ d.size ∧ d.size ≤ 38 ∧ d.reserved = 0) &&
    (plainBuffer s asid d.arena).any fun b =>
      decide (hFmt b.2 = 0 ∧ hOwnerB b.2 = asid ∧ hBase b.2 = d.arena ∧ hSizeB b.2 = 2 ^ d.size ∧ hAux b.2 = desc)

/-- R305: a pool after an operation, with the free and fails fields of its descriptor; none of it where they cannot be written. -/
def poolPut (s : State) (c : Cmd) (asid desc : Nat) (xl : SMap Nat) (d : PoolDesc) (p : Pool) (failed : Bool) :
    Except (Nat × BitVec 7) State :=
  let fails := min (d.fails + (if failed then 1 else 0)) (2 ^ 32 - 1)
  (putSpan s c xl (desc + 24) (natToBytes 8 (poolFree p) ++ natToBytes 4 fails)).map fun s =>
    { s with pools := mapPut s.pools (poolKey asid d.area) p }

end Sys2Proof.Machine
end

