-- ==== Sys2Proof/Machine/Ferries.lean ====
section
/-! DEFINITION. The ferry events: issue, chunks, counted lines, stamps, page arrival, copy-on-write, tag changes
(R271, R273-R283, R286, R287, R300, R301, R307, R310, R311, R314, R315). -/
namespace Sys2Proof.Machine

/-! ## Issue (R271, R273, R282) -/

/-- R271: an FSHAPE holds back the context's later commands; an FMTAG waits for the context's earlier ones (R315). -/
def issueBlocked (fe : Ferry) (c : Cmd) : Bool :=
  fe.cmds.any fun b =>
    b.core = c.core && b.ctx = c.ctx && decide (b.id < c.id) && (b.kind = .shape || c.kind = .mtag)

/-- R119, R364: no context of the gang issues any more. -/
def gangHalted (s : State) (g : Gang) : Bool :=
  g.entries.all fun e =>
    let c := coreOf s e.core
    decide (c.issuer ≠ some e.ctx) && decide ((ctxIn c e.ctx).life ≠ .resuming) && !(c.relock.any fun r => r.ctx = e.ctx)

/-- R119, R271: commands of a gang that is out, or whose contexts have stopped on its way out or for a checkpoint, do not issue. -/
def gangIssues (s : State) (g : Nat) : Bool := (gangOf s g).any fun y => !((y.evict || y.ckpt) && gangHalted s y)

/-- The commands that may issue in this step. -/
def issuable (s : State) (f : Nat) : List Cmd :=
  let fe := ferryOf s f
  fe.cmds.filter fun c => c.st = .waiting && decide (c.issueStep ≤ s.gauge) && gangIssues s c.gang && !issueBlocked fe c

/-- A result address is legal: space 0x0 or 0x1, 8-byte aligned (R286, R307). -/
def resultOk (b : Nat) : Bool := decide (b / 2 ^ 60 ≤ 1) && decide (b % 8 = 0) && decide (locOf b ≠ .bad)

/-- R5, R73, R272, R278, R286, R299, R307, R314: what ends a command with 0x06 when it issues. -/
def issueIllegal (c : Cmd) (h : BitVec 256) : Bool :=
  let a := c.a.toNat
  let b := c.b.toNat
  let kvOk (x : Nat) := match locOf x with
    | .dev va => isKv va && decide (va % 4096 = 0)
    | _ => false
  (hasShape c.kind && !shapeFor c.kind h) ||
    (match c.kind with
     | .copy => decide (locOf a = .bad ∨ locOf b = .bad)
     | .quant => decide (locOf a = .bad ∨ locOf b = .bad)
     | .shape => decide (locOf a = .bad ∨ a % 8 ≠ 0)
     | .stamp => decide (locOf a = .bad ∨ 2 ≤ a / 2 ^ 60 ∨ a % 16 ≠ 0)
     | .dedup => decide (locOf a = .bad) || !kvOk b
     | .alloc => decide (locOf a = .bad) || !resultOk b
     | .free => decide (locOf a = .bad) || !resultOk b
     | .atom => decide (locOf a = .bad ∨ a / 2 ^ 60 ≠ 0 ∨ a % (if c.e < 16 then 4 else 8) ≠ 0)
     | .mtag => decide (locOf a = .bad)
     | .kvmap => !kvOk a || kvReserved c.b
     | .card => decide (locOf a = .bad ∨ a % 8 ≠ 0)
     | .sum => decide (locOf a = .bad) || !resultOk b)

/-- R282: the command is counted. -/
def isCounted (c : Cmd) : Bool :=
  decide (c.kind = .copy) && c.pinned && c.onTime && decide (shLand c.shape ≠ 0) &&
    (match locOf c.b.toNat with
     | .spad k _ => decide (k = c.core)
     | .tile k _ _ => decide (k = c.core)
     | _ => false)

/-- The streams of a ferry that no command holds. -/
def freeStreams (fe : Ferry) : List Nat := (List.range 4).filter fun n => !fe.cmds.any fun c => streamHeld c = n

/-- R278: every other command of the stamp's batch has completed. -/
def batchDone (fe : Ferry) (c : Cmd) : Bool :=
  !fe.cmds.any fun b => decide (b.id ≠ c.id) && b.core = c.core && b.ctx = c.ctx && b.batch = c.batch

/-- R315: an FMTAG need wait no longer: its buffer is neither counted busy nor in migration, or there is none. -/
def tagFree (s : State) (c : Cmd) : Bool :=
  match locOf c.a.toNat with
  | .dev va =>
    (match plainBuffer s (cmdAsid s c) va with
     | some (bid, h) => !hMig h && decide (busyOf s (cmdAsid s c) bid = 0)
     | none => true)
  | _ => true

/-- R271, R278, R315, R330: an issued command can use a stream now: a stamp once its batch has completed, a tag change once its buffer
is free, and none that an access of its context holds back. -/
def wantsStream (s : State) (f : Nat) (c : Cmd) : Bool :=
  decide (c.st = .issued) && inOrder s c &&
    (match c.kind with
     | .stamp => batchDone (ferryOf s f) c
     | .mtag => tagFree s c
     | _ => true)

/-- R271: issued commands take free streams. DESIGN CHOICE (log 85): of several that wait, the one that entered first takes a stream. -/
def giveStreams (s : State) (f : Nat) : State :=
  (freeStreams (ferryOf s f)).foldl (fun s n =>
    match minBy Cmd.order ((ferryOf s f).cmds.filter (wantsStream s f)) with
    | none => s
    | some c => putCmd s f { c with st := .stream n }) s

/-- The stamp's batch is closed. -/
def closeBatch (fe : Ferry) (c : Cmd) : Ferry :=
  { fe with fails := fe.fails.filter fun b => !(b.core = c.core && b.ctx = c.ctx && b.batch = c.batch) }

/-- R278: a stamp that cannot be written sends an event to canopy. -/
def stampLost (s : State) (f : Nat) (c : Cmd) : State :=
  let s := modFerry (finishCmd s f c.id 0) f (closeBatch · c)
  { s with outbox := s.outbox ++ [.stampFailed f c.id] }

/-- R73, R272, R305, R307: an illegal command ends as it issues. An FALLOC or FFREE whose result address is legal still writes
its result word. -/
def issueFails (s : State) (f : Nat) (c : Cmd) : State :=
  match c.kind with
  | .stamp => stampLost s f c
  | .alloc => if resultOk c.b.toNat then putCmd s f { c with st := .issued, ending := some (0x06, 0) } else finishCmd s f c.id 0x06
  | .free =>
    if resultOk c.b.toNat then putCmd s f { c with st := .issued, ending := some (0x06, stampForm 0x06 0) }
    else finishCmd s f c.id 0x06
  | _ => finishCmd s f c.id 0x06

/-- R264: the halves of instruction scratchpads that are live now, for a command that may write into one. -/
def noteHalves (s : State) (c : Cmd) : Cmd :=
  if writesInto c (3 * 2 ^ 60) (3 * 2 ^ 60 + 2 ^ 27) then
    let live := (mapKeys s.cores).flatMap fun k =>
      ([false, true].filter fun h => !halfIdle s k (if h then 0x10000 else 0)).map fun h => (k, h)
    { c with liveHalves := c.liveHalves ++ live.filter fun e => !c.liveHalves.contains e }
  else c

/-- R212, R264, R271, R272: one command issues: it takes its shape as it stands, and ends at once where it is illegal. Tiles that
only this shape brings into its destination count it from now on, and tiles that only the shape of its entry step had there count it
no more: no byte of it goes into them (log 28). -/
def issueOne (s : State) (f : Nat) (c : Cmd) : State :=
  let h := mapGet 0 (ctxOf s c.core c.ctx).shapes c.e
  let s := modOccF s c fun y => { y with waits := y.waits + (s.gauge - c.entryStep) }
  if issueIllegal c h then issueFails s f c
  else
    let c := { c with shape := if hasShape c.kind then h else 0 }
    let ts := fillTargets c c.shape
    let s := (c.tileFills.filter fun e => !ts.contains e).foldl (endFill false c) s
    let s := startFills s (ts.filter fun e => !c.tileFills.contains e)
    putCmd s f (noteHalves s { c with tileFills := ts, st := if isCounted c then .counted else .issued })

/-- R271: at most one command a step: the lowest issue step first, then the one that entered first. -/
def execFerryIssue (ferry : Nat) (s : State) : Host.Outcome State Fault Refusal :=
  let s := match minBy Cmd.issueStep (sortBy Cmd.order (issuable s ferry)) with
    | some c => issueOne s ferry c
    | none => s
  .next (giveStreams s ferry)

/-! ## Single-step commands -/

/-- R273. -/
def runShape (s : State) (f : Nat) (c : Cmd) : State :=
  settle s f c (smallRead s f c true c.a.toNat 32) fun bs =>
    let h := BitVec.ofNat 256 (bytesToNat bs)
    if shapeLegal h then
      finishCmd (modCtx s c.core c.ctx fun y => { y with shapes := mapSet 0 y.shapes c.e h }) f c.id 0
    else finishCmd s f c.id 0x06

/-- R287: the card goes to the scheduler with the stream and ring of the issuing gang. -/
def runCard (s : State) (f : Nat) (c : Cmd) : State :=
  settle s f c (smallRead s f c true c.a.toNat 64) fun bs =>
    let st := ((gangOf s c.gang).map Gang.stream).getD 0
    let y : Card := { key := s.seq, bytes := bs, stream := st, ring := (streamOf s st).ring, asid := cmdAsid s c,
                      attempt := 0, lastReset := none, st := .queued }
    finishCmd { s with cards := s.cards ++ [y], seq := s.seq + 1 } f c.id 0

/-- A small access goes on with the pages that it has translated. -/
def withPages (s : State) (f : Nat) (c : Cmd) (r : Pages × Try Unit) (k : Pages → State) : State := settle s f c r fun _ => k r.1

/-- R314: what an FATOM leaves in memory. -/
def fatomValue (e old b : Nat) : Nat :=
  let w := if e < 16 then 32 else 64
  let x := b % 2 ^ w
  match e % 16 with
  | 7 => if x < old then x else old
  | 8 => if old < x then x else old
  | 9 => if old = b % 2 ^ 32 then b / 2 ^ 32 else old
  | op => atomValue op false w old x

/-- R314: plain and lossless-lines buffers only; a block that a requantisation has re-encoded is neither. -/
def atomFormat (s : State) (c : Cmd) : BitVec 7 :=
  match locOf c.a.toNat with
  | .dev va =>
    (match plainBuffer s (cmdAsid s c) va with
     | none => 0
     | some (_, h) =>
       match blockFormat s (cmdAsid s c) h ((va - hBase h) / 128) with
       | .ok (f, _) => if f ≤ 1 then 0 else 0x06
       | .error e => e)
  | _ => 0x06

/-- R235, R314: one read-modify-write of logical bytes at the home chip; the old value arrives in lqs. A sealed buffer refuses it with
0x45 whatever its format (log 76). -/
def runAtom (s : State) (f : Nat) (c : Cmd) : State :=
  let n := if c.e < 16 then 4 else 8
  let a := c.a.toNat
  if (headerAtAddr s (cmdAsid s c) a).any hImm then finishCmd s f c.id 0x45
  else if atomFormat s c ≠ 0 then failCmd s f c (atomFormat s c) (mergeSector s c false [] (unitOf s (cmdAsid s c) a) (atomFormat s c))
  else
    withPages s f c (touchSpan s f c true false a n) fun m =>
      settle s f c (m, fetchSpan s c false m.1 a n) fun bs =>
        let old := bytesToNat bs
        match putSpan s c m.1 a (natToBytes n (fatomValue c.e old c.b.toNat)) with
        | .error (u, e) => failCmd s f c e (mergeSector s c false m.1 u e)
        | .ok s =>
          let s := match c.lqEntry with
            | some id => modCtx s c.core c.ctx fun y =>
                { y with lqs := y.lqs.map fun q => if q.id = id then { q with val := some (BitVec.ofNat 4096 old) } else q }
            | none => s
          finishCmd s f c.id 0

/-- R300, R301: a first-stage entry written, with the counts of the blocks that it and the old one name. -/
def bindPage (s : State) (asid page : Nat) (new : Word) : State :=
  let old := kvOf s asid page
  let s := if kvValid new then modBlock s (kvBlock new) fun b => b.setDref (b.dref + 1) else s
  let s := { s with kv := mapSet 0 s.kv (kvKey asid page) new }
  if kvValid old then
    modBlock s (kvBlock old) fun b => { b.setDref (b.dref - 1) with fp := if b.dref ≤ 1 then none else b.fp }
  else s

/-- R276: the command is parked. -/
def isParked (c : Cmd) : Bool :=
  match c.st with
  | .parked _ _ _ _ => true
  | _ => false

/-- R298: chunks under way that have translated a page of an ASID. A parked command has none under way; it translates afresh when it
goes on. -/
def chunksThrough (s : State) (asid page but : Nat) : List (Nat × Nat × Nat) :=
  s.ferries.flatMap fun f =>
    (f.2.cmds.filter fun c => c.started && !isParked c && c.id ≠ but && cmdAsid s c = asid && c.xlat.any fun e => e.1 = page).map fun c =>
      (f.1, c.id, c.chunk)

/-- R298: one of the chunks has not performed yet. -/
def stillPerforms (s : State) (ws : List (Nat × Nat × Nat)) : Bool :=
  ws.any fun w => (cmdOf s w.1 w.2.1).any fun c => c.started && !isParked c && c.chunk = w.2.2

/-- R301, R357: a chip that owns the block of an entry, whose count the change reaches, is out of reach. -/
def ownerAway (s : State) (e : Word) : Bool := kvValid e && noRoute s (kvBlock e / 2 ^ 40)

/-- R298, R301: the entry is written, and the command completes once every chunk that translated through the old one has
performed. -/
def runKvmap (s : State) (f : Nat) (c : Cmd) : State :=
  match locOf c.a.toNat with
  | .dev va =>
    let asid := cmdAsid s c
    if c.started then (if stillPerforms s c.waitFor then s else finishCmd s f c.id 0)
    else if (kvValid c.b ∧ !blockGranted s asid c.b) ∨ ownerAway s c.b ∨ ownerAway s (kvOf s asid (kvPage va)) then finishCmd s f c.id 0x42
    else
      let ws := chunksThrough s asid (va / 4096) c.id
      let s := bindPage s asid (kvPage va) c.b
      if ws.isEmpty then finishCmd s f c.id 0 else putCmd s f { c with started := true, waitFor := ws }
  | _ => finishCmd s f c.id 0x06

/-- An access that goes on with its pages and the buffers that it has touched (R296). -/
def keptPages (r : Pages × Try Unit) : Pages × Try Pages :=
  match r with
  | (m, .ok _) => (m, .ok m)
  | (m, .park a cow) => (m, .park a cow)
  | (m, .held) => (m, .held)
  | (m, .stop st sec) => (m, .stop st sec)

/-- R305-R307: FALLOC takes effect at the descriptor's chip once both its addresses translate. -/
def runAlloc (s : State) (f : Nat) (c : Cmd) : State :=
  settle s f c (keptPages (touchSpan s f c true false c.b.toNat 8)) fun m =>
    let c := addTouched c m.2
    match locOf c.a.toNat with
    | .dev desc =>
      if desc % 64 ≠ 0 then failCmd s f c 0x06 none
      else
        withPages s f c (touchSpan s f c false false desc 64) fun r =>
          settle s f c (r, fetchSpan s c false r.1 desc 64) fun bs =>
            let asid := cmdAsid s c
            let d := poolDesc bs
            if !namesPool s asid desc d ∨ 2 ^ min d.size 30 < classBytes c.e then failCmd s f c 0x06 none
            else
              withPages s f c (touchSpan s f c true false desc 64) fun m =>
                let p := poolOf s asid d
                let got := poolTake p c.e
                match poolPut s c asid desc m.1 d ((got.map Prod.snd).getD p) got.isNone with
                | .error (u, e) => failCmd s f c e (mergeSector s c false m.1 u e)
                | .ok s =>
                  match got with
                  | none => endWith s f c 0 0x44
                  | some (off, _) => endWith s f c (word (d.arena + off)) 0
    | _ => failCmd s f c 0x06 none

/-- R306, R307: FFREE finds its pool through the arena that contains the address: the buffer that holds it, which the descriptor names. -/
def runFree (s : State) (f : Nat) (c : Cmd) : State :=
  settle s f c (keptPages (touchSpan s f c true false c.b.toNat 8)) fun m =>
    let c := addTouched c m.2
    let asid := cmdAsid s c
    match locOf c.a.toNat with
    | .dev x =>
      (match plainBuffer s asid x with
       | none => failCmd s f c 0x47 none
       | some (_, h) =>
         let desc := hAux h
         if hFmt h ≠ 0 ∨ desc = 0 then failCmd s f c 0x47 none
         else
           withPages s f c (touchSpan s f c false false desc 64) fun r =>
             settle s f c (r, fetchSpan s c false r.1 desc 64) fun bs =>
               let d := poolDesc bs
               if d.reserved ≠ 0 then failCmd s f c 0x06 none
               else
               match if namesPool s asid desc d ∧ d.arena = hBase h then poolGive d.size (poolOf s asid d) (x - d.arena) else none with
               | none => failCmd s f c 0x47 none
               | some (cl, p) =>
                 withPages s f c (touchSpan s f c true false desc 64) fun m =>
                   match poolPut s c asid desc m.1 d p false with
                   | .error (u, e) => failCmd s f c e (mergeSector s c false m.1 u e)
                   | .ok s => endWith s f c (stampForm 0 cl) 0)
    | _ => failCmd s f c 0x47 none

/-! ## Deduplicating writes (R310) -/

/-- R310: the bytes that a dedup command has read, in block order. -/
def pageBytes (c : Cmd) : List Byte := (List.range 4096).map fun i => mapGet 0 c.buf i

/-- R310: the fingerprint of a page. -/
def fingerprint (bs : List Byte) : Word := word (bytesToNat ((sha3 bs).take 8))

/-- R310: the first poisoned byte of a block, by its offset. -/
def blockPoison (s : State) (b : Block) : Option Nat := ((List.range 128).find? fun i => sectorBad s (b.frame + 32 * i)).map (32 * ·)

/-- R313, R357: what a read of a block meets before its bytes: a frame out of reach, or a poisoned sector, by its offset. -/
def blockTrouble (s : State) (b : Block) : Option (BitVec 7 × Option Nat) :=
  if noRoute s (chipOf b.frame) then some (0x42, none) else (blockPoison s b).map fun off => (0x43, some off)

/-- R310: the lowest-numbered block of the ASID at a chip that the index finds equal; the candidates are read in ascending order, and the
answer also tells what the read of one that comes first meets (log 98). -/
def dedupMatch (s : State) (asid chip : Nat) (bs : List Byte) : Option (Nat × Option (BitVec 7 × Option Nat)) :=
  (s.blocks.find? fun e => e.1 / 2 ^ 40 = chip && e.2.owner = asid && e.2.fp = some (fingerprint bs)
    && ((blockTrouble s e.2).isSome || readBytes s.dram e.2.frame 4096 = bs)).map fun e => (e.1, blockTrouble s e.2)

/-- R300, R310: another deduplicating write of the same bytes is under way, and decisions apply one at a time. -/
def sameUnderway (s : State) (c : Cmd) : Bool :=
  s.ferries.any fun f => f.2.cmds.any fun b =>
    b.kind = .dedup && b.id ≠ c.id && !b.toWrite.isEmpty && b.toRead.isEmpty && cmdAsid s b = cmdAsid s c && pageBytes b = pageBytes c

/-- R298, R310: the destination is bound to another block, and the command completes once every chunk that translated through the old
entry has performed. DESIGN CHOICE (log 94): the entry keeps its tier and every bit but the block number. -/
def rebindPage (s : State) (f : Nat) (c : Cmd) (asid va m : Nat) : State :=
  let ws := chunksThrough s asid (va / 4096) c.id
  let e := kvOf s asid (kvPage va)
  let s := bindPage s asid (kvPage va) (word (setField e.toNat 0 40 (m % 2 ^ 40)))
  if ws.isEmpty then finishCmd s f c.id 0
  else putCmd s f { c with waitFor := ws, xlat := [], toRead := [], toWrite := [], chunk := c.chunk + 1 }

/-- R310: binds the destination, starts to write the block of its own, whose fingerprint leaves the index from then on, or takes a
copy-on-write fault. -/
def runDedup (s : State) (f : Nat) (c : Cmd) : State :=
  match locOf c.b.toNat with
  | .dev va =>
    let asid := cmdAsid s c
    let bs := pageBytes c
    if sameUnderway s c then s
    else
    (match kvResolve s asid va with
     | none => finishCmd s f c.id 0x42
     | some (x, blk) =>
       let c := addTouched c [blockTag x]
       match dedupMatch s asid (x / 2 ^ 40) bs with
       | some (_, some (st, off)) => failCmd s f c st (off.map fun n => (va / 4096 * 4096 + n) / 32 % 2 ^ 40)
       | some (m, none) => if m = x then finishCmd s f c.id 0 else rebindPage s f c asid va m
       | none =>
         if hImm blk.hdr then finishCmd s f c.id 0x45
         else if blk.dref ≤ 1 then
           putCmd (modBlock s x fun b => { b with fp := none }) f
             { c with block := some x, xlat := mapPut c.xlat (va / 4096) (blk.frame / 4096)
                      toWrite := (List.range 512).map fun i => c.b.toNat + 8 * i }
         else parkCmd s f c va true)
  | _ => finishCmd s f c.id 0x06

/-- R310: words of the page written into the block of its own; the last one enters its fingerprint. -/
def writeDedup (c : Cmd) : List Nat → State → Except (BitVec 7) State
  | [], s => .ok s
  | u :: us, s =>
    let upd := (List.range 8).map fun i => (i, mapGet 0 c.buf (u - c.b.toNat + i))
    match storeUnit s c false 0 c.xlat (fun _ => true) u upd with
    | .error e => .error e
    | .ok r => writeDedup c us r.1

/-! ## Chunks (R275-R277, R285, R286, R310) -/

/-- R275, R296, R298: a chunk begins: every byte is checked and translated. A sealed destination is 0x45, whatever else is wrong with
the chunk (R24, R235). -/
def beginChunk (s : State) (f : Nat) (c : Cmd) : State :=
  if sealedDest s c then finishCmd s f c.id 0x45
  else if c.kind = .quant ∧ c.chunk = 0 ∧ !quantDest s c then finishCmd s f c.id 0x06
  else if rawMismatch s c then finishCmd s f c.id 0x06
  else
    let us := chunkUnits s c
    let addrs (w : Bool) := ((us.filter fun u => u.1 = w).map fun u => u.2.2).eraseDups
    withPages s f c (touchAll s f c us ([], [])) fun m =>
      let s := m.1.foldl (fun s e => if isKv (e.1 * 4096) then s else tlbPut s f (cmdAsid s c) (e.1 * 4096)
        (ferryWalk s f (cmdAsid s c) (e.1 * 4096))) s
      putCmd s f (addTouched { c with started := true, xlat := m.1, buf := [], toRead := addrs false, toWrite := addrs true } m.2)

/-- R275, R286: a chunk has performed. The last one of an FSUM is followed by the result word. -/
def endChunk (s : State) (f : Nat) (c : Cmd) : State :=
  let crc := match c.kind with
    | .sum => crcRun c.crc ((chunkPlaces s c).map fun p => mapGet 0 c.buf (heldAt s c p))
    | _ => c.crc
  let next := { c with crc := crc, started := false, buf := [], xlat := [] }
  let past := { next with chunk := c.chunk + 1 }
  if !chunksDone past then putCmd s f past
  else if c.kind = .sum then endWith s f next (stampForm 0 (crcEnd crc).toNat) 0
  else finishCmd (putCmd s f past) f c.id 0

/-- R212: the tiles of a command's destination that it will write no more, once its words in hand and its block bytes from
`p` on are the ones left; its last byte into them has performed. -/
def closeTiles (s : State) (c : Cmd) (p : Nat) : State × Cmd :=
  let shut := c.tileFills.filter fun e =>
    let lo := (tileGlobal e.1 e.2).toNat
    !(c.toWrite.any fun u => decide (lo ≤ u ∧ u < lo + 2 ^ 15)) &&
      !laterTouch c.b (shDpitch c.shape) c.shape p lo ((lo : Int) + 2 ^ 15)
  (shut.foldl (endFill true c) s, { c with tileFills := c.tileFills.filter fun e => !shut.contains e })

/-- R311: a chunk that has still to write meets a block that two entries name by now: at its address, the copy-on-write fault. -/
def sharedWrite (s : State) (c : Cmd) : Option Nat :=
  (c.toWrite.filterMap fun u => match locOf u with
    | .dev va => if sharedFrame s c.xlat va then some va else none
    | _ => none).head?

/-- R310, R311: a deduplicating write decides, and then writes words of its own block; the last one enters the fingerprint. A block that
is shared by then is a copy-on-write fault, after which it decides afresh. A block that nothing is bound to any more has no entry. -/
def stepDedup (s : State) (f : Nat) (c : Cmd) (mask : Nat) : State :=
  if !c.waitFor.isEmpty then (if stillPerforms s c.waitFor then s else finishCmd s f c.id 0)
  else if c.toWrite.isEmpty then runDedup s f c
  else if let some va := sharedWrite s c then parkCmd s f { c with toWrite := [] } va true
  else
    let pick := chosen mask c.toWrite
    match writeDedup c pick.1 s with
    | .error e => finishCmd s f c.id e
    | .ok s =>
      let s := countBytes (putCmd s f { c with toWrite := pick.2 }) c (8 * pick.1.length)
      if !pick.2.isEmpty then s
      else
        match c.block with
        | some x => finishCmd (modBlock s x fun b => { b with fp := if 1 ≤ b.dref then some (fingerprint (pageBytes c)) else none }) f c.id 0
        | none => finishCmd s f c.id 0

/-- The chunk writes the unit at an address as stored bytes. -/
def unitRaw (s : State) (c : Cmd) (u : Nat) : Bool := (((chunkPlaces s c).find? fun p => dstUnit s c p = u).map (dstRaw s c)).getD false

/-- One step of a chunk: the words of a free choice are read, or, when all are read, written (R328). -/
def stepChunk (s : State) (f : Nat) (c : Cmd) (mask : Nat) : State :=
  if !c.toRead.isEmpty then
    let pick := pickWords s mask c.toRead
    match readUnits s pick.1 c with
    | .error (u, e) =>
      let raw := (((chunkPlaces s c).find? fun p => srcUnit s c p = u).map (srcRaw s c)).getD false
      failCmd s f c e (sectorOf s c raw c.xlat u e)
    | .ok c' => usePorts (putCmd s f { c' with toRead := pick.2 }) f pick.1
  else if c.kind = .dedup then stepDedup s f c mask
  else if c.toWrite.isEmpty then endChunk s f c
  else if let some va := sharedWrite s c then parkCmd s f { c with started := false, buf := [] } va true
  else
    let pick := pickWrites s c mask
    match writeChunk c pick.1 s with
    | .error (u, e, s) => failCmd s f c e (mergeSector s c (unitRaw s c u) c.xlat u e)
    | .ok s =>
      let s := usePorts s f pick.1
      let r := closeTiles s { c with toWrite := pick.2 } (4096 * (c.chunk + 1))
      let s := putCmd r.1 f r.2
      if pick.2.isEmpty then endChunk (countBytes s c (chunkPlaces s c).length) f r.2 else s

/-- A stream's command takes one step. -/
def performStream (s : State) (f : Nat) (c : Cmd) (mask : Nat) : State :=
  match c.ending, c.kind with
  | some (st, res), _ => endWith s f c res st
  | none, .shape => runShape s f c
  | none, .card => runCard s f c
  | none, .atom => runAtom s f c
  | none, .kvmap => runKvmap s f c
  | none, .alloc => runAlloc s f c
  | none, .free => runFree s f c
  | none, .stamp => s
  | none, .mtag => s
  | none, _ => if c.started then stepChunk s f c mask else beginChunk s f c

/-- A stream's command takes one step; a free choice may leave it for later (R328). -/
def runStream (s : State) (f : Nat) (c : Cmd) : State :=
  if !mayPerform s c then s
  else
    let d := draw s
    if d.1 % 2 = 1 then d.2 else usePorts (performStream d.2 f c (d.1 / 2)) f (smallWords c)

/-- R275. -/
def execFerryChunk (ferry stream : Nat) (s : State) : Host.Outcome State Fault Refusal :=
  .next (match (ferryOf s ferry).cmds.find? fun c => c.st = .stream stream with
    | some c => giveStreams (runStream s ferry c) ferry
    | none => s)

/-! ## Page arrival and copy-on-write (R276, R298, R311) -/

/-- R276: a parked command leaves its eddy and waits for a stream. -/
def resumeCmd (s : State) (f : Nat) (c : Cmd) : State := giveStreams (fillEddies (putCmd s f (releaseCmd c)) f) f

/-- R276, R286, R307: canopy reports that a command's address does not resolve. A result word that is still to be written goes
out of a stream. -/
def unresolved (s : State) (f : Nat) (c : Cmd) : State :=
  match c.kind, c.ending, failWord c 0x42 with
  | .stamp, _, _ => stampLost s f c
  | _, none, some res => resumeCmd s f { c with ending := some (0x42, res) }
  | _, _, _ => failCmd s f c 0x42 none

/-- R276: canopy serves a page fault of which it has been told, or reports that the address does not resolve. -/
def execPageArrive (ferry cmd : Nat) (resolved : Bool) (s : State) : Host.Outcome State Fault Refusal :=
  .next (match cmdOf s ferry cmd with
    | some c =>
      (match c.st with
       | .parked (some _) false _ _ => if resolved then resumeCmd s ferry c else unresolved s ferry c
       | _ => s)
    | none => s)

/-- R311: canopy copies a shared block into an idle one of the ASID on the same chip, which one being a free choice, and binds
the writing entry to it, which keeps its tier and every bit but the block number (log 94, DESIGN CHOICE); with no idle block the
command ends with 0x44, and with 0x42 where the owning chip or a frame is out of reach (R357). DEDUCED (log 94): while another chunk that
has translated through the entry has still to perform (R298), canopy waits and looks again in the next step, so that no such chunk
writes what the other entries read. -/
def copyOnWrite (s : State) (f : Nat) (c : Cmd) (va : Nat) : State :=
  let asid := cmdAsid s c
  match kvResolve s asid va with
  | none => failCmd s f c 0x42 none
  | some (x, blk) =>
    if blk.dref < 2 then resumeCmd s f c
    else if noRoute s (x / 2 ^ 40) || noRoute s (chipOf blk.frame) then failCmd s f c 0x42 none
    else if !(chunksThrough s asid (va / 4096) c.id).isEmpty then { s with inputs := s.inputs ++ [(s.gauge + 1, .cowService f c.id)] }
    else
      let idle := s.blocks.filter fun e => e.1 / 2 ^ 40 = x / 2 ^ 40 && e.2.owner = asid && e.2.dref = 0
      let d := draw s
      let s := d.2
      match idle[d.1 % idle.length]? with
      | none => failCmd s f c 0x44 none
      | some (y, dst) =>
        if noRoute s (chipOf dst.frame) then failCmd s f c 0x42 none else
        let e := kvOf s asid (kvPage va)
        let s := modBlock (copySpan s blk.frame dst.frame 4096) y fun b => { b with fp := none }
        resumeCmd (bindPage s asid (kvPage va) (word (setField e.toNat 0 40 (y % 2 ^ 40)))) f c

/-- R311. -/
def execCowService (ferry cmd : Nat) (s : State) : Host.Outcome State Fault Refusal :=
  .next (match cmdOf s ferry cmd with
    | none => s
    | some c =>
      match c.st with
      | .parked _ true va _ => copyOnWrite s ferry c va
      | _ => s)

/-! ## Stamps (R278-R280) -/

/-- R278: the first command of the batch, in entry order, that ended with an error. -/
def firstFail (fe : Ferry) (c : Cmd) : Option CmdFail :=
  minBy CmdFail.idx (fe.fails.filter fun b => b.core = c.core && b.ctx = c.ctx && b.batch = c.batch)

/-- R278: the stamp of a completed batch is due. -/
def stampDue (fe : Ferry) (c : Cmd) : Bool := c.kind = .stamp && streamHeld c < 4 && c.st = .stream (streamHeld c) && batchDone fe c

/-- R121, R289: the stamp shows a cancellation, its own or that of a command of its batch (log 40). -/
def stampCancelled (fe : Ferry) (c : Cmd) : Bool :=
  c.cancelled || fe.fails.any fun b => b.core = c.core && b.ctx = c.ctx && b.batch = c.batch && decide (b.status = 0x46)

/-- R121, R278, R279, R289: the bytes that a stamp writes: its word, and the detail word of an error. -/
def stampBytes (fe : Ferry) (c : Cmd) : List Byte :=
  let seq := field c.b.toNat 0 56
  let err (st : BitVec 7) (chunk idx : Nat) :=
    natToBytes 8 (stampForm st seq).toNat ++ natToBytes 8 (chunk % 2 ^ 32 + 2 ^ 32 * idx)
  match firstFail fe c with
  | some x => err (if stampCancelled fe c then 0x46 else x.status) x.chunk x.idx
  | none => if c.cancelled then err 0x46 0 c.idx else natToBytes 8 seq

/-- R278, R280: the detail word, if any, and the stamp word. -/
def writeStamp (s : State) (f : Nat) (c : Cmd) : State :=
  match smallWrite s f c c.a.toNat (stampBytes (ferryOf s f) c) with
  | (_, .ok s') => modFerry (finishCmd s' f c.id 0) f (closeBatch · c)
  | (m, .park a cow) => parkCmd s f (addTouched c m.2) a cow
  | (m, .held) => holdCmd s f (addTouched c m.2)
  | (_, .stop _ sec) => stampLost (poisonStat s c sec) f c

/-- R278: a due stamp that nothing holds back is written. -/
def execStampWrite (ferry cmd : Nat) (s : State) : Host.Outcome State Fault Refusal :=
  .next (match cmdOf s ferry cmd with
    | none => s
    | some c =>
      if stampDue (ferryOf s ferry) c && mayPerform s c then giveStreams (usePorts (writeStamp s ferry c) ferry (smallWords c)) ferry
      else s)

/-! ## Counted lines (R282, R283) -/

/-- R283: a counted line, of this ferry or of one with a lower number, already holds a port that the line needs in this step. -/
def lineClash (s : State) (c : Cmd) : Bool :=
  (lineBanks s c).any fun b => s.ferries.any fun f => f.2.banks.contains (s.gauge, b)

/-- The chunk that holds a line. -/
def lineChunk (c : Cmd) : Nat := c.line / 8

/-- R282: the source of the line in hand has been read. -/
def lineRead (c : Cmd) : Bool := decide (lineChunk c < c.chunk) || (c.started && c.toRead.isEmpty)

/-- R282: the chunk whose source a counted command reads next: that of the line in hand, and the next one once that is read. -/
def aheadOf (c : Cmd) : Cmd :=
  if lineRead c && decide (c.chunk = lineChunk c) && decide (4096 * (c.chunk + 1) < blockLen c) then
    { c with chunk := c.chunk + 1, started := false }
  else c

/-- R270, R282: the source of a chunk is checked and translated; where it is not, the buffers that it has touched so far come with the
status. DESIGN CHOICE (log 110): they count the command busy (R296) although the chunk does not begin. -/
def openCounted (s : State) (f : Nat) (c : Cmd) : Except (List (Nat × Nat) × BitVec 7 × Option Nat) Cmd :=
  let us := ((chunkPlaces s c).map fun p => (false, srcRaw s c p, srcUnit s c p)).eraseDups
  match touchAll s f c us ([], []) with
  | (m, .ok _) => .ok { addTouched c m.2 with xlat := m.1, started := true, toRead := (us.map fun u => u.2.2).eraseDups }
  | (m, .stop st sec) => .error (m.2, st, sec)
  | (m, _) => .error (m.2, 0x51, none)

/-- R249, R282: words of the source that a free choice picks are read. An error is what the command has touched, its status, and the
poisoned sector that was read. -/
def loadCounted (s : State) (f : Nat) (c : Cmd) (mask : Nat) : Except (List (Nat × Nat) × BitVec 7 × Option Nat) (State × Cmd) :=
  match if c.started then .ok c else openCounted s f c with
  | .error e => .error e
  | .ok c =>
    let pick := pickWords s mask c.toRead
    match readUnits s pick.1 c with
    | .ok c' => .ok (usePorts s f pick.1, { c' with toRead := pick.2 })
    | .error (u, e) =>
      let raw := (((chunkPlaces s c).find? fun p => srcUnit s c p = u).map (srcRaw s c)).getD false
      .error (c.touched, e, sectorOf s c raw c.xlat u e)

/-- R270, R282: one line is checked, translated and written; an error comes with what has been written. -/
def writeCounted (s : State) (f : Nat) (c : Cmd) : Except (BitVec 7 × State) State :=
  let ps := lineBytes s c
  let us := (ps.map (dstUnit s c)).eraseDups
  match touchAll s f c (us.map fun u => (true, false, u)) ([], []) with
  | (m, .ok _) =>
    let c := { c with xlat := m.1 }
    match writeRuns c (unitRuns (dstUnit s c) ps) (coversAll s c ps) us s with
    | .ok s => .ok s
    | .error (_, e) => .error e
  | (_, .stop st _) => .error (st, s)
  | _ => .error (0x51, s)

/-- The command after the line in hand. -/
def nextLine (c : Cmd) : Cmd :=
  let next := { c with line := c.line + 1 }
  if lineChunk next ≤ c.chunk then next else { next with started := false, buf := [], chunk := lineChunk next }

/-- R277, R283: a counted command ends at the line in hand. -/
def endCounted (s : State) (f : Nat) (c : Cmd) (status : BitVec 7) : State :=
  finishCmd (putCmd s f { c with chunk := lineChunk c }) f c.id status

/-- R282: a line that has its step and its source. -/
def performLine (s : State) (f : Nat) (c : Cmd) : State :=
  if lineClash s c then endCounted s f c 0x51
  else
    match writeCounted s f c with
    | .error (e, s) => endCounted s f c e
    | .ok s =>
      let s := modFerry s f fun y =>
        { y with banks := (y.banks.filter fun b => b.1 = s.gauge) ++ (lineBanks s c).map fun b => (s.gauge, b) }
      let s := countBytes s c (lineBytes s c).length
      let r := closeTiles s c (512 * (c.line + 1))
      let next := nextLine r.2
      let s := putCmd r.1 f next
      if blockLen c ≤ 512 * next.line then finishCmd s f c.id 0 else s

/-- R282: the source is read on, but for the words of a mask. What fails ahead of the line in hand is met again when its own
chunk is in hand. -/
def readAhead (s : State) (f : Nat) (c : Cmd) (mask : Nat) : State :=
  let n := aheadOf c
  if n.started && n.toRead.isEmpty then s
  else
    match loadCounted s f n mask with
    | .ok r => putCmd r.1 f r.2
    | .error (bs, e, sec) =>
      if e = 0x51 ∨ lineChunk c < n.chunk then putCmd s f (addTouched c bs) else endCounted (poisonStat s c sec) f c e

/-- R282, R283, R330: a counted command in a step: before the step of its next line its source is read, all that is left of it in the last
step before, and at its step the line performs, or is missed where its source has not been read; both wait for the context's earlier
accesses to its scratchpad. -/
def execCountedLine (ferry cmd : Nat) (s : State) : Host.Outcome State Fault Refusal :=
  .next (match cmdOf s ferry cmd with
    | none => s
    | some c =>
      if c.st ≠ .counted then s
      else
        let d := draw s
        let s := d.2
        let may := mayPerform s c
        if lineStep c < s.gauge then endCounted s ferry c 0x51
        else if lineStep c = s.gauge then
          (if may && lineRead c then performLine s ferry c else endCounted s ferry c 0x51)
        else if !may then s
        else if lineStep c = s.gauge + 1 then readAhead s ferry c 0
        else if d.1 % 2 = 0 then readAhead s ferry c (d.1 / 2)
        else s)

/-! ## Tag changes (R315) -/

/-- R315: the tag value is illegal for the buffer. -/
def tagIllegal (h : BitVec 512) (v : Word) : Bool :=
  let code := field v.toNat 0 3
  let fmt := if code = 7 then hFmt h else code
  let xp := if v.getLsbD 7 then hXp h else field v.toNat 3 2
  decide (v.toNat / 512 ≠ 0) || (v.getLsbD 7 && decide (field v.toNat 3 2 ≠ 0)) || (v.getLsbD 8 && v.getLsbD 6) ||
    decide ((1 ≤ code ∧ code ≤ 4) ∨ code = 6) ||
    (decide (code = 0 ∨ code = 5) && decide (hFmt h ≠ 0 ∧ hFmt h ≠ 5)) ||
    (hImm h && decide (fmt ≠ hFmt h ∨ xp ≠ hXp h)) || decide (fmt = 5 ∧ xp ≠ 3)

/-- R315: the header under a legal tag value. -/
def tagApplied (h : BitVec 512) (v : Word) : BitVec 512 :=
  let h := if field v.toNat 0 3 = 7 then h else hSet h 104 3 (field v.toNat 0 3)
  let h := if v.getLsbD 7 then h else hSet h 107 2 (field v.toNat 3 2)
  let h := if v.getLsbD 5 then hSet h 109 1 1 else h
  if v.getLsbD 8 then h else hSet h 110 1 (field v.toNat 6 1)

/-- R315: the status of a tag change, and the headers after it. -/
def applyTag (s : State) (c : Cmd) : BitVec 7 × State :=
  let asid := cmdAsid s c
  match locOf c.a.toNat with
  | .dev va =>
    if isKv va then (0x06, s)
    else
      match bufferAt s asid va with
      | none => (0x42, s)
      | some (bid, h) =>
        if hOwnerB h ≠ asid then (0x42, s)
        else if tagIllegal h c.b then (0x06, s)
        else (0, setHeader s asid bid (tagApplied h c.b))
  | _ => (0x42, s)

/-- R315: applies an FMTAG that has its stream and whose buffer's busy count is 0, as one step, and releases held transfers. -/
def execFmtagApply (ferry cmd : Nat) (s : State) : Host.Outcome State Fault Refusal :=
  .next (match cmdOf s ferry cmd with
    | none => s
    | some c =>
      if c.kind = .mtag ∧ c.st = .stream (streamHeld c) ∧ tagFree s c then
        let r := applyTag s c
        giveStreams (releaseHeld (finishCmd r.2 ferry cmd r.1)) ferry
      else s)

/-! ## Fences over ferry commands (R334, R335) -/

/-- The address that names a block, and the first and the last byte of each of its rows; a row that has both in one place lies in
it whole. -/
def rowEnds (h : BitVec 256) (a : Word) (pitch : Int) : List Nat :=
  a.toNat :: (List.range (shRows h)).flatMap fun r => [rowAddr a pitch r 0, rowAddr a pitch r (shRow h - 1)]

/-- R334: the shape by which a command is judged. One that an FSHAPE ahead is to load is not known yet, and the first byte alone
counts: the command may be covered, so the FENCE waits, and it is judged again by the shape that it gets (log 103). -/
def fenceShape (s : State) (c : Cmd) : BitVec 256 :=
  if !cmdIssued c && hasShape c.kind && shapeOpen (ferryOf s (ferryNo c.core)) c then BitVec.ofNat 256 (1 + 2 ^ 32) else shapeNow s c

/-- R334: where a command's destination lies, none for a kind that writes no bytes of memory. -/
def destEnds (s : State) (c : Cmd) : List Nat :=
  match c.kind with
  | .copy => rowEnds (fenceShape s c) c.b (shDpitch (fenceShape s c))
  | .quant => rowEnds (fenceShape s c) c.b (shDpitch (fenceShape s c))
  | .dedup => [c.b.toNat]
  | .stamp => [c.a.toNat]
  | .atom => [c.a.toNat]
  | .alloc => [c.b.toNat]
  | .free => [c.b.toNat]
  | .sum => [c.b.toNat]
  | _ => []

/-- R334: every unit of the block that a command moves, in all its chunks. -/
def blockUnits (s : State) (c : Cmd) : List (Bool × Bool × Nat) :=
  let c := { c with shape := fenceShape s c }
  if hasShape c.kind then
    ((List.range ((blockLen c + 4095) / 4096)).flatMap fun n => chunkUnits s { c with chunk := n }).eraseDups
  else []

/-- R306: the descriptor of the pool whose arena holds an address. -/
def descriptorOf (s : State) (asid x : Nat) : List Nat :=
  match headerAtAddr s asid x with
  | some h => if hFmt h = 0 ∧ hAux h ≠ 0 then [hAux h] else []
  | none => []

/-- R334: the words that a command accesses beside its block: records, descriptors, results, operands. -/
def sideUnits (s : State) (c : Cmd) : List (Bool × Bool × Nat) :=
  let asid := cmdAsid s c
  let words (write : Bool) (a n : Nat) : List (Bool × Bool × Nat) :=
    (List.range n).map fun i => let x := (a + i) % 2 ^ 64; (write, !write && rawAt s asid x false, unitOf s asid x)
  match c.kind with
  | .shape => words false c.a.toNat 32
  | .card => words false c.a.toNat 64
  | .stamp => words true c.a.toNat 16
  | .sum => words true c.b.toNat 8
  | .atom => words true c.a.toNat (if c.e < 16 then 4 else 8)
  | .dedup => words true c.b.toNat 8
  | .kvmap => words true c.a.toNat 8
  | .alloc => words true c.b.toNat 8 ++ words false c.a.toNat 64
  | .free => words true c.b.toNat 8 ++ (descriptorOf s asid c.a.toNat).flatMap fun d => words false d 64
  | _ => []

/-- R334: a device-virtual page lies on another device of the domain: its frame, or the chip that owns its block. -/
def pageAway (s : State) (asid p : Nat) : Bool :=
  if isKv (p * 4096) then
    (kvResolve s asid (p * 4096)).any fun b => decide (b.1 / 2 ^ 40 ≠ s.chip.toNat ∨ chipOf b.2.frame ≠ s.chip.toNat)
  else match walkFrom s asid (p * 4096) with
    | .page phys _ _ => decide (chipOf phys ≠ s.chip.toNat)
    | _ => false

/-- R334: some access of the command lies on another device of the domain: a stored byte of a unit, or a byte beside its data. An FKVMAP
also reaches the owning chip of the block that its new entry names (R300). -/
def leavesDevice (s : State) (c : Cmd) : Bool :=
  let asid := cmdAsid s c
  ((blockUnits s c ++ sideUnits s c).any fun u => match locOf u.2.2 with
    | .dev va => (spanOf (unitSpan s asid va)).any (pageAway s asid) ||
        (besideUnit s asid u.2.1 u.1 va).any fun a => pageAway s asid (a / 4096)
    | _ => false) ||
    (decide (c.kind = .kvmap) && kvValid c.b && decide (kvBlock c.b / 2 ^ 40 ≠ s.chip.toNat))

/-- The core of an address in spaces 0x1 to 0x3. -/
def coreOfAddr (a : Nat) : Option Nat :=
  match locOf a with
  | .spad k _ => some k
  | .tile k _ _ => some k
  | .isp k _ => some k
  | _ => none

/-- R334: the command's destination, every byte of it, lies in spaces 0x1 to 0x3 on cores that a test selects. -/
def destOn (s : State) (c : Cmd) (sel : Nat → Bool) : Bool :=
  let ends := destEnds s c
  !ends.isEmpty && ends.all fun a => (coreOfAddr a).any sel

/-- R334: a scope covers a ferry command of the context. -/
def fenceCovers (s : State) (scope : Nat) (c : Cmd) : Bool :=
  match scope with
  | 0 => false
  | 1 => destOn s c fun k => decide (k = c.core)
  | 2 => destOn s c fun k => decide (k / 8 = c.core / 8)
  | 3 => destOn s c (fun k => decide (k / 8 = c.core / 8)) || !leavesDevice s c
  | _ => true

/-- R334: ferry commands of the issuing context, in whichever of its starts, entered before this bundle, that a scope covers and that have
not completed. -/
def fenceCmds (s : State) (k x pos scope : Nat) : Nat :=
  ((ferryOf s (ferryNo k)).cmds.filter fun c =>
    c.core = k && c.ctx = x && (ctxOf s k x).gang = some c.gang && decide (c.pos < pos) && fenceCovers s scope c).length

/-- R334, R335: earlier scratchpad accesses of the context that have not read or performed, or that did so in this cycle. -/
def fenceAccs (s : State) (k x pos : Nat) : Bool :=
  ((coreOf s k).accs.any fun a => a.ctx = x && decide (a.pos < pos)) || decide ((ctxOf s k x).accCyc = some (coreOf s k).cyc)

/-- R334, R335: what a FENCE meets in this cycle. A pinned one waits only for scratchpad accesses, whose cycles are fixed;
0x55 is a bundle-level fault. -/
def fencePre (s : State) (scope : Nat) : Pre :=
  let n := fenceCmds s s.cur.core s.cur.ctx s.cur.pos scope
  if fenceAccs s s.cur.core s.cur.ctx s.cur.pos then .wait s
  else if n = 0 then .ok
  else if (curCore s).pinned then .level 0x55 (word n) 0 0
  else .wait s

/-- R334: a FENCE whose covered accesses are done has no further effect. -/
def execFence (g : BitVec 4) (sc : BitVec 3) (s : State) : Host.Outcome State Fault Refusal :=
  runSlot (.fence g sc) .S s (fun s => fencePre s sc.toNat) id

end Sys2Proof.Machine
end

