-- ==== Sys2Proof/Machine/Meeting.lean ====
section
/-! DEFINITION. Pipes, confluences and waits on them and on scratchpad words (R258-R262, R281). -/
namespace Sys2Proof.Machine

/-- The cluster-wide key of a pipe as the issuing core names it. -/
def pipeKey (s : State) (p : BitVec 6) : Nat := 64 * (s.cur.core / 8) + p.toNat
/-- The key of a confluence of the issuing core. -/
def confKey (s : State) (c : BitVec 9) : Nat := 512 * s.cur.core + c.toNat

/-- How the S slot ends its context's run at this bundle (R116). -/
def setFin (s : State) (f : EndKind) : State := { s with cur := { s.cur with fin := f } }

/-- A wait: a condition that holds makes the bundle a yield-like switch point; otherwise the context parks after it. -/
def waitOn (s : State) (holds : Bool) (w : Wait) : State :=
  if holds then setFin s .met
  else setFin (modCurCtx s fun c => { c with life := .parked w }) (.parks w)

/-! ## Pipes (R258-R260) -/

/-- R186: a bound pipe is read only by the TICKs of its signal. -/
def boundPre (s : State) (p : BitVec 6) : Pre :=
  if (pipeOf s (pipeKey s p)).bound.isSome then .fault 0x23 (zext64 p) 0 0 else .ok

/-- R259: pipe operations of one bundle act in the order V0, V1. DEDUCED (log 96): only on one pipe, where the order can be seen. -/
def pipeTurn (s : State) (sl : VSlot) (p : BitVec 6) : Pre :=
  if behindV0 s sl.slot fun i => pipeNamed i = some p then .wait s else .ok

/-- R259: a full pipe is 0x36 in pinned mode; in elastic mode the slot waits. -/
def fullPre (s : State) (p : BitVec 6) : Pre :=
  let y := pipeOf s (pipeKey s p)
  if 16 ≤ y.entries.length + y.inflight then
    (if (curCore s).pinned then .fault 0x36 (zext64 p) 0 0 else .wait s)
  else .ok

/-- R259: an empty pipe is 0x37 in pinned mode; in elastic mode the slot waits. -/
def emptyPre (s : State) (p : BitVec 6) : Pre :=
  if (pipeOf s (pipeKey s p)).entries.isEmpty then
    (if (curCore s).pinned then .fault 0x37 (zext64 p) 0 0 else .wait s)
  else .ok

/-- R259: an entry is taken at issue; the sample is visible at issue+4. -/
def execPsend (sl : VSlot) (g : BitVec 4) (a : BitVec 5) (p : BitVec 6) (s : State) :
    Host.Outcome State Fault Refusal :=
  runSlot (.psend sl g a p) sl.slot s (fun s => (pipeTurn s sl p).andThen (fullPre s p)) fun s =>
    let q := pipeKey s p
    push (setPipe s q { pipeOf s q with inflight := (pipeOf s q).inflight + 1 }) sl.slot 4 (.pipe q (vsrc s sl.slot a))

/-- R259: the visible head is removed at issue. -/
def execPtake (sl : VSlot) (g : BitVec 4) (d : BitVec 5) (p : BitVec 6) (s : State) :
    Host.Outcome State Fault Refusal :=
  runSlot (.ptake sl g d p) sl.slot s (fun s => (boundPre s p).andThen ((pipeTurn s sl p).andThen (emptyPre s p))) fun s =>
    let q := pipeKey s p
    let y := pipeOf s q
    push (setPipe s q { y with entries := y.entries.tail }) sl.slot 2 (.vreg (vbase sl.slot + d.toNat) (y.entries.headD 0))

/-- R259: the visible head stays. -/
def execPlook (sl : VSlot) (g : BitVec 4) (d : BitVec 5) (p : BitVec 6) (s : State) :
    Host.Outcome State Fault Refusal :=
  runSlot (.plook sl g d p) sl.slot s (fun s => (boundPre s p).andThen ((pipeTurn s sl p).andThen (emptyPre s p))) fun s =>
    push s sl.slot 2 (.vreg (vbase sl.slot + d.toNat) ((pipeOf s (pipeKey s p)).entries.headD 0))

/-- R260. -/
def execWaitp (g : BitVec 4) (p : BitVec 6) (s : State) : Host.Outcome State Fault Refusal :=
  runSlot (.waitp g p) .S s (fun s => boundPre s p) fun s =>
    waitOn s (!(pipeOf s (pipeKey s p)).entries.isEmpty) (.pipe p.toNat)

/-! ## Confluences (R261, R262) -/

def armedAt (c : Ctx) (n : Nat) : Bool := mapGet false c.armed n
def ticketAt (c : Ctx) (n : Nat) : BitVec 8 := mapGet 0 c.ticket n

/-- R342: detail of 0x38. -/
def confDetail (s : State) (n : BitVec 9) : Word :=
  let c := curCtx s
  word (n.toNat + (if armedAt c n.toNat then 2 ^ 16 else 0) + 2 ^ 24 * (ticketAt c n.toNat).toNat
    + 2 ^ 32 * (confOf s (confKey s n)).g.toNat)

/-- R262: the scratchpad writes of earlier bundles, issued and still to perform, that an arrival of the issuing context
counts after; those that slip behind it are waited for too (`arrivalDue`). -/
def writesAhead (s : State) : List Nat :=
  ((curCore s).accs.filter fun a => a.ctx = s.cur.ctx && isWrite a && !isRequest a && decide (a.pos < s.cur.pos)).map Access.seq

/-- R262: arms the context and takes its ticket; the arrival counts later. -/
def execArrive (g : BitVec 4) (n : BitVec 9) (s : State) : Host.Outcome State Fault Refusal :=
  runSlot (.arrive g n) .S s
    (fun s => if armedAt (curCtx s) n.toNat then .fault 0x38 (confDetail s n) 0 0 else .ok)
    fun s =>
      let t := (confOf s (confKey s n)).g
      let ahead := writesAhead s
      push (modCurCtx s fun c => { c with armed := mapSet false c.armed n.toNat true, ticket := mapSet 0 c.ticket n.toNat t })
        .S 1 (.arrive n.toNat ahead)

/-- R262: a wait for the generation to pass the ticket. -/
def execWaitc (g : BitVec 4) (n : BitVec 9) (s : State) : Host.Outcome State Fault Refusal :=
  runSlot (.waitc g n) .S s
    (fun s => if armedAt (curCtx s) n.toNat then .ok else .fault 0x38 (confDetail s n) 0 0)
    fun s =>
      let passed := (confOf s (confKey s n)).g ≠ ticketAt (curCtx s) n.toNat
      let s := if passed then modCurCtx s fun c => { c with armed := mapSet false c.armed n.toNat false } else s
      waitOn s passed (.conf n.toNat)

/-- R262: the arrivals at a confluence that may be counted, in ascending context number. -/
def arrivalsAt (c : CoreSt) (conf : Nat) : List Pend :=
  sortBy Pend.ctx (c.pend.filter fun p => arrivalDue c p &&
    (match p.eff with
     | .arrive n _ => n = conf
     | _ => false))

/-- R262: one arrival at a confluence of a core is counted, if one is due. -/
def execArriveCount (core conf : Nat) (s : State) : Host.Outcome State Fault Refusal :=
  .next (match arrivalsAt (coreOf s core) conf with
    | [] => s
    | p :: _ =>
      countArrival (modCore s core fun c => { c with pend := c.pend.filter fun q => decide (q.seq ≠ p.seq) || !isArrival q }) core conf)

/-! ## Waiting for a word (R281) -/

/-- R349: a poisoned word that MWAIT would read. -/
def wordPoisonPre (s : State) (a : Word) : Pre :=
  if spadPoisoned (coreOf s (spadTarget s.cur.core a)) (spadOff a) 8 then .fault 0x7D (word 7) (word (spadByte a (spadOff a))) 0 else .ok

/-- R281: bits 55:0 of the word are compared; bits 63:56 are ignored. -/
def execMwait (g : BitVec 4) (a b : BitVec 5) (s : State) : Host.Outcome State Fault Refusal :=
  runSlot (.mwait g a b) .S s
    (fun s =>
      let x := sregOf (curCtx s) a.toNat
      (addrPre s x 8).andThen ((spadPendingPre s x 8).andThen (wordPoisonPre s x)))
    fun s =>
      let x := sregOf (curCtx s) a.toNat
      let v := (sregOf (curCtx s) b.toNat).setWidth 56
      let t := spadTarget s.cur.core x
      waitOn s (readNat (coreOf s t).spad (spadOff x) 7 = v.toNat) (.word t (spadOff x) v)

end Sys2Proof.Machine
end

