-- ==== Sys2Proof/Machine/Contexts.lean ====
section
/-! DEFINITION. Control registers, and the life of a context: starts, RETIRE, SPAWN, FRESUME
(R13, R120, R122-R126, R131, R132, R263). -/
namespace Sys2Proof.Machine

/-! ## Control registers (R131, R132) -/

def bit (b : Bool) (n : Nat) : Nat := if b then 2 ^ n else 0

/-- R131: SV mirrors the starved bits of the context's signals. -/
def svBit (c : CoreSt) (x : Nat) : Bool := c.sigs.any fun e => e.2.owner = x && e.2.starved

/-- The launch id of the gang that holds a context. -/
def gangId (s : State) (c : Ctx) : Word := ((c.gang.bind (gangOf s)).map Gang.id).getD 0

/-- R131: a control register as it reads at issue; reserved indices read 0. -/
def ctlGet (s : State) (k x n : Nat) : Word :=
  let c := ctxOf s k x
  match n with
  | 0 => c.tick
  | 1 => handleOf k x c.epoch
  | 2 => word k
  | 3 => gangId s c
  | 4 => zext64 c.prio
  | 5 => word (bit c.pinReq 0 + bit c.pinCur 8)
  | 6 => zext64 c.pauseBound
  | 7 => word (bit c.stRS 0 + bit c.stEV 1 + bit c.stWD 2 + bit (svBit (coreOf s k) x) 3)
  | 8 => c.faultrec
  | 9 => c.handlerFor
  | 10 => c.cardack
  | 11 => zext64 c.phase
  | 12 => c.startStep
  | 13 => word c.entry
  | 14 => c.dimage
  | _ => if 16 ≤ n ∧ n ≤ 23 then mapGet 0 c.args (n - 16) else 0

/-- R132. -/
def execCtlrd (g : BitVec 4) (d : BitVec 5) (n : BitVec 6) (s : State) : Host.Outcome State Fault Refusal :=
  runSlot (.ctlrd g d n) .S s noPre fun s => pushS s .S 1 d (ctlGet s s.cur.core s.cur.ctx n.toNat)

/-- R132 row 1: a reserved index, or a nonzero reserved bit. -/
def ctlReserved (n v : Nat) : Bool :=
  n = 15 || decide (24 ≤ n) ||
    (match n with
     | 4 => decide (v / 4 ≠ 0)
     | 5 => decide (v / 2 % 128 ≠ 0 ∨ v / 512 ≠ 0)
     | 6 => decide (v / 2 ^ 32 ≠ 0)
     | 7 => decide (v / 16 ≠ 0)
     | 11 => decide (v / 16 ≠ 0)
     | _ => false)

/-- R132 row 2: a read-only index, or a value outside the access column. -/
def ctlRefused (c : Ctx) (n v : Nat) : Bool :=
  match n with
  | 4 => decide (c.launchPrio.toNat < v)
  | 5 => false
  | 6 => decide (v < 64) || decide (c.pauseBound.toNat < v)
  | 7 => false
  | 10 => false
  | 11 => false
  | _ => !(decide (16 ≤ n) && decide (n ≤ 23))

/-- R129, R132 row 3: the card that a context has been delivered under its current sequence and has not acknowledged. -/
def cardAt (s : State) (k x : Nat) (v : Word) : Option Card :=
  s.cards.find? fun y =>
    match y.st with
    | .delivered k' x' _ q =>
      k' = k && x' = x && q = v && decide ((ctxOf s k x).delivery = v) && decide ((ctxOf s k x).gang = some y.gang)
    | _ => false

/-- R132: the checks of CTLWR. -/
def ctlPre (s : State) (n : Nat) (v : Word) : Pre :=
  if ctlReserved n v.toNat then .fault 0x06 0 0 0
  else if ctlRefused (curCtx s) n v.toNat then .fault 0x72 (word n) v 0
  else if n = 10 ∧ (cardAt s s.cur.core s.cur.ctx v).isNone then .fault 0x74 v 0 0
  else .ok

/-- R129: an accepted acknowledgement; the card now waits for the commands issued before it. -/
def ackCard (s : State) (k x : Nat) (v : Word) : State :=
  match cardAt s k x v with
  | none => s
  | some y => { s with cards := s.cards.map fun z => if z.key = y.key then { z with st := .acked k x s.seq } else z }

/-- R132: the register is written at issue+1; an acknowledgement, and the phase of the occupancy counts (R133), act at
issue. -/
def execCtlwr (g : BitVec 4) (d : BitVec 5) (n : BitVec 6) (s : State) : Host.Outcome State Fault Refusal :=
  runSlot (.ctlwr g d n) .S s (fun s => ctlPre s n.toNat (sregOf (curCtx s) d.toNat)) fun s =>
    let v := sregOf (curCtx s) d.toNat
    let s := if n = 10 then ackCard s s.cur.core s.cur.ctx v else s
    let s := if n = 11 then modCurCtx s fun c => { c with occPhase := v.setWidth 4 } else s
    push s .S 1 (.ctl n.toNat v)

/-! ## Starting a context (R13, R115, R122, R124, R130, R263) -/

/-- R13: the registers of a context at a start: zero, but for the values that R131 gives a launch. Its occupancy counts, its
epoch and its starts, its place, and the cycles by which its beats and accesses have acted stay, and so does its open batch, which only an
FSTAMP closes (R278). -/
def freshCtx (c : Ctx) (g : Gang) (key : Nat) (e : Entry) (idx off : Nat) : Ctx :=
  { gang := some key, role := e.role, epoch := c.epoch, starts := c.starts, prio := g.prio, launchPrio := g.prio,
    pinReq := e.pinned, pinCur := e.pinned, pauseBound := BitVec.ofNat 32 e.pauseBound, faultrec := g.faultarea + word (64 * idx),
    startStep := word g.start, entry := idx, dimage := g.dimage,
    args := (e.args.mapIdx fun i v => (i, v)).foldl (fun m a => mapSet 0 m a.1 a.2) [],
    liveHalf := regionOf off = 1, seqNext := off, npos := c.npos, spos := List.replicate 6 c.npos,
    occ := c.occ, occF := c.occF, batch := c.batch, batchIdx := c.batchIdx, delivery := c.delivery, life := c.life, beatEnd := c.beatEnd,
    accCyc := c.accCyc }

/-- R148, R261, R341, R346: what a handler start and a server's wake do not clear: the cycle count, armed bits and tickets, the
count of faults and the statistics queue. Only a launch, a SPAWN and a watchdog restart do. -/
def keepCounts (old new : Ctx) : Ctx :=
  { new with cycles := old.cycles, armed := old.armed, ticket := old.ticket, nfault := old.nfault, statq := old.statq,
             statNew := old.statNew }

/-- A place of a context's registers or queues. -/
def isCtxPlace (x : Nat) (p : Place) : Bool :=
  match p with
  | .sreg y _ => y = x
  | .flag y _ => y = x
  | .vreg y _ => y = x
  | .mask y _ => y = x
  | .basin y _ => y = x
  | .lqs y _ => y = x
  | .lqv y _ => y = x
  | _ => false

/-- R13, R349: clearing a context's registers clears their poison. -/
def clearCtxPoison (s : State) (k x : Nat) : State :=
  modCore s k fun c => { c with poison := c.poison.filter fun p => !isCtxPlace x p }

/-- The entry of a gang that a context serves. -/
def entryOf (g : Gang) (idx : Nat) : Option Entry := g.entries[idx]?

/-- Clears a context for a start and sets its state; the epoch counts the start (R123). `host`: a handler start (R124). -/
def restartCtx (s : State) (k x : Nat) (off : Nat) (life : Life) (host : Bool := false) : State :=
  let c := ctxOf s k x
  match c.gang.bind fun key => (gangOf s key).map fun g => (key, g) with
  | none => s
  | some (key, g) =>
    match entryOf g c.entry with
    | none => s
    | some e =>
      let new := { freshCtx c g key e c.entry off with epoch := c.starts + 1, starts := c.starts + 1, life := life }
      let s := setCtx (clearCtxPoison s k x) k x (if host then keepCounts c new else new)
      { s with seq := s.seq + 1 }

/-! ## RETIRE (R120) -/

/-- R120, at issue: the context's register results in flight are discarded and it is retired or idle. Its queues are
emptied with the end of its bundle, whose other slots commit. -/
def execRetire (g : BitVec 4) (s : State) : Host.Outcome State Fault Refusal :=
  runSlot (.retire g) .S s noPre fun s =>
    let x := s.cur.ctx
    let s := modCurCtx s fun c => { c with life := if c.role = 0 then .retired else .idle }
    setFin (modCurCore s fun c => { c with pend := c.pend.filter fun p => !(p.ctx = x && isRegisterEff p.eff) }) .retires

/-! ## SPAWN (R122) -/

/-- The entry that a SPAWN names, when it is a dormant context of the gang. -/
def spawnEntry (s : State) (e : Word) : Option Entry :=
  (curCtx s).gang.bind (gangOf s) |>.bind fun g => (g.entries[e.toNat]?).bind fun y => if y.role = 1 then some y else none

/-- R122: an idle dormant context is cleared and starts at least 64 gauge steps on, how many more being a free choice; a busy
one gives 0. -/
def execSpawn (g : BitVec 4) (d a b : BitVec 5) (s : State) : Host.Outcome State Fault Refusal :=
  runSlot (.spawn g d a b) .S s
    (fun s =>
      let e := sregOf (curCtx s) a.toNat
      if (spawnEntry s e).isNone then .fault 0x73 e 0 0 else .ok)
    fun s =>
      match spawnEntry s (sregOf (curCtx s) a.toNat) with
      | none => s
      | some y =>
        let arg := sregOf (curCtx s) b.toNat
        if (ctxOf s y.core y.ctx).life ≠ .idle then pushS s .S 24 d 0
        else
          let r := draw s
          let s := restartCtx r.2 y.core y.ctx y.offset (.starting (s.gauge + 64 + r.1) false)
          let s := modCtx s y.core y.ctx fun c => { c with args := mapSet 0 c.args 0 arg }
          pushS s .S 24 d (ctxHandle s y.core y.ctx)

/-! ## FRESUME (R126, R343, R344) -/

/-- R126: the context of the gang that a handle names, when it is stopped by a fault and the handle is not stale. -/
def resumeTarget (s : State) (h : Word) : Option (Nat × Nat) :=
  let x := field h.toNat 0 3
  let k := field h.toNat 3 8
  let c := ctxOf s k x
  if c.gang.isSome ∧ c.gang = (curCtx s).gang ∧ c.life = .stopped ∧ c.fault.isSome ∧ h = handleOf k x c.epoch then some (k, x)
  else none

/-- Takes an entry out of its gang's fault queue. -/
def unqueue (s : State) (k x : Nat) : State :=
  let c := ctxOf s k x
  match c.gang with
  | some key => modGang s key fun g => { g with queue := g.queue.filter fun i => i ≠ c.entry }
  | none => s

/-- The header of a faulted bundle, none for a bubble of a zero-count loop. -/
def faultHeader (s : State) (k x : Nat) : Word32 :=
  let c := ctxOf s k x
  match c.fault with
  | some f => if (nextBundle c).2.1 then 0 else headerAt (coreOf s k) f.bundle
  | none => 0

/-! ## Faults in their order (R343, R379) -/

/-- R343, R379: order of faults. -/
def faultRank (f : FirstFault) : Nat := ((f.step * 2 ^ 10 + f.core) * 2 ^ 80 + f.cycle) * 8 + f.ctx

/-- The earlier of two faults. -/
def earlier (a b : Option FirstFault) : Option FirstFault :=
  match a, b with
  | some x, some y => if faultRank y < faultRank x then some y else some x
  | some x, none => some x
  | none, y => y

/-- A context's fault as its gang counts it. -/
def asFirst (k x : Nat) (c : Ctx) (f : FaultInfo) : FirstFault :=
  { step := f.step, core := k, cycle := f.cycle, ctx := x, cause := f.cause, entry := c.entry, slots := f.slots,
    bundle := ispGlobal k f.bundle }

/-- R343: a handler is retired while the context it serves is still stopped: that context retires too, and its fault stays
unserved; one that was itself a handler takes the context that it serves with it. -/
def retireServed : Nat → State → Nat → Nat → Nat → State
  | 0, s, _, _, _ => s
  | n + 1, s, key, k, x =>
    match gangOf s key with
    | none => s
    | some g =>
      g.entries.foldl (fun s e =>
        let c := ctxOf s e.core e.ctx
        match c.fault with
        | some f =>
          if f.host = some (k, x) ∧ c.life = .stopped then
            let s := modGang s key fun g => { g with unserved := earlier g.unserved (some (asFirst e.core e.ctx c f)) }
            retireServed n (retireCtx s e.core e.ctx) key e.core e.ctx
          else s
        | none => s) s

/-- R126: what FRESUME does to the stopped context; the fault is served. -/
def resumeAs (s : State) (k x : Nat) (how : BitVec 11) : State :=
  let s := unqueue s k x
  match how.toNat with
  | 0 => resumeFault s k x .resume (faultHeader s k x)
  | 1 => resumeFault s k x .skip (faultHeader s k x)
  | _ =>
    let s := modCtx (retireCtx s k x) k x fun c => { c with stRS := true }
    match (ctxOf s k x).gang with
    | some key => retireServed 65 s key k x
    | none => s

/-- R126. -/
def execFresume (g : BitVec 4) (a : BitVec 5) (how : BitVec 11) (s : State) : Host.Outcome State Fault Refusal :=
  runSlot (.fresume g a how) .S s
    (fun s =>
      let h := sregOf (curCtx s) a.toNat
      if (resumeTarget s h).isSome then .ok else .fault 0x74 h 0 0)
    fun s =>
      match resumeTarget s (sregOf (curCtx s) a.toNat) with
      | some (k, x) => resumeAs s k x how
      | none => s

end Sys2Proof.Machine
end

