-- ==== Sys2Proof/Machine/Gangs.lean ====
section
/-! DEFINITION. Gangs: their end, termination, and what the scheduler does with faults (R121, R124, R125, R338-R343, R352). -/
namespace Sys2Proof.Machine

/-! ## The end of a gang (R121) -/

/-- The entries of a gang with their indices. -/
def entriesIx (g : Gang) : List (Nat × Entry) := g.entries.mapIdx fun i e => (i, e)

/-- R121: the context is running or stopped by a fault. -/
def lifeRuns (l : Life) : Bool :=
  match l with
  | .free => false
  | .idle => false
  | .retired => false
  | _ => true

/-- R121: every start-role context has retired and no other context is running or stopped. -/
def gangOver (s : State) (g : Gang) : Bool :=
  g.entries.all fun e => !lifeRuns (ctxOf s e.core e.ctx).life

/-- R121: results and accesses of a gang's contexts that are still under way, as core and number. -/
def underWay (s : State) (g : Gang) : List (Nat × Nat) :=
  g.entries.flatMap fun e =>
    let c := coreOf s e.core
    ((c.pend.filter fun p => p.ctx = e.ctx).map fun p => (e.core, p.seq)) ++
      ((c.accs.filter fun a => a.ctx = e.ctx).map fun a => (e.core, a.seq))

/-- The fault of a context is still to be recorded. -/
def faultOpen (c : Ctx) : Bool := c.fault.any fun f => !f.recorded

/-- R338: results that quiescence waits for. -/
def quietWaits (p : Pend) : Bool :=
  match p.eff with
  | .sigFeed _ _ => false
  | .sigClear _ => false
  | .pipe _ _ => false
  | .arrive _ _ => false
  | .tile _ _ _ _ => false
  | .wake _ _ => false
  | _ => true

/-- R121, R340: the fault of a context that is about to be released, with what its record needs. -/
def openFault (s : State) (e : Entry) : Option OpenFault :=
  let c := ctxOf s e.core e.ctx
  let k := coreOf s e.core
  match c.fault with
  | some f =>
    if f.recorded then none
    else some
      { core := e.core, ctx := e.ctx, entry := c.entry, handle := ctxHandle s e.core e.ctx, nfault := c.nfault,
        pending := !c.deferred.isEmpty,
        waits := (k.pend.filter fun p => p.ctx = e.ctx && quietWaits p).map Pend.seq ++
          (k.accs.filter fun a => a.ctx = e.ctx).map Access.seq,
        info := f }
  | none => none

/-- R121: results towards signals, grove slots, confluences and pipes, which are released at once. -/
def isLost (p : Pend) : Bool :=
  match p.eff with
  | .sigFeed _ _ => true
  | .sigClear _ => true
  | .seed _ _ => true
  | .grove _ _ _ _ => true
  | .arrive _ _ => true
  | .pipe _ _ => true
  | _ => false

/-- R121: a context is released when its gang ends, with its signals and grove slots. What it has in flight towards tiles and
scratchpads goes on, as that of no context (number 8). -/
def releaseCtx (s : State) (k x : Nat) : State :=
  modCore (dropIssuer s k x) k fun c =>
    { putCtx c x { ctxIn c x with life := .free, gang := none, fault := none } with
      sigs := c.sigs.filter fun e => e.2.owner ≠ x
      groves := c.groves.map fun e => (e.1, if e.2.owner = some x then { e.2 with owner := none } else e.2)
      pend := (c.pend.filter fun p => !(p.ctx = x && isLost p)).map fun p => if p.ctx = x then { p with ctx := 8 } else p
      accs := c.accs.map fun a => if a.ctx = x then { a with ctx := 8 } else a
      jobs := c.jobs.map fun j => if j.ctx = x then { j with ctx := 8 } else j }

/-- R121, R258: pipes and confluences of an ended gang are released at once, a pipe without its entries. -/
def releaseMeeting (s : State) (key : Nat) : State :=
  { s with pipes := s.pipes.map fun e => (e.1, if e.2.gang = some key then {} else e.2)
           confs := s.confs.map fun e => (e.1, if e.2.gang = some key then { e.2 with gang := none } else e.2) }

/-- R121: the gang ends: its waiting commands are cancelled and its resources, but for tiles and ranges that are still
written, are released. What a cancelled command counts belongs to the counts of its context (R133). -/
def endGang (s : State) (key : Nat) : State :=
  match gangOf s key with
  | none => s
  | some g =>
    if g.st = .ending then s
    else
      let s := modGang s key fun g =>
        { g with st := .ending, tail := underWay s g, queue := [], evict := false, ckpt := false,
                 handles := g.entries.map fun e => ctxHandle s e.core e.ctx,
                 openFaults := g.entries.filterMap (openFault s) }
      let s := cancelWhere s fun c => c.gang = key
      let s := modGang s key fun g => { g with occEnd := occNow s g }
      releaseMeeting (g.entries.foldl (fun s e => releaseCtx s e.core e.ctx) s) key

/-- R121: ends a running gang whose contexts are done. -/
def checkEnd (s : State) (key : Nat) : State :=
  match gangOf s key with
  | some g => if g.st = .running ∧ gangOver s g then endGang s key else s
  | none => s

/-! ## Faults of a gang (R125, R343) -/

/-- R125: the earliest fault of a gang that no handler has served. -/
def earliestOpen (s : State) (g : Gang) : Option FirstFault :=
  g.entries.foldl (fun a e =>
    let c := ctxOf s e.core e.ctx
    earlier a (c.fault.map (asFirst e.core e.ctx c))) g.unserved

/-- R120, R125, R341: a context stops as RETIRE would, keeping a fault that is still to be recorded, whose record tells whether causes
are pending. -/
def stopCtx (s : State) (k x : Nat) : State :=
  let c := ctxOf s k x
  let s := dropIssuer (retireCtx s k x) k x
  modCtx s k x fun t => { t with life := .retired, fault := c.fault.bind fun y => if y.recorded then none else some y
                                 deferred := c.deferred }

/-- R125, R352: terminates a gang. A status of 0 leaves the cause of the earliest unserved fault as its status. -/
def terminateGang (s : State) (key : Nat) (status : BitVec 7) : State :=
  match gangOf s key with
  | none => s
  | some g =>
    if g.st = .ending then s
    else
      let open' := earliestOpen s g
      let s := modGang s key fun g => { g with unserved := open', status := if status = 0 then g.status else status }
      endGang (g.entries.foldl (fun s e => stopCtx s e.core e.ctx) s) key

/-- R134, R343: a gang counts a new fault; with no handler it is terminated (R125). -/
def noteFault (s : State) (k x : Nat) : State :=
  let c := ctxOf s k x
  match c.fault, c.gang with
  | some f, some key =>
    let s := modGang s key fun g =>
      { g with faults := min 255 (g.faults + 1), first := earlier g.first (some (asFirst k x c f)) }
    if (gangOf s key).any fun g => g.handler.isNone then terminateGang s key 0 else s
  | _, _ => s

/-! ## Handler hosts (R124) -/

/-- R124: a host for a fault on a core: an idle handler on the core, the idle handler of lowest placement, or another
retired or idle context, the faulting core first. -/
def chooseHost (s : State) (g : Gang) (k : Nat) : Option Entry :=
  let free (e : Entry) : Bool :=
    match (ctxOf s e.core e.ctx).life with
    | .idle => true
    | .retired => true
    | _ => false
  let rank (e : Entry) : Nat :=
    (if e.role = 2 then 0 else 2 ^ 16) + (if e.core = k then 0 else 2 ^ 15) + placement e.core e.ctx
  minBy rank (g.entries.filter free)

/-- R124: prepares a host for the fault of a context. It starts at least 64 steps after the fault, and how much later is a
free choice. -/
def startHost (s : State) (key : Nat) (g : Gang) (h : Entry) (k x : Nat) : State :=
  match (ctxOf s k x).fault with
  | none => s
  | some f =>
    let off := g.handler.getD 0
    let c := ctxOf s k x
    let rec' := faultSlot g c.entry
    let hdl := ctxHandle s k x
    let d := draw s
    let s := restartCtx d.2 h.core h.ctx off (.starting (max (f.step + 64) (s.gauge + 1) + d.1) true) true
    let s := modCtx s h.core h.ctx fun y => { y with handlerFor := hdl, faultrec := rec' }
    let s := modCtx s k x fun y => { y with fault := y.fault.map fun f => { f with host := some (h.core, h.ctx) } }
    modGang s key fun g => { g with queue := g.queue.filter fun i => i ≠ c.entry }

/-- The stopped context of an entry. -/
def entryFault (s : State) (g : Gang) (i : Nat) : Option (Nat × Nat × FaultInfo) :=
  (g.entries[i]?).bind fun e => (ctxOf s e.core e.ctx).fault.map fun f => (e.core, e.ctx, f)

/-- R124: queued faults are served, oldest first, while a host is free. -/
def serveQueue : Nat → Nat → State → State
  | 0, _, s => s
  | n + 1, key, s =>
    match gangOf s key with
    | none => s
    | some g =>
      match g.queue with
      | [] => s
      | i :: _ =>
        match entryFault s g i with
        | none => serveQueue n key (modGang s key fun g => { g with queue := g.queue.tail })
        | some (k, x, _) =>
          match chooseHost s g k with
          | none => s
          | some h => serveQueue n key (startHost s key g h k x)

/-- R124, R343: enters a fault into its gang's queue. -/
def queueFault (s : State) (key : Nat) (g : Gang) (i : Nat) : State :=
  let rank (j : Nat) : Nat :=
    match entryFault s g j with
    | some (k, x, f) => faultRank (asFirst k x (ctxOf s k x) f)
    | none => 0
  modGang s key fun g => { g with queue := insertBy rank i g.queue }

/-- R120, R121, R124: a context of a gang has retired. -/
def afterRetire (s : State) (key k x : Nat) : State :=
  checkEnd (serveQueue 65 key (retireServed 65 s key k x)) key

/-! ## Quiescence and the record (R338, R340) -/

/-- R338: the results and accesses of a context that quiescence waits for have landed and performed. -/
def isQuiet (s : State) (k x : Nat) : Bool :=
  let c := coreOf s k
  !(c.pend.any fun p => p.ctx = x && quietWaits p) && !(c.accs.any fun a => a.ctx = x && !isRequest a)
    && !(c.jobs.any fun j => j.ctx = x && j.dest.isNone && !j.mute)
    && (ctxIn c x).lqs.all (fun e => e.val.isSome || e.ferry) && (ctxIn c x).lqv.all fun e => e.val.isSome

/-- The first step in which a stopped context is quiescent. -/
def noteQuiet (s : State) (k x : Nat) : State :=
  modCtx s k x fun c =>
    match c.fault with
    | some f => if f.quiet.isNone && isQuiet s k x then { c with fault := some { f with quiet := some s.gauge } } else c
    | none => c

/-- R338: the first step in which a context that its gang's end has released is quiescent. -/
def noteOpen (s : State) (o : OpenFault) : OpenFault :=
  let k := coreOf s o.core
  let going (n : Nat) : Bool := (k.pend.any fun p => p.seq = n) || k.accs.any fun a => a.seq = n
  if o.info.quiet.isNone && !o.waits.any going then { o with info := { o.info with quiet := some s.gauge } } else o

/-- R340: the record of such a fault is due. -/
def openDue (s : State) (o : OpenFault) : Bool := o.info.quiet.any fun q => decide (q < s.gauge)

/-- R340: the faults of released contexts whose records are due, with their gangs. -/
def openRecords (s : State) : List (Nat × OpenFault) :=
  s.gangs.flatMap fun g => (g.2.openFaults.filter (openDue s)).map fun o => (g.1, o)

/-- R340: the record is due in the step after quiescence. -/
def recordDue (s : State) (k x : Nat) : Bool :=
  (ctxOf s k x).fault.any fun f => !f.recorded && f.quiet.any fun q => decide (q < s.gauge)

/-- The fault has its record. -/
def markRecorded (s : State) (k x : Nat) (queued : Bool) : State :=
  modCtx s k x fun c => { c with fault := c.fault.map fun f => { f with recorded := true, queued := queued } }

/-- R125: every context that could host a handler is itself stopped by a fault. -/
def noHostEver (s : State) (g : Gang) : Bool := g.entries.all fun e => (ctxOf s e.core e.ctx).life = .stopped

/-- R340: a record that cannot be written terminates the gang with 0x7C, one that has ended already with that status, and
canopy is sent an event. A gang that canopy has terminated keeps 0x7E (R352). -/
def recordFails (s : State) (key : Nat) : State :=
  let s := terminateGang s key 0x7C
  let s := modGang s key fun g => { g with status := if g.status = 0x7E then 0x7E else 0x7C }
  { s with outbox := s.outbox ++ [.recordFailed key] }

/-- R340: the record of a fault whose context has been released. -/
def writeOpen (s : State) (key : Nat) (o : OpenFault) : State :=
  match gangOf s key with
  | none => s
  | some g =>
    let s := setGang s key { g with openFaults := g.openFaults.erase o }
    match dvWrite s g.asid (faultSlot g o.entry) (faultRecord s o.core o.handle o.nfault o.pending o.info) with
    | none => recordFails s key
    | some s => s

/-- R124, R125, R340: at quiescence the record is written and a host is chosen, or the fault is queued. -/
def execFaultRecordWrite (core ctx : Nat) (s : State) : Host.Outcome State Fault Refusal :=
  .next (
    let c := ctxOf s core ctx
    match (openRecords s).find? fun o => o.2.core = core && o.2.ctx = ctx with
    | some o => writeOpen s o.1 o.2
    | none =>
      match recordDue s core ctx, c.fault, c.gang with
      | true, some f, some key =>
        (match gangOf s key with
         | none => s
         | some g =>
           let host := chooseHost s g core
           let bs := faultBytes s core ctx { f with queued := host.isNone }
           match dvWrite s g.asid (faultSlot g c.entry) bs with
           | none => recordFails (markRecorded s core ctx false) key
           | some s =>
             let s := markRecorded s core ctx host.isNone
             match host with
             | some h => startHost s key g h core ctx
             | none => if noHostEver s g then terminateGang s key 0 else queueFault s key g c.entry)
      | _, _, _ => s)

/-! ## Completion (R121, R134) -/

/-- R121: something of an ended gang is still under way. -/
def gangBusy (s : State) (key : Nat) (g : Gang) : Bool :=
  s.ferries.any (fun f => f.2.cmds.any fun c => c.gang = key) ||
  g.tail.any (fun t => (coreOf s t.1).pend.any (fun p => p.seq = t.2) || (coreOf s t.1).accs.any fun a => a.seq = t.2) ||
  s.cores.any (fun k => k.2.jobs.any fun j => g.handles.contains j.handle) || !g.openFaults.isEmpty

/-- R125, R343: the completion status of a gang. -/
def gangStatus (g : Gang) : BitVec 7 := if g.status ≠ 0 then g.status else (g.unserved.map FirstFault.cause).getD 0

/-- R121, R133, R134: once everything of an ended gang has performed, its occupancy area and its completion record are
written, and it is gone with its checkpoints (R363). -/
def execCompletionRecordWrite (gang : Nat) (s : State) : Host.Outcome State Fault Refusal :=
  .next (match gangOf s gang with
    | none => s
    | some g =>
      if g.st ≠ .ending ∨ gangBusy s gang g then s
      else
        let s := occWrite s g g.occEnd
        let st := gangStatus g
        let s := complete s (streamRing s g.stream)
          { id := g.id, kind := 1, status := st, faults := g.faults, stream := g.stream, first := g.first,
            dep := some (g.stream, field g.id.toNat 0 56), admitted := true }
        { s with gangs := mapDrop s.gangs gang, ckpts := s.ckpts.filter fun c => c.gang ≠ gang })

/-- R352: canopy terminates an admitted gang through heartwood. -/
def execGangTerminate (gang : Nat) (s : State) : Host.Outcome State Fault Refusal := .next (terminateGang s gang 0x7E)

end Sys2Proof.Machine
end

