-- ==== Sys2Proof/Machine/Launch.lean ====
section
/-! DEFINITION. Launch records and their tables: reading and checking them before anything is granted
(R104-R111, R182, R186, R232, R233, R378). -/
namespace Sys2Proof.Machine

/-! ## Streams (R104-R107) -/

/-- Bytes `off` to `off + n - 1` of a record, as a number. -/
def num (bs : List Byte) (off n : Nat) : Nat := bytesToNat ((bs.drop off).take n)
/-- Bytes `off` to `off + n - 1` of a record are zero. -/
def zeroes (bs : List Byte) (off n : Nat) : Bool := num bs off n = 0

/-- R104: records of the ring, when its size is legal. -/
def ringSize (st : Stream) : Option Nat :=
  if 4 ≤ st.size.toNat ∧ st.size.toNat ≤ 20 then some (2 ^ st.size.toNat) else none

/-- R104: QHEAD and QTAIL differ, as indices of the ring. DESIGN CHOICE (log 102): a size that is illegal stops the stream when
there is a record to read, since only then is the ring read. -/
def hasRecord (st : Stream) : Bool :=
  match ringSize st with
  | some n => decide (st.head.toNat % n ≠ st.tail.toNat % n)
  | none => decide (st.head ≠ st.tail)

/-- The index after a ring index. -/
def nextIndex (st : Stream) : Word := word ((st.head.toNat + 1) % (ringSize st).getD (2 ^ 64))

/-- R104, R378: the 128 bytes of the record at QHEAD. -/
def headBytes (s : State) (st : Stream) : Except (BitVec 7) (List Byte) :=
  match ringSize st with
  | some n => dvRead s st.asid.toNat (st.base + word (128 * (st.head.toNat % n))) 128
  | none => .error 0x42

/-! ## The launch record (R108) -/

/-- What a launch record asks for, with its tables read. `loads` holds a grove slot with the state it is loaded with, by
entry (R233). -/
structure Launch where
  gang : Gang
  deps : List (Nat × Nat)
  dmode : Bool
  loads : List (Nat × Nat × Grove)
  deriving DecidableEq, Repr

/-- R108, R111: the dependences of a record, as stream and sequence. -/
def depsOf (bs : List Byte) : List (Nat × Nat) :=
  (List.range (min 4 (num bs 2 1))).map fun i =>
    let d := num bs (16 + 8 * i) 8
    (field d 56 8, field d 0 56)

/-- R111: a dependence names a launch that can exist, and none of its own stream that is not earlier. -/
def depOk (stream seq : Nat) (d : Nat × Nat) : Bool :=
  decide (d.1 ≤ 15 ∧ d.2 ≠ 0) && !(decide (d.1 = stream) && decide (seq ≤ d.2))

/-- R108: the handler fields, which keep the table whether or not the handler bit is set: the offset and the length are multiples
of 4, and image and offset fit inside one region. -/
def handlerOk (bs : List Byte) : Bool :=
  let off := field (num bs 4 4) 0 18
  decide (field (num bs 4 4) 18 13 = 0 ∧ off % 4 = 0 ∧ num bs 104 4 % 4 = 0) && decide (off < 0x22000 ∧ off + num bs 104 4 ≤ regionEnd off)

/-- R108, R111: the record keeps its table; `seq` is the launch sequence that it takes. -/
def headerOk (stream seq : Nat) (bs : List Byte) : Bool :=
  decide (num bs 1 1 / 8 = 0 ∧ num bs 2 1 ≤ 4 ∧ 1 ≤ num bs 3 1 ∧ num bs 3 1 ≤ 64) && handlerOk bs &&
  decide (num bs 8 8 = stream * 2 ^ 56 + seq) && (depsOf bs).all (depOk stream seq) &&
  decide (num bs 48 8 % 128 = 0 ∧ num bs 56 8 % 8 = 0 ∧ num bs 64 2 ≤ 512) && zeroes bs 66 6 && zeroes bs 108 4 &&
  !(decide (num bs 120 8 ≠ 0) && zeroes bs 88 8)

/-! ## Signal and resource tables (R110, R182) -/

/-- R110, R182: one signal-table entry is legal. -/
def sigOk (bs : List Byte) : Bool :=
  let w := 2 ^ num bs 5 1
  decide (num bs 2 1 < 64 ∧ num bs 3 1 < num bs 2 1 + 1 ∧ num bs 4 1 ≤ 2 ∧ num bs 5 1 ≤ 3) &&
  decide (field (num bs 6 1) 6 1 = 0) && zeroes bs 7 1 &&
  (if num bs 4 1 = 1 then decide (num bs 8 8 < 2 ^ (8 * w)) else zeroes bs 8 8)

/-- R182, R188: a declaration with its constant repeated across a sample. -/
def sigFrom (bs : List Byte) : SigDecl :=
  let w := 2 ^ num bs 5 1
  { id := num bs 0 1, depth := num bs 1 1 + 1, q := num bs 2 1 + 1, phi := num bs 3 1, rule := num bs 4 1,
    fill := BitVec.ofNat 4096 (packLanes (8 * w) (List.replicate (512 / w) (num bs 8 8))),
    piped := if field (num bs 6 1) 7 1 = 1 then some (field (num bs 6 1) 0 6) else none }

/-- R110: a resource: a pipe by its number on the chip, or a confluence with its parties. -/
inductive Res where
  | pipe (p : Nat)
  | conf (c parties : Nat)
  deriving DecidableEq, Repr

/-- R110: one resource-table entry, none where it is malformed. -/
def resFrom (e : Nat) : Option Res :=
  let cl := field e 4 5
  let n := field e 12 9
  let cnt := field e 21 4
  if field e 25 39 ≠ 0 then none
  else if field e 0 4 = 1 ∧ n < 64 ∧ cnt = 0 then some (.pipe (64 * cl + n))
  else if field e 0 4 = 2 ∧ 1 ≤ cnt ∧ cnt ≤ 8 then some (.conf (512 * (8 * cl + field e 9 3) + n) cnt)
  else none

/-! ## Context-table entries (R109) -/

/-- R109: the scratchpad range and the mailbox of an entry. -/
def rangeOk (bs : List Byte) : Bool :=
  let r := num bs 24 8
  let lo := field r 0 19
  let hi := field r 32 19
  decide (field r 19 13 = 0 ∧ field r 51 13 = 0 ∧ lo % 4096 = 0 ∧ (hi + 1) % 4096 = 0) &&
  (decide (num bs 0 1 ≠ 3) || decide (num bs 52 4 % 8 = 0 ∧ lo ≤ num bs 52 4 ∧ num bs 52 4 + 72 ≤ hi + 1))

/-- R109: one context-table entry is legal. `handler` is the handler bit of the record. DEDUCED (log 48): an entry offset past the
instruction scratchpad is not, with an image or without. -/
def entryOk (handler : Bool) (bs : List Byte) : Bool :=
  let role := num bs 0 1
  decide (role ≤ 3 ∧ num bs 1 1 < 32 ∧ num bs 2 1 < 64 ∧ num bs 3 1 < 2) &&
  decide ((num bs 4 1 = 0) = (role ≠ 3)) && zeroes bs 5 3 && !(decide (role = 2) && !handler) &&
  decide (num bs 8 4 < 0x22000 ∧ num bs 8 4 % 4 = 0) && decide (num bs 12 4 = 0 ∨ 64 ≤ num bs 12 4) &&
  decide (num bs 20 1 < 16) && zeroes bs 22 2 && rangeOk bs && decide (num bs 32 8 % 16 = 0 ∧ num bs 56 8 % 8 = 0) &&
  decide (num bs 40 8 = 0 ∨ num bs 8 4 + num bs 48 4 ≤ 0x22000)

/-- R109: the fields of an entry. A pause bound of 0 is 2^20. -/
def entryFrom (bs : List Byte) (sigs : List SigDecl) : Entry :=
  let r := num bs 24 8
  { role := num bs 0 1, core := 8 * num bs 1 1 + field (num bs 2 1) 0 3, ctx := field (num bs 2 1) 3 3,
    pinned := decide (num bs 3 1 = 1), cls := num bs 4 1, offset := num bs 8 4,
    pauseBound := if num bs 12 4 = 0 then 2 ^ 20 else num bs 12 4, tiles := BitVec.ofNat 32 (num bs 16 4),
    groves := BitVec.ofNat 4 (num bs 20 1), lo := field r 0 19, hi := field r 32 19, sigs := sigs,
    image := word (num bs 40 8), length := num bs 48 4, mailbox := num bs 52 4, grovetab := word (num bs 56 8),
    args := (List.range 8).map fun i => word (num bs (64 + 8 * i) 8) }

/-! ## Reading the tables (R378) -/

/-- All answers, or the first error. -/
def collect {α β : Type} (f : α → Except (BitVec 7) β) : List α → Except (BitVec 7) (List β)
  | [] => .ok []
  | x :: xs =>
    match f x with
    | .error e => .error e
    | .ok y =>
      match collect f xs with
      | .error e => .error e
      | .ok ys => .ok (y :: ys)

/-- A table of `n` rows of `w` bytes. -/
def readRows (s : State) (asid : Nat) (a : Word) (w n : Nat) : Except (BitVec 7) (List (List Byte)) :=
  collect (fun i => dvRead s asid (a + word (w * i)) w) (List.range n)

/-- R109, R110: an entry and its signal table. -/
def readEntry (s : State) (asid : Nat) (handler : Bool) (bs : List Byte) : Except (BitVec 7) Entry :=
  if !entryOk handler bs then .error 0x75
  else
    match readRows s asid (word (num bs 32 8)) 16 (num bs 21 1) with
    | .error e => .error e
    | .ok rows => if rows.all sigOk then .ok (entryFrom bs (rows.map sigFrom)) else .error 0x75

/-- R233: a sealed grove buffer holds the whole record. -/
def inGroveBuffer (s : State) (asid va n : Nat) : Bool :=
  (bufferAt s asid va).any fun b => hFmt b.2 = 5 && hImm b.2 && decide (va + n ≤ hBase b.2 + hSizeB b.2)

/-- R232, R233: the slot state that a grove record gives. -/
def readGrove (s : State) (asid : Nat) (a : Word) : Except (BitVec 7) Grove :=
  match dvRead s asid a 256 with
  | .error e => .error e
  | .ok head =>
    let rank := field (num head 8 1) 0 2
    let r := 4 * 2 ^ rank
    if num head 0 8 = 0 ∨ num head 8 1 / 4 ≠ 0 ∨ !zeroes head 9 247 ∨ !inGroveBuffer s asid a.toNat (256 * (r + 1)) then
      .error 0x75
    else
      match dvRead s asid (a + 256) (256 * r) with
      | .error e => .error e
      | .ok rows => .ok { seed := word (num head 0 8), rank := BitVec.ofNat 2 rank, coef := BitVec.ofNat 65536 (bytesToNat rows) }

/-- R233: the grove words of one entry: slot and state. -/
def readGroves (s : State) (asid : Nat) (ix : Nat × Entry) : Except (BitVec 7) (List (Nat × Nat × Grove)) :=
  let e := ix.2
  if e.grovetab = 0 then .ok []
  else
    match dvRead s asid e.grovetab 32 with
    | .error st => .error st
    | .ok bs =>
      let used := (List.range 4).filter fun n => num bs (8 * n) 8 ≠ 0
      if used.any fun n => !e.groves.getLsbD n then .error 0x75
      else
        collect (fun n =>
          match readGrove s asid (word (num bs (8 * n) 8)) with
          | .error st => .error st
          | .ok g => .ok (ix.1, n, g)) used

/-- R378: a code image translates. -/
def imageOk (s : State) (asid : Nat) (a : Word) (n : Nat) : Except (BitVec 7) Unit :=
  if n = 0 then .ok ()
  else
    match locOf a.toNat with
    | .dev va =>
      (match spanPages s asid (storedPages s asid va n) with
       | .ok _ => .ok ()
       | .error e => .error e)
    | _ => .error 0x42

/-! ## What a record may not name twice (R111, R183, R186) -/

/-- No key stands twice in a list. -/
def distinct : List Nat → Bool
  | [] => true
  | x :: xs => !xs.contains x && distinct xs

/-- The contexts, tiles, grove slots, signals, pipes and confluences that a launch names, each as one number. -/
def ctxKeys (g : Gang) : List Nat := g.entries.map fun e => placement e.core e.ctx
def tileKeys (g : Gang) : List Nat :=
  g.entries.flatMap fun e => ((List.range 32).filter fun t => e.tiles.getLsbD t).map fun t => 32 * e.core + t
def groveKeys (g : Gang) : List Nat :=
  g.entries.flatMap fun e => ((List.range 4).filter fun n => e.groves.getLsbD n).map fun n => 4 * e.core + n
def sigKeys (g : Gang) : List Nat := g.entries.flatMap fun e => e.sigs.map fun d => 256 * e.core + d.id
def pageKeys (g : Gang) : List Nat :=
  g.entries.flatMap fun e =>
    (List.range ((e.hi + 1 - e.lo) / 4096)).map fun i => 128 * e.core + (e.lo / 4096 + i)

/-- R183: samples that a launch needs on a core. -/
def samplesNeeded (g : Gang) (k : Nat) : Nat :=
  ((g.entries.filter fun e => e.core = k).map fun e => (e.sigs.map fun d => d.depth + 1).sum).sum

/-- The cores of a launch. -/
def coresOf (g : Gang) : List Nat := (g.entries.map Entry.core).eraseDups

/-- R186: pipes bound by the launch's signals. -/
def boundPipes (g : Gang) : List Nat :=
  g.entries.flatMap fun e => e.sigs.filterMap fun d => d.piped.map fun p => 64 * (e.core / 8) + p

/-- R111, R186. -/
def tablesOk (g : Gang) : Bool :=
  distinct (ctxKeys g) && distinct (tileKeys g) && distinct (groveKeys g) && distinct (sigKeys g) && distinct (pageKeys g) &&
  distinct g.pipes && distinct (g.confs.map Prod.fst) && (coresOf g).all (fun k => decide (samplesNeeded g k ≤ 3072)) &&
  distinct (boundPipes g) && (boundPipes g).all g.pipes.contains

/-! ## The whole record -/

/-- R108: the gang that a legal record asks for, its tables still to be read. -/
def gangFrom (bs : List Byte) (stream asid : Nat) : Gang :=
  let h := num bs 4 4
  { id := word (num bs 8 8), stream := stream, prio := BitVec.ofNat 2 (num bs 1 1),
    handler := if field h 31 1 = 1 then some (field h 0 18) else none, entries := [], pipes := [], confs := [],
    faultarea := word (num bs 72 8), occarea := word (num bs 80 8), savearea := word (num bs 88 8),
    himage := word (num bs 96 8), hlength := num bs 104 4, dimage := word (num bs 112 8), ckarea := word (num bs 120 8),
    asid := asid, start := 0, st := .loading, faults := 0, first := none, unserved := none, queue := [], status := 0,
    evict := false, ckpt := false, ckDone := 0, ckSealed := [] }

def resPipes (rs : List Res) : List Nat := rs.filterMap fun r => match r with | .pipe p => some p | _ => none
def resConfs (rs : List Res) : List (Nat × Nat) := rs.filterMap fun r => match r with | .conf c n => some (c, n) | _ => none

/-- R378: every image of a launch translates. -/
def imagesOk (s : State) (g : Gang) : Except (BitVec 7) Unit :=
  match collect (fun e => if e.image = 0 then .ok () else imageOk s g.asid e.image e.length) g.entries with
  | .error e => .error e
  | .ok _ => if g.handler.isSome then imageOk s g.asid g.himage g.hlength else .ok ()

/-- R109-R111, R233, R378: reads and checks the tables of a record whose own fields are legal. The error is the status that
consumes it. DESIGN CHOICE (log 81): where several checks or reads fail, the first in the order here decides: the context and signal
tables, the resource table, what they name twice, groves, images; R378 gives no order. -/
def readLaunch (s : State) (stream : Nat) (bs : List Byte) : Except (BitVec 7) Launch := do
  let asid := (streamOf s stream).asid.toNat
  let g := gangFrom bs stream asid
  let rows ← readRows s asid (word (num bs 48 8)) 128 (num bs 3 1)
  let entries ← collect (readEntry s asid g.handler.isSome) rows
  let words ← readRows s asid (word (num bs 56 8)) 8 (num bs 64 2)
  let rs := words.map fun w => resFrom (bytesToNat w)
  if rs.contains none then .error 0x75
  else
    let rs := rs.filterMap id
    let g := { g with entries := entries, pipes := resPipes rs, confs := resConfs rs }
    if !tablesOk g then .error 0x75
    else
      let loads ← collect (readGroves s asid) (entriesIx g)
      let _ ← imagesOk s g
      .ok { gang := g, deps := depsOf bs, dmode := decide (field (num bs 1 1) 2 1 = 1), loads := loads.flatten }

/-- What stands at the head of a stream. -/
inductive Head where
  | none
  /-- R119: an evicted gang -/
  | out (v : Saved)
  /-- the ring cannot be read, or its size is illegal (R104) -/
  | stop
  | skip
  | card (bs : List Byte)
  /-- a record that is malformed by its own fields, with its kind and id -/
  | bad (launch : Bool) (kind : Nat) (id : Word)
  /-- a launch record whose own fields are legal -/
  | launch (bs : List Byte)
  deriving DecidableEq, Repr

/-- R106: what the record at QHEAD is. -/
def headKind (stream seq : Nat) (bs : List Byte) : Head :=
  match num bs 0 1 with
  | 0 => .skip
  | 1 => if headerOk stream seq bs then .launch bs else .bad true 1 (word (num bs 8 8))
  | 2 => if zeroes bs 64 64 then .card (bs.take 64) else .bad false 2 (word (num bs 0 8))
  | _ => .bad false 1 (word (num bs 8 8))

/-- R105, R119: the head of a stream: an evicted gang first, then the record at QHEAD while the stream is enabled. -/
def headOf (s : State) (n : Nat) : Head :=
  let st := streamOf s n
  match st.out with
  | v :: _ => .out v
  | [] =>
    if !st.en || st.err || !hasRecord st then .none
    else
      match headBytes s st with
      | .error _ => .stop
      | .ok bs => headKind n (st.launches + 1) bs

end Sys2Proof.Machine
end

