-- ==== Sys2Proof/Machine/Admit.lean ====
section
/-! DEFINITION. Admission: what is free, what is withheld, the decision of a step, granting and clearing, loading images, and
the start step (R112-R115, R119, R122, R124, R218, R230, R233, R263, R349, R378). -/
namespace Sys2Proof.Machine

/-! ## Resources (R112, R114, R183) -/

/-- Everything that a gang names, each as one number with its kind above bit 32. -/
def allKeys (g : Gang) : List Nat :=
  let tag (n : Nat) (xs : List Nat) : List Nat := xs.map fun x => n * 2 ^ 32 + x
  tag 0 (ctxKeys g) ++ tag 1 (tileKeys g) ++ tag 2 (groveKeys g) ++ tag 3 (sigKeys g) ++ tag 4 (pageKeys g) ++ tag 5 g.pipes ++
    tag 6 (g.confs.map Prod.fst)

/-- R121, R248: a command that has not ended writes into [lo, hi), or may: a copy that takes its shape only as it issues, behind an
FSHAPE of its entry, may write anywhere. -/
def mayWrite (s : State) (fe : Ferry) (c : Cmd) (lo hi : Int) : Bool :=
  (!cmdIssued c && c.kind = .copy && shapeOpen fe c) || writesInto { c with shape := shapeNow s c } lo hi

/-- R121: something that an ended gang has left under way: a command that has not ended writes into [lo, hi), or a result, an
access or a job passes a test. -/
def stillWrites (s : State) (key : Nat) (g : Gang) (lo hi : Int) (res : Nat → Pend → Bool) (acc : Nat → Access → Bool)
    (job : Nat → Job → Bool) : Bool :=
  (s.ferries.any fun f => f.2.cmds.any fun c => decide (c.gang = key) && mayWrite s f.2 c lo hi) ||
  s.cores.any fun k =>
    (k.2.pend.any fun p => g.tail.contains (k.1, p.seq) && res k.1 p) ||
    (k.2.accs.any fun a => g.tail.contains (k.1, a.seq) && acc k.1 a) ||
    k.2.jobs.any fun j => g.handles.contains j.handle && job k.1 j

/-- R121, R206: a tile that a gang still holds: while it runs, and after its end until its writes into the tile have
performed. -/
def holdsTile (s : State) (key : Nat) (g : Gang) (n : Nat) : Bool :=
  (tileKeys g).contains n &&
    (g.st ≠ .ending ||
      stillWrites s key g (tileGlobal (n / 32) (n % 32)).toNat ((tileGlobal (n / 32) (n % 32)).toNat + 2 ^ 15)
        (fun k p => k = n / 32 && (match p.eff with
          | .tile t _ _ _ => t = n % 32
          | .drain t _ _ _ _ _ _ _ _ => t = n % 32
          | _ => false))
        (fun k a => k = n / 32 && (match a.kind with | .tileLoad t _ => t = n % 32 | _ => false))
        (fun k j => k = n / 32 && j.dest = some (n % 32)))

/-- R121, R248: a 4 KiB page of a range that a gang still holds: while it runs, and after its end until its writes into that
range have performed. -/
def holdsPage (s : State) (key : Nat) (g : Gang) (n : Nat) : Bool :=
  g.entries.any fun e =>
    decide (e.core = n / 128 ∧ e.lo ≤ 4096 * (n % 128) ∧ 4096 * (n % 128) < e.hi + 1) &&
    (g.st ≠ .ending ||
      stillWrites s key g (spadGlobal e.core e.lo).toNat ((spadGlobal e.core e.hi).toNat + 1) (fun _ _ => false)
        (fun _ a => isWrite a && a.target = e.core && decide (a.off < e.hi + 1 ∧ e.lo < a.off + accBytes a))
        (fun _ _ => false))

/-- R112: no admitted gang holds the resource; tiles and ranges are held after a gang's end as R121 says. -/
def keyFree (s : State) (key : Nat) : Bool :=
  let n := key % 2 ^ 32
  match key / 2 ^ 32 with
  | 0 => (ctxOf s (n / 8) (n % 8)).gang.isNone
  | 1 => s.gangs.all fun g => !holdsTile s g.1 g.2 n
  | 2 => (groveOf (coreOf s (n / 4)) (n % 4)).owner.isNone
  | 3 => (sigOf (coreOf s (n / 256)).sigs (n % 256)).isNone
  | 4 => s.gangs.all fun g => !holdsPage s g.1 g.2 n
  | 5 => (pipeOf s n).gang.isNone
  | _ => (confOf s n).gang.isNone

/-- R183: free samples of a core. -/
def samplesFree (s : State) (k : Nat) : Nat := 3072 - ((coreOf s k).sigs.map fun e => e.2.depth + 1).sum

/-- The gang that heads a stream, when its tables can be read. -/
def headGang (s : State) (n : Nat) : Option Gang :=
  match headOf s n with
  | .out v => some v.gang
  | .launch bs =>
    (match readLaunch s n bs with
     | .ok l => some l.gang
     | .error _ => none)
  | _ => none

/-- The gang that reserves, unless it heads stream `n` itself. -/
def reserver (s : State) (n : Nat) : Option Gang :=
  match s.reserving with
  | some r => if r = n then none else headGang s r
  | none => none

/-- R114: a free resource that is withheld for the reserving head: it freed while that head reserved. -/
def isWithheld (s : State) (n key : Nat) : Bool :=
  (reserver s n).any fun g => (allKeys g).contains key && !s.reserveOpen.contains key

/-- R114: samples of a core that a head of stream `n` may take. -/
def samplesOpen (s : State) (n k : Nat) : Nat :=
  match reserver s n with
  | some g =>
    let need := samplesNeeded g k
    if need = 0 then samplesFree s k else max (min (mapGet 0 s.reserveSamples k) (samplesFree s k)) (samplesFree s k - need)
  | none => samplesFree s k

/-- R112, R114: everything that a gang at the head of stream `n` needs is there for it. -/
def isFree (s : State) (n : Nat) (g : Gang) : Bool :=
  (allKeys g).all (fun key => keyFree s key && !isWithheld s n key) &&
    (coresOf g).all fun k => decide (samplesNeeded g k ≤ samplesOpen s n k)

/-! ## Dependences (R112) -/

/-- The status with which a launch has completed. -/
def depStatus (s : State) (d : Nat × Nat) : Option (BitVec 7) :=
  (s.done.find? fun e => e.1 = d.1 && e.2.1 = d.2).map fun e => e.2.2

/-- R107, R112: launches of a stream that are admitted and have not completed: their gangs, those that are out, and those whose
completion records a full ring holds. -/
def openLaunches (s : State) (n : Nat) : Nat :=
  (s.gangs.filter fun g => g.2.stream = n).length + (streamOf s n).out.length
    + ((s.rings.flatMap fun r => r.2.held).filter fun c => c.admitted && c.stream = n).length

/-! ## What the scheduler finds at a head -/

/-- What a decision may do with a head. -/
inductive Verdict where
  | wait
  | stop
  | skip
  | card (bs : List Byte)
  | consume (launch : Bool) (kind : Nat) (id : Word) (status : BitVec 7)
  | grants (l : Launch)
  | readmit (v : Saved)
  deriving DecidableEq, Repr

/-- R108, R112, R378: a launch record whose own fields are legal. Its tables are read once every dependence has
completed. -/
def judgeLaunch (s : State) (n : Nat) (bs : List Byte) : Verdict :=
  let deps := (depsOf bs).map (depStatus s)
  let id := word (num bs 8 8)
  if field (num bs 1 1) 2 1 = 1 ∧ deps.any fun d => d.any fun st => st ≠ 0 then .consume true 1 id 0x76
  else if deps.any Option.isNone then .wait
  else
    match readLaunch s n bs with
    | .error st => .consume true 1 id st
    | .ok l => if isFree s n l.gang then .grants l else .wait

/-- R105-R107, R112, R119, R135: what the head of a stream allows in this step. -/
def judge (s : State) (n : Nat) : Verdict :=
  if ringFull (ringOf s (streamRing s n)) || decide (256 ≤ openLaunches s n) && (streamOf s n).out.isEmpty then .wait
  else
    match headOf s n with
    | .none => .wait
    | .out v => if isFree s n v.gang then .readmit v else .wait
    | .stop => .stop
    | .skip => .skip
    | .card bs => .card bs
    | .bad l k id => .consume l k id 0x75
    | .launch bs => judgeLaunch s n bs

/-! ## Priorities (R113, R114) -/

/-- Steps since the record or gang became the head of its stream (R113). An evicted gang's age counts from its save, a second one's
of the stream too, which comes to the front later: DESIGN CHOICE (log 52). -/
def headAge (s : State) (n : Nat) : Nat :=
  let st := streamOf s n
  match st.out with
  | v :: _ => s.gauge - v.since
  | [] => s.gauge - st.headSince.getD s.gauge

/-- R113: the effective priority. -/
def effPrio (s : State) (n : Nat) (g : Gang) : Nat :=
  if s.aging = 0 then 3 else min 3 (g.prio.toNat + headAge s n / s.aging.toNat)

/-- R114: the head has been ineligible for two aging steps at priority 3. -/
def isStarving (s : State) (n : Nat) (g : Gang) : Bool :=
  decide ((3 - g.prio.toNat) * s.aging.toNat + 2 * s.aging.toNat ≤ headAge s n)

/-- R114: a head that may become reserving: it starves and waits. -/
def mayReserve (s : State) (n : Nat) : Bool :=
  judge s n = .wait && (headGang s n).any (isStarving s n)

/-- R114: the oldest such head. -/
def oldestStarving (s : State) : Option Nat :=
  minBy (fun n => (2 ^ 64 - headAge s n) * 16 + n) ((List.range 16).filter (mayReserve s))

/-- R114: nothing reserves, or what does is no head any more or a younger one. -/
def takesOver (s : State) (n : Nat) : Bool :=
  match s.reserving with
  | none => true
  | some r => decide (r ≠ n) && ((headGang s r).isNone || decide (headAge s r < headAge s n))

/-- R114: the oldest head that starves becomes reserving, in the place of a younger one that reserves; what is free at that
moment stays open to others. -/
def execHeadReserving (stream : Nat) (s : State) : Host.Outcome State Fault Refusal :=
  .next (
    if !takesOver s stream ∨ oldestStarving s ≠ some stream then s
    else
      match headGang s stream with
      | none => s
      | some g =>
        { s with reserving := some stream
                 reserveOpen := (allKeys g).filter (keyFree s)
                 reserveSamples := (coresOf g).foldl (fun m k => mapSet 0 m k (samplesFree s k)) [] })

/-- R119: an evicted gang heads its stream, behind those that are out already; a reserving record at QHEAD is the head no
more (R114). -/
def headOut (s : State) (n : Nat) (v : Saved) : State :=
  let st := streamOf s n
  let s := if st.out.isEmpty ∧ s.reserving = some n then { s with reserving := none, reserveOpen := [], reserveSamples := [] } else s
  setStream s n { st with out := st.out ++ [v], headSince := none }

/-- R114: a head that is admitted or consumed reserves no more; another gang's grant takes what was open. -/
def noteGrant (s : State) (n : Nat) (g : Gang) : State :=
  if s.reserving = some n then { s with reserving := none, reserveOpen := [], reserveSamples := [] }
  else
    { s with reserveOpen := s.reserveOpen.filter fun key => !(allKeys g).contains key
             reserveSamples := (coresOf g).foldl (fun m k => mapSet 0 m k (mapGet 0 m k - samplesNeeded g k)) s.reserveSamples }

/-! ## Clearing what is granted (R115, R130, R185, R206, R230, R248, R349) -/

/-- R206: a tile is cleared and its tag becomes empty; a fill count that a watchdog reset finds stays (R130, R212). -/
def tileCleared (x : Nat) (t : TileReg) : TileReg := { owner := some x, fills := t.fills }

/-- A signal as it stands after clearing (R185). -/
def sigDeclared (x : Nat) (d : SigDecl) : Signal :=
  { owner := x, depth := d.depth, q := d.q, phi := d.phi, rule := d.rule, fill := d.fill, piped := d.piped, lags := [],
    nw := false, next := 0, starved := false, adv := 0 }

/-- A place that clearing an entry's grants clears. -/
def isGranted (e : Entry) (p : Place) : Bool :=
  match p with
  | .tile t _ => e.tiles.getLsbD t
  | .spad w => decide (e.lo ≤ 8 * w) && decide (8 * w < e.hi + 1)
  | .sig i _ _ => e.sigs.any fun d => d.id = i
  | .sigNext i _ => e.sigs.any fun d => d.id = i
  | p => isCtxPlace e.ctx p

/-- Clears an entry's tiles, tile status words, grove slots, signals and scratchpad range. -/
def clearGrants (s : State) (e : Entry) : State :=
  let s := modCore s e.core fun c =>
    let c := ((List.range 32).filter fun t => e.tiles.getLsbD t).foldl (fun c t => setTile c t (tileCleared e.ctx (tileOf c t))) c
    let c := ((List.range 4).filter fun n => e.groves.getLsbD n).foldl (fun c n => setGrove c n { owner := some e.ctx }) c
    let c := e.sigs.foldl (fun c d => setSig c d.id (sigDeclared e.ctx d)) c
    { c with spad := mapClearRange c.spad e.lo (e.hi + 1 - e.lo), poison := c.poison.filter fun p => !isGranted e p }
  wakeWords s e.core

/-- What an ended gang left in flight towards a resource that is granted anew is dropped. -/
def isStale (g : Gang) (e : Entry) (p : Pend) : Bool :=
  match p.eff with
  | .sigFeed i _ => e.sigs.any fun d => d.id = i
  | .sigClear i => e.sigs.any fun d => d.id = i
  | .seed n _ => e.groves.getLsbD n
  | .grove n _ _ _ => e.groves.getLsbD n
  | .arrive c _ => g.confs.any fun f => f.1 = 512 * e.core + c
  | _ => false

/-- R218: some admitted gang has a context on the core. -/
def coreHeld (s : State) (k : Nat) : Bool := (List.range 8).any fun x => (ctxOf s k x).gang.isSome

/-- R13, R115: a context as an admission leaves it; its epoch, its starts and its position run on; `batch` is a batch number that no
earlier holder has used. -/
def admittedCtx (c : Ctx) (g : Gang) (key : Nat) (e : Entry) (idx batch : Nat) : Ctx :=
  { freshCtx { epoch := c.epoch, starts := c.starts, npos := c.npos, batch := batch } g key e idx e.offset with
    life := if e.role = 0 then .toStart else .idle }

/-- What earlier holders have left at an entry's places: tiles that still name its context, and results in flight. -/
def dropStale (g : Gang) (s : State) (e : Entry) : State :=
  modCore s e.core fun c =>
    { c with tiles := c.tiles.map (fun t => (t.1, if t.2.owner = some e.ctx then { t.2 with owner := none } else t.2))
             pend := c.pend.filter fun p => !isStale g e p }

/-- Grants one entry. -/
def grantEntry (g : Gang) (key : Nat) (s : State) (ix : Nat × Entry) : State :=
  let e := ix.2
  let s := dropStale g s e
  let s := modCtx s e.core e.ctx fun c => admittedCtx c g key e ix.1 s.seq
  clearGrants { s with seq := s.seq + 1 } e

/-- R186: the signal that a granted pipe is bound to. -/
def bindingOf (g : Gang) (p : Nat) : Option (Nat × Nat) :=
  (g.entries.flatMap fun e => e.sigs.filterMap fun d =>
    if d.piped.any fun q => 64 * (e.core / 8) + q = p then some (e.core, d.id) else none).head?

/-- Grants pipes, empty, and confluences at generation 0 (R258, R261). -/
def grantMeeting (s : State) (g : Gang) (key : Nat) : State :=
  let s := g.pipes.foldl (fun s p => setPipe s p { gang := some key, bound := bindingOf g p }) s
  let s := g.confs.foldl (fun s c => setConf s c.1 { gang := some key, n := c.2 }) s
  let stale (p : Pend) : Bool := match p.eff with
    | .pipe q _ => g.pipes.contains q
    | _ => false
  { s with cores := s.cores.map fun k => (k.1, { k.2 with pend := k.2.pend.filter fun p => !stale p }) }

/-! ## Images (R115, R349, R378) -/

/-- One byte as its buffer delivers it, none where it is poisoned. -/
def imageByte (s : State) (asid : Nat) (xl : SMap Nat) (a : Nat) : Option Byte :=
  let d := deliveredUnit s asid a
  match readUnit s asid xl d.2 (a / d.1 * d.1) with
  | .ok bs => bs[unitIndex s asid d.2 (a / d.1 * d.1) a]?
  | .error _ => none

/-- Loads an image at an instruction offset; poisoned bytes are loaded as poison. -/
def loadImage (s : State) (asid k off : Nat) (a : Word) (n : Nat) : State :=
  match locOf a.toNat with
  | .dev va =>
    (match spanPages s asid (storedPages s asid va n) with
     | .error _ => s
     | .ok xl =>
       let bs := (List.range n).map fun i => (off + i, imageByte s asid xl (va + i))
       let good := bs.filterMap fun e => e.2.map fun b => (e.1, b)
       let bad := ((bs.filter fun e => e.2.isNone).map fun e => e.1 / 8).eraseDups
       modCore (ispPut s k good) k fun c => { c with poison := bad.map Place.isp ++ c.poison.filter fun p => !(bad.map Place.isp).contains p })
  | _ => s

/-- R115: every entry's image, and the handler's on every core of the gang. -/
def loadImages (s : State) (g : Gang) : State :=
  let s := g.entries.foldl (fun s e => if e.image = 0 then s else loadImage s g.asid e.core e.offset e.image e.length) s
  match g.handler with
  | none => s
  | some off => (coresOf g).foldl (fun s k => loadImage s g.asid k off g.himage g.hlength) s

/-! ## Granting (R115, R119) -/

/-- R105: the head record is consumed; `launch` counts it in the launch sequence (R112). -/
def advanceHead (s : State) (n : Nat) (launch : Bool) : State :=
  let st := streamOf s n
  let st := { st with head := nextIndex st, launches := if launch then st.launches + 1 else st.launches }
  setStream s n { st with headSince := if hasRecord st then some s.gauge else none }

/-- R233: a grove slot loaded from its record. -/
def loadGrove (g : Gang) (s : State) (l : Nat × Nat × Grove) : State :=
  match g.entries[l.1]? with
  | some e => modCore s e.core fun c => setGrove c l.2.1 { l.2.2 with owner := some e.ctx }
  | none => s

/-- R115: admits a launch; the start step is at least 16 steps on, how many more being a free choice. -/
def admitLaunch (s : State) (n : Nat) (l : Launch) : State :=
  let d := draw s
  let s := advanceHead d.2 n true
  let key := s.gangKey
  let g := { l.gang with start := s.gauge + 16 + d.1 }
  let s := (coresOf g).foldl (fun s k => if coreHeld s k then s else modCore s k clearArray) s
  let s := noteGrant { s with gangKey := key + 1, lastAdmitted := n } n g
  let s := setGang s key g
  let s := (entriesIx g).foldl (grantEntry g key) s
  let s := grantMeeting s g key
  loadImages (l.loads.foldl (loadGrove g) s) g

/-- R119, R271: commands whose issue step passed while their gang was out are not counted. -/
def lateCommands (s : State) (key : Nat) : State :=
  { s with ferries := s.ferries.map fun f =>
      (f.1, { f.2 with cmds := f.2.cmds.map fun c =>
        if c.gang = key ∧ c.issueStep < s.gauge then { c with onTime := false } else c }) }

/-- R119: card watchdogs stood still for a number of steps. -/
def shiftCards (s : State) (key n : Nat) : State :=
  { s with cards := s.cards.map fun y =>
      match y.st with
      | .delivered k x g q => if y.gang = key then { y with st := .delivered k x (g + n) q } else y
      | _ => y }

/-- A context as a readmission leaves it: as it was saved, with EV set, and with the starts that its place has counted since.
DEDUCED (log 87): its handle is the one it was saved with (R119), and the next start at its place counts every start (R123). -/
def restoredCtx (c now : Ctx) (g : Nat) : Ctx :=
  { c with stEV := true, stallUntil := 0, fetchSince := g, starts := now.starts }

/-- R119, R200: readmits an evicted gang to its places, without clearing what was saved. -/
def readmitGang (s : State) (n : Nat) (v : Saved) : State :=
  let st := streamOf s n
  let g := v.gang
  let s := setStream s n { st with out := st.out.tail
                                   headSince := if hasRecord st ∧ st.out.tail.isEmpty then some s.gauge else none }
  let s := (coresOf g).foldl (fun s k => if coreHeld s k then s else modCore s k clearArray) s
  let s := noteGrant { s with lastAdmitted := n } n g
  let s := setGang s v.key { g with evict := false, ckpt := false }
  let s := g.entries.foldl (dropStale g) s
  let s := g.entries.foldl (fun s e => modCore s e.core fun c => { c with poison := c.poison.filter fun p => !isGranted e p }) s
  let s := v.ctxs.foldl (fun s e => setCtx s e.1 e.2.1 (restoredCtx e.2.2 (ctxOf s e.1 e.2.1) s.gauge)) s
  let s := v.tiles.foldl (fun s e => modCore s e.1 fun c => setTile c e.2.1 e.2.2) s
  let s := v.groves.foldl (fun s e => modCore s e.1 fun c => setGrove c e.2.1 e.2.2) s
  let s := v.sigs.foldl (fun s e => modCore s e.1 fun c => setSig c e.2.1 e.2.2) s
  let s := v.spads.foldl (fun s e => modCore s e.1 fun c => { c with spad := e.2.foldl (fun m b => mapSet 0 m b.1 b.2) c.spad }) s
  let s := v.pipes.foldl (fun s e => setPipe s e.1 e.2) s
  let s := v.confs.foldl (fun s e => setConf s e.1 e.2) s
  let s := v.poison.foldl (fun s e => modCore s e.1 fun c => { c with poison := e.2 :: c.poison }) s
  shiftCards (lateCommands (loadImages s g) v.key) v.key (s.gauge - v.since)

/-! ## The decision (R105, R106, R111-R113, R378) -/

/-- The record at the head of a stream becomes the head in this step (R113). -/
def noteHead (s : State) (n : Nat) : State :=
  let st := streamOf s n
  if st.out.isEmpty ∧ hasRecord st then
    (if st.headSince.isNone then setStream s n { st with headSince := some s.gauge } else s)
  else if st.headSince.isSome then setStream s n { st with headSince := none } else s

/-- R105: a stream that cannot be read stops. R134 gives the kind-3 record neither an id nor a status: both are 0 (log 38). -/
def stopStream (s : State) (n : Nat) : State :=
  let s := setStream s n { streamOf s n with err := true }
  complete s (streamRing s n) { id := 0, kind := 3, status := 0, stream := n }

/-- R111, R112, R378: a record is consumed with a status. -/
def consumeRecord (s : State) (n : Nat) (launch : Bool) (kind : Nat) (id : Word) (status : BitVec 7) : State :=
  let s := if s.reserving = some n then { s with reserving := none, reserveOpen := [], reserveSamples := [] } else s
  let seq := (streamOf s n).launches + 1
  let s := advanceHead s n launch
  complete s (streamRing s n)
    { id := id, kind := kind, status := status, stream := n, dep := if launch then some (n, seq) else none }

/-- R127: a card record joins the queue of cards. -/
def queueCard (s : State) (n : Nat) (bs : List Byte) : State :=
  let st := streamOf s n
  let y : Card := { key := s.seq, bytes := bs, stream := n, ring := st.ring, asid := st.asid.toNat, attempt := 0,
                    lastReset := none, st := .queued }
  { advanceHead s n false with cards := s.cards ++ [y], seq := s.seq + 1 }

/-- What a decision does with a head that is not admitted. -/
def consumeHead (s : State) (n : Nat) : State :=
  let s := noteHead s n
  match judge s n with
  | .stop => stopStream s n
  | .skip => advanceHead s n false
  | .card bs => queueCard s n bs
  | .consume l k id st => consumeRecord s n l k id st
  | _ => s

/-- The gang that a verdict would let in. -/
def Verdict.gang? : Verdict → Option Gang
  | .grants l => some l.gang
  | .readmit v => some v.gang
  | _ => none

/-- R113: the eligible head of highest effective priority, ties round-robin after the stream admitted last. A reserving head
whose resources are all free stands among them with its priority of 3; that no other head of priority 3 goes before it is not
said (R114), and the tie rule decides (log 69). -/
def bestHead (s : State) : Option Nat :=
  let ready := (List.range 16).filterMap fun n => (judge s n).gang?.map fun g => (n, g)
  (minBy (fun e : Nat × Gang => (3 - effPrio s e.1 e.2) * 16 + (e.1 + 15 - s.lastAdmitted) % 16) ready).map Prod.fst

/-- R113: consumes the records that are never admitted, and admits at most one gang; none at crit (R361), and none before the
boot has loaded the gauge and set MSTATUS.ready (R317, R358). -/
def execAdmissionDecision (s : State) : Host.Outcome State Fault Refusal :=
  .next (
    let s := (List.range 16).foldl consumeHead s
    if s.crit || !s.ready then s
    else
      match bestHead s with
      | none => s
      | some n =>
        match judge s n with
        | .grants l => admitLaunch s n l
        | .readmit v => readmitGang s n v
        | _ => s)

/-! ## Starts (R115, R122, R123, R124, R263) -/

/-- R115: an idle core is relocked before the start step to the mode of the context that it will choose, so that context
issues in the start step itself. A context that FRESUME has made ready keeps the mode it is in (R26). -/
def startIdle (s : State) (k : Nat) : State :=
  let c := coreOf s k
  if c.issuer.isSome || c.relock.isSome then s
  else
    match chooseNext s k c.last with
    | none => s
    | some y =>
      modCore s k fun c =>
        let t := ctxIn c y
        { c with issuer := some y, pinned := t.pinCur, credit := if t.pinCur = c.pinned then c.credit else 0 }

/-- R115, R123: a start-role context becomes ready, and the epoch of every context counts the launch. -/
def startCtx (s : State) (e : Entry) : State :=
  modCtx s e.core e.ctx fun c => { c with life := if c.life = .toStart then .ready else c.life,
                                          epoch := c.starts + 1, starts := c.starts + 1, fetchSince := s.gauge }

/-- R115: at the start step every start-role context of the gang becomes ready. -/
def execStartStep (gang : Nat) (s : State) : Host.Outcome State Fault Refusal :=
  .next (match gangOf s gang with
    | some g =>
      if g.st = .loading ∧ g.start ≤ s.gauge then
        let s := modGang s gang fun g => { g with st := .running }
        let s := g.entries.foldl startCtx s
        checkEnd ((coresOf g).foldl startIdle s) gang
      else s
    | none => s)

/-- R263: a start waits while a ferry command writes the half that holds its offset. -/
def startHeld (s : State) (k : Nat) (c : Ctx) : Bool := decide (regionOf c.seqNext ≠ 2) && halfWritten s k (regionOf c.seqNext = 1)

/-- A start that is due: its step has come, its half is not being written, and its gang is not stopping. -/
def startDue (s : State) (k x : Nat) (handler : Bool) : Bool :=
  let c := ctxOf s k x
  match c.life with
  | .starting step h => decide (step ≤ s.gauge) && h == handler && !startHeld s k c && !isStopping s c
  | _ => false

/-- R122, R130: a spawned or restarted context becomes ready at its entry offset. DESIGN CHOICE (log 88): it may see the words
that are there from this step on, as at a launch (R265). -/
def execSpawnStart (core ctx : Nat) (s : State) : Host.Outcome State Fault Refusal :=
  .next (if startDue s core ctx false then modCtx s core ctx fun c => { c with life := .ready, fetchSince := s.gauge } else s)

/-- R124: a host starts the handler kernel. DESIGN CHOICE (log 88): what it may fetch counts from this step. -/
def execHandlerStart (core ctx : Nat) (s : State) : Host.Outcome State Fault Refusal :=
  .next (if startDue s core ctx true then modCtx s core ctx fun c => { c with life := .ready, fetchSince := s.gauge } else s)

end Sys2Proof.Machine
end

