-- ==== Sys2Proof/Machine/Beats.lean ====
section
/-! DEFINITION. The M slot: beats, drains, grove beats and searcher jobs (R212-R214, R218-R224, R228-R242). A cell acts on
beats in issue order, so a beat's whole effect on the accumulators is taken at its issue (R219). -/
namespace Sys2Proof.Machine

/-! ## Wait bits (R213, R214) -/

/-- The tile's tag fails the pinned check. -/
def tagFails (t : TileReg) : Bool := !(t.tag == 2 && t.seq == t.exp + 1)

/-- R342: detail of 0x52. -/
def tagDetail (n : Nat) (t : TileReg) : Word := word (n + 2 ^ 8 * t.tag.toNat + 2 ^ 16 * t.seq.toNat + 2 ^ 24 * t.exp.toNat)

/-- R213, R214: the check of the tiles whose wait bits are set. DESIGN CHOICE (log 109): where both tiles fail, 0x52 names the one of
operand A. -/
def tagPre (s : State) (ts : List Nat) : Pre :=
  let c := curCore s
  if c.pinned then
    match ts.find? fun n => tagFails (tileOf c n) with
    | some n => .fault 0x52 (tagDetail n (tileOf c n)) 0 0
    | none => .ok
  else if ts.any fun n => (tileOf c n).tag = 1 then .wait s
  else .ok

/-- R213, R214: exp := seq. -/
def tagTake (ts : List Nat) (s : State) : State :=
  modCurCore s fun c => ts.foldl (fun c n => setTile c n { tileOf c n with exp := (tileOf c n).seq }) c

/-- The tile of a wait bit, when it is set. -/
def waitBit (w : BitVec 1) (t : BitVec 5) : List Nat := if w = 1 then [t.toNat] else []

/-- R50, R219: a beat has been acted on by the far-corner cell 256 cycles after its issue, an MGLOAD after 4. -/
def beatUntil (s : State) (n : Nat) : State :=
  modCurCtx s fun c => { c with beatEnd := max c.beatEnd ((curCore s).cyc + n) }

/-- Elements of a tile at flat indices, for each row or column. -/
def operandRows (t : Tile) (w : Nat) (ix : Nat → List Nat) : List (List Nat) :=
  (List.range 128).map fun i => (ix i).map (tileElem t w)

/-- R213: in elastic mode a beat waits while a tile of its wait bits is filling. -/
def tagWaits (s : State) (ts : List Nat) : Bool := !(curCore s).pinned && ts.any fun n => (tileOf (curCore s) n).tag = 1

/-- R237, R238, R241, R242: the wait, if any, ends before the beat issues, and what it samples counts at its issue; then 0x06
comes before 0x52. -/
def sampledPre (s : State) (ts : List Nat) (bad : Bool) : Pre :=
  if tagWaits s ts then .wait s else if bad then .fault 0x06 0 0 0 else tagPre s ts

/-- A beat issues: it joins the beats in flight (R219). -/
def issueBeat (k : BeatKind) (s : State) : State :=
  beatUntil (modCurCore s fun c => noteBeat { cyc := c.cyc, fmt := (curCtx s).fmt, rows := c.rows, cols := c.cols, kind := k } c) 256

/-! ## Push beats (R220, R221, R238) -/

/-- R221: MPUSH and MPUSHD. -/
def pushBeat (diag : Bool) (a b : BitVec 5) (k : BitVec 7) (x y : BitVec 1) (m : BitVec 2) (s : State) : State :=
  let f := (curCtx s).fmt
  let eight := decide (2 ≤ fmtAtype f)
  let w := if eight then 8 else 16
  let c := curCore s
  let av := operandRows (tileOf c a.toNat).bytes w (aIndex eight (m == 1) k.toNat)
  let bv := operandRows (tileOf c b.toNat).bytes w (bIndex eight k.toNat)
  let s := tagTake (waitBit x a ++ waitBit y b) s
  let s := issueBeat (.push (fmtAtype f) (fmtBtype f) diag av bv) s
  modCurCore s fun c => beatPush c f (fmtAtype f) (fmtBtype f) diag (rowAt av) (rowAt bv)

/-- R221. -/
def execMpush (g : BitVec 4) (a b : BitVec 5) (k : BitVec 7) (x y : BitVec 1) (m : BitVec 2) (s : State) :
    Host.Outcome State Fault Refusal :=
  runSlot (.mpush g a b k x y m) .M s (fun s => tagPre s (waitBit x a ++ waitBit y b)) (pushBeat false a b k x y m)

/-- R221: only the diagonal cells act. -/
def execMpushd (g : BitVec 4) (a b : BitVec 5) (k : BitVec 7) (x y : BitVec 1) (m : BitVec 2) (s : State) :
    Host.Outcome State Fault Refusal :=
  runSlot (.mpushd g a b k x y m) .M s (fun s => tagPre s (waitBit x a ++ waitBit y b)) (pushBeat true a b k x y m)

/-- R238: the B row is row k of the grown tile, BF16 whatever fmt.btype holds. -/
def pushGrove (a : BitVec 5) (n : BitVec 2) (k : BitVec 7) (w : BitVec 1) (m : BitVec 2) (s : State) : State :=
  let f := (curCtx s).fmt
  let c := curCore s
  let av := operandRows (tileOf c a.toNat).bytes 16 (aIndex false (m == 1) k.toNat)
  let bv := (growRow (groveOf c n.toNat) k.toNat).map fun e => [e]
  let s := tagTake (waitBit w a) s
  let s := issueBeat (.push (fmtAtype f) 0 false av bv) s
  modCurCore s fun c => beatPush c f (fmtAtype f) 0 false (rowAt av) (rowAt bv)

/-- R238: seed 0 and an integer fmt.atype are 0x06, before the pinned check of the wait bit. -/
def execMpushg (g : BitVec 4) (a : BitVec 5) (n : BitVec 2) (k : BitVec 7) (w : BitVec 1) (m : BitVec 2) (s : State) :
    Host.Outcome State Fault Refusal :=
  runSlot (.mpushg g a n k w m) .M s
    (fun s => sampledPre s (waitBit w a)
      (decide ((groveOf (curCore s) n.toNat).seed = 0) || decide (2 ≤ fmtAtype (curCtx s).fmt)))
    (pushGrove a n k w m)

/-! ## Other beats (R221) -/

/-- R221: a beat that changes no cell. -/
def execMshift (g : BitVec 4) (s : State) : Host.Outcome State Fault Refusal :=
  runSlot (.mshift g) .M s noPre fun s => beatUntil s 256

/-- R221: adds a tile row, read in the accumulate type, into accumulator row k. -/
def maccBeat (t : BitVec 5) (k : BitVec 7) (w : BitVec 1) (s : State) : State :=
  let f := (curCtx s).fmt
  let acc := fmtAcc f
  let wid := if acc = 0 || acc = 3 then 32 else 16
  let tile := (tileOf (curCore s) t.toNat).bytes
  let row := (List.range 128).map fun j => tileElem tile wid ((k.toNat % accRows acc) * 128 + j)
  let s := tagTake (waitBit w t) s
  let s := issueBeat (.macc k.toNat row) s
  modCurCore s fun c => beatMacc c f k.toNat fun j => (row[j]?).getD 0

/-- R221. -/
def execMacc (g : BitVec 4) (t : BitVec 5) (k : BitVec 7) (w : BitVec 1) (s : State) :
    Host.Outcome State Fault Refusal :=
  runSlot (.macc g t k w) .M s (fun s => tagPre s (waitBit w t)) (maccBeat t k w)

/-- R221. -/
def execMclr (g : BitVec 4) (s : State) : Host.Outcome State Fault Refusal :=
  runSlot (.mclr g) .M s noPre fun s => modCurCore (issueBeat .clear s) beatClear

/-- R221: from this beat on the mask is rows x columns, each one more than its field. -/
def execMmask (g : BitVec 4) (r c : BitVec 7) (s : State) : Host.Outcome State Fault Refusal :=
  runSlot (.mmask g r c) .M s noPre fun s =>
    beatUntil (modCurCore s fun k => { k with rows := r.toNat + 1, cols := c.toNat + 1 }) 256

/-! ## Drains (R222) -/

/-- R222, R349: which cells that a drain of row k reads are poisoned, and whether one is. -/
def rowPoison (c : CoreSt) (k : Nat) : List Bool := (List.range 128).map fun j => c.poison.contains (.acc (128 * k + j))
def rowPoisoned (c : CoreSt) (k : Nat) : Bool := (rowPoison c k).contains true

/-- R219, R222: the row is read in issue order and lands at issue+130+k; a masked row drains nothing. A clearing of the array
before a cell's read cycle reaches it (`clearArray`). -/
def drainBeat (t : BitVec 5) (k : BitVec 7) (m : BitVec 2) (s : State) : State :=
  let c := curCore s
  let f := (curCtx s).fmt
  let n := k.toNat
  let s := beatUntil s 256
  if c.rows ≤ n then s
  else
    let wraps := (List.range 128).map (wrapCell c n)
    let b : Beat := { cyc := c.cyc, fmt := f, rows := c.rows, cols := c.cols, kind := .drain s.seq n wraps (rowPoison c n) }
    push (modCurCore s (noteBeat b)) .M (130 + n)
      (.drain t.toNat (n % accRows (fmtAcc f)) (BitVec.ofNat 2 (fmtAcc f)) m c.cols (n == 0) (drainVals c f n)
        (drainWrap c n) f)
      (rowPoisoned c n)

/-- R222. -/
def execMdrain (g : BitVec 4) (t : BitVec 5) (k : BitVec 7) (m : BitVec 2) (s : State) :
    Host.Outcome State Fault Refusal :=
  runSlot (.mdrain g t k m) .M s noPre (drainBeat t k m)

/-! ## Grove loads and searcher jobs (R237, R239-R242) -/

/-- R237. -/
def execMgload (g : BitVec 4) (t : BitVec 5) (n : BitVec 2) (w : BitVec 1) (s : State) :
    Host.Outcome State Fault Refusal :=
  runSlot (.mgload g t n w) .M s
    (fun s => sampledPre s (waitBit w t) (!headOk (recordOf (curCore s) t)))
    fun s =>
      let r := groveOfRecord (recordOf (curCore s) t) none
      push (beatUntil (tagTake (waitBit w t) s) 4) .M 4 (.grove n.toNat r.seed r.rank r.coef)

/-- R239: queues a job: it starts at the later of the next cycle and the end of the job before it. That start stands even when
a watchdog reset discards the job before it (log 68). -/
def queueJob (s : State) (t : BitVec 5) (n count len : Nat) (dest : Option Nat) : State :=
  let c := curCore s
  let gr := groveOf c n
  let start := max (c.cyc + 1) ((c.jobs.getLast?.map Job.finish).getD 0)
  let j : Job := { ctx := s.cur.ctx, handle := ctxHandle s s.cur.core s.cur.ctx, pos := s.cur.pos, bundle := s.cur.addr,
                   start := start, finish := start + len, target := (tileOf c t.toNat).bytes, seed := gr.seed,
                   rank := gr.rank, count := count, dest := dest }
  beatUntil (modCurCore s fun c => { c with jobs := c.jobs ++ [j] }) (start + len - c.cyc)

/-- R241, R242: seed 0 is 0x06, before the pinned check of the wait bit. -/
def jobPre (s : State) (n : Nat) (ts : List Nat) : Pre := sampledPre s ts (decide ((groveOf (curCore s) n).seed = 0))

/-- R241. -/
def execMsrch (g : BitVec 4) (t : BitVec 5) (n : BitVec 2) (c : BitVec 7) (w : BitVec 1) (s : State) :
    Host.Outcome State Fault Refusal :=
  runSlot (.msrch g t n c w) .M s (fun s => jobPre s n.toNat (waitBit w t)) fun s =>
    queueJob (tagTake (waitBit w t) s) t n.toNat (c.toNat + 1) (256 * (c.toNat + 1)) none

/-- R242. -/
def execMsproj (g : BitVec 4) (t d : BitVec 5) (n : BitVec 7) (w : BitVec 1) (s : State) :
    Host.Outcome State Fault Refusal :=
  runSlot (.msproj g t d n w) .M s (fun s => jobPre s n.toNat (waitBit w t)) fun s =>
    queueJob (tagTake (waitBit w t) s) t n.toNat 0 256 (some d.toNat)

/-- R239, R241, R242: the result of a job, ready to land in this cycle. -/
def jobResult (j : Job) : Eff :=
  match j.dest with
  | some d => .tile d 0 (recordBytes j.seed j.rank (projCoef j.seed (rankOfCode j.rank) j.target)) 256
  | none => let r := searchResult j; .search r.1 r.2

/-- R239: the jobs of a core that end in this cycle put their results in the cycle's landings; a retired context gets none. -/
def execSearchJobEnd (core : Nat) (s : State) : Host.Outcome State Fault Refusal :=
  let c := coreOf s core
  let due := c.jobs.filter fun j => decide (j.finish ≤ c.cyc)
  let ends := due.filterMap fun j =>
    if j.ctx < 8 && !j.mute || j.dest.isSome then
      some { due := j.finish, ctx := j.ctx, pos := j.pos, slot := 3, seq := s.seq, bundle := j.bundle, eff := jobResult j : Pend }
    else none
  .next { modCore s core (fun c => { c with jobs := c.jobs.filter fun j => !decide (j.finish ≤ c.cyc), pend := c.pend ++ ends })
          with seq := s.seq + 1 }

end Sys2Proof.Machine
end

