-- ==== Sys2Proof/Machine/Cards.lean ====
section
/-! DEFINITION. Attention job cards: delivery, completion and the watchdog (R127-R130, R287, R347, R350). -/
namespace Sys2Proof.Machine

/-! ## The fields of a card (R127) -/

def cardId (y : Card) : Word := word (num y.bytes 0 8)
def cardClass (y : Card) : Nat := num y.bytes 8 1
def cardReplays (y : Card) : Nat := num y.bytes 9 1 % 4
def cardDeadline (y : Card) : Nat := num y.bytes 12 4
def cardStamp (y : Card) : Word := word (num y.bytes 16 8)

/-- R127: the card completes with 0x75. An id of 0 is not in the rule's list of what does, so such a card is accepted
(log 70). -/
def cardBad (y : Card) : Bool :=
  !zeroes y.bytes 10 2 || decide (num y.bytes 9 1 / 4 ≠ 0) || decide (cardClass y = 0 ∨ cardDeadline y = 0)

def cardAtKey (s : State) (key : Nat) : Option Card := s.cards.find? fun y => y.key = key
def putCard (s : State) (y : Card) : State := { s with cards := s.cards.map fun z => if z.key = y.key then y else z }
def dropCard (s : State) (key : Nat) : State := { s with cards := s.cards.filter fun y => y.key ≠ key }

/-! ## Ending a card (R127, R129, R130, R134) -/

/-- R129, R130: writes a card's stamp word at its global address, if it has one; a write that fails is lost. -/
def writeCardStamp (s : State) (y : Card) (status : BitVec 7) : State :=
  let a := cardStamp y
  let bs := natToBytes 8 (stampForm status (cardId y).toNat).toNat
  if a = 0 then s
  else
    match locOf a.toNat with
    | .dev _ => dvPut s y.asid a bs
    | .spad k off => if off + 8 ≤ 2 ^ 19 then spadWrite s k off bs else s
    | _ => s

/-- A card ends: its stamp when the rule gives one, then its completion record. -/
def endCard (s : State) (y : Card) (stamp : Bool) (status : BitVec 7) : State :=
  let s := if stamp then writeCardStamp s y status else s
  let s := complete s (streamRing s y.stream) { id := cardId y, kind := 2, status := status, stream := y.stream }
  dropCard s y.key

/-! ## Delivery (R128) -/

/-- R127: server contexts of a class that admitted gangs hold. DESIGN CHOICE (log 104): those of a gang that is evicted count, so a card
for them waits for the gang's return and does not end with 0x78. -/
def serverExists (s : State) (cls : Nat) : Bool :=
  let serves (g : Gang) : Bool := g.entries.any fun e => e.role = 3 && decide (e.cls = cls)
  s.gangs.any (fun g => decide (g.2.st ≠ .ending) && serves g.2) || s.streams.any fun st => st.2.out.any fun v => serves v.gang

/-- A card stands delivered to a context and is not acknowledged. -/
def hasCard (s : State) (key k x : Nat) : Bool :=
  s.cards.any fun y => y.gang = key &&
    (match y.st with
     | .delivered k' x' _ _ => k' = k && x' = x
     | _ => false)

/-- R124: the context runs a fault handler as a host. -/
def isHosting (c : Ctx) : Bool := decide (c.handlerFor ≠ 0) && decide (c.life ≠ .idle)

/-- R128, R129: a server that can take a card: it has none unacknowledged, is not stopped by a fault and does not host a
handler. -/
def serverIdle (s : State) (key : Nat) (e : Entry) : Bool :=
  let c := ctxOf s e.core e.ctx
  decide (c.gang = some key) && !hasCard s key e.core e.ctx && decide (c.life ≠ .stopped) && !isHosting c

/-- R128: idle servers of a class, with their gangs. -/
def idleServers (s : State) (cls : Nat) : List (Nat × Entry) :=
  s.gangs.flatMap fun g =>
    if g.2.st = .running ∧ !g.2.evict ∧ !g.2.ckpt then
      ((g.2.entries.filter fun e => e.role = 3 && decide (e.cls = cls) && serverIdle s g.1 e).map fun e => (g.1, e))
    else []

/-- R128: another core than the one last reset for the card, then the lowest placement number. -/
def chooseServer (s : State) (y : Card) : Option (Nat × Entry) :=
  minBy (fun e : Nat × Entry => (if y.lastReset = some e.2.core then 2 ^ 16 else 0) + placement e.2.core e.2.ctx)
    (idleServers s (cardClass y))

/-- A server that has never started, or that has retired, starts at its entry in the next step (log 36). Its live half stays
as it is, and a half that is being written does not hold it (R263). DESIGN CHOICE (log 88): what it may fetch counts from this step. -/
def wakeServer (s : State) (e : Entry) (idx key : Nat) (g : Gang) : State :=
  if (ctxOf s e.core e.ctx).life = .idle then
    let s := modCtx (clearCtxPoison s e.core e.ctx) e.core e.ctx fun c =>
      { keepCounts c (freshCtx c g key e idx e.offset) with
        life := .waking (s.gauge + 1), liveHalf := c.liveHalf, fetchSince := s.gauge }
    { s with seq := s.seq + 1 }
  else s

/-- R128: the card, then the doorbell. -/
def deliverCard (s : State) (y : Card) (key : Nat) (e : Entry) : State :=
  let q := (ctxOf s e.core e.ctx).delivery + 1
  let idx := (ctxOf s e.core e.ctx).entry
  let s := match gangOf s key with
    | some g => wakeServer s e idx key g
    | none => s
  let s := modCtx s e.core e.ctx fun c => { c with delivery := q }
  let s := spadWrite s e.core e.mailbox (y.bytes.set 10 (BitVec.ofNat 8 y.attempt))
  let s := spadWrite s e.core (e.mailbox + 64) (natToBytes 8 q.toNat)
  putCard s { y with gang := key, st := .delivered e.core e.ctx s.gauge q }

/-- A card waits for a server: it is queued, or the gang that it was delivered to has ended (log 37). -/
def cardWaits (s : State) (y : Card) : Bool :=
  match y.st with
  | .queued => true
  | .delivered _ _ _ _ =>
    !(gangOf s y.gang).any (fun g => decide (g.st ≠ .ending)) && !s.streams.any fun st => st.2.out.any fun v => v.key = y.gang
  | .acked _ _ _ => false

/-- R127, R128: a waiting card is delivered to an idle server of its class, or completes when it is malformed or no server
serves it. -/
def execCardDeliver (card : Nat) (s : State) : Host.Outcome State Fault Refusal :=
  .next (match cardAtKey s card with
    | none => s
    | some y =>
      if !cardWaits s y then s
      else if cardBad y then endCard s y false 0x75
      else if !serverExists s (cardClass y) then endCard s y true 0x78
      else
        match chooseServer s y with
        | some (key, e) => deliverCard s y key e
        | none => s)

/-! ## Completion (R129) -/

/-- R129: a ferry command that the server issued before its acknowledgement has not performed. -/
def commandsBefore (s : State) (y : Card) (k x before : Nat) : Bool :=
  s.ferries.any fun f => f.2.cmds.any fun c =>
    decide (c.gang = y.gang) && c.core = k && c.ctx = x && decide (c.id < before)

/-- R129: the stamp, then the completion record. -/
def execCardComplete (card : Nat) (s : State) : Host.Outcome State Fault Refusal :=
  .next (match cardAtKey s card with
    | none => s
    | some y =>
      match y.st with
      | .acked k x before => if commandsBefore s y k x before then s else endCard s y true 0
      | _ => s)

/-! ## The watchdog (R130, R350) -/

/-- R130: the deadline of a delivered card has passed. The watchdog stands still while the gang is out (R119), when no gang of
that key is admitted, and during a checkpoint (R364). -/
def cardDue (s : State) (y : Card) : Bool :=
  match y.st with
  | .delivered _ _ g _ =>
    decide (g + cardDeadline y < s.gauge) && (gangOf s y.gang).any fun z => decide (z.st = .running) && !z.ckpt
  | _ => false

/-- R350: a fault that a reset host was serving returns to the head of the queue, and bit 6 of byte 26 of its record is
set. -/
def requeueFault (s : State) (key : Nat) (g : Gang) (k x : Nat) : State :=
  g.entries.foldl (fun s e =>
    let c := ctxOf s e.core e.ctx
    match c.fault with
    | some f =>
      if f.host = some (k, x) ∧ c.life = .stopped then
        let s := modCtx s e.core e.ctx fun c => { c with fault := some { f with host := none, queued := true } }
        let s := modGang s key fun g => { g with queue := c.entry :: g.queue.filter fun i => i ≠ c.entry }
        let a := faultSlot g c.entry
        match dvRead s g.asid (a + 26) 1 with
        | .ok b => dvPut s g.asid (a + 26) (natToBytes 1 (setField (bytesToNat b) 6 1 1))
        | .error _ => s
      else s
    | none => s) s

/-- R130, R239: what a reset context had in flight in its core is dropped, with its jobs that have not yet started, those of
its earlier kernels among them; pipe entries, arrivals and started jobs go on. -/
def dropFlight (s : State) (k x : Nat) : State :=
  modCore s k fun c =>
    let keeps (p : Pend) : Bool := match p.eff with
      | .pipe _ _ => true
      | .arrive _ _ => true
      | _ => false
    { c with pend := c.pend.filter fun p => p.ctx ≠ x || keeps p
             accs := c.accs.filter fun a => a.ctx ≠ x
             jobs := c.jobs.filter fun j => !(j.ctx = x && decide (c.cyc < j.start)) }

/-- R130, R226, R350: one context of the gang is reset and restarts at its entry with WD set; a search that has started delivers to
it (R239). DESIGN CHOICE (log 82): it restarts in the gauge step after that of the reset; R130 names no step. Another card that stands delivered to it
stays so, under its old sequence, until that card's own deadline: the spec does not say what becomes of it (log 71). -/
def resetCtx (key : Nat) (g : Gang) (s : State) (e : Entry) : State :=
  let k := e.core
  let x := e.ctx
  let c := ctxOf s k x
  let s := modGang s key fun g => { g with unserved := earlier g.unserved (c.fault.map (asFirst k x c)) }
  let s := unqueue s k x
  let s := dropIssuer (dropFlight s k x) k x
  let s := clearGrants s e
  let s := restartCtx s k x e.offset (.starting (s.gauge + 1) false)
  requeueFault (modCtx s k x fun c => { c with stWD := true, delivery := 0 }) key g k x

/-- R130: the contexts of the card's gang on the server's core are reset; the card is delivered again or fails. -/
def expireCard (s : State) (y : Card) (k x : Nat) (g : Gang) : State :=
  let es := g.entries.filter fun e => e.core = k
  let s := cancelWhere s fun c => c.gang = y.gang && c.core = k
  let s := es.foldl (resetCtx y.gang g) s
  let s := statAppend s k x 7 0 ((cardId y).toNat % 2 ^ 40)
  let s := serveQueue 65 y.gang s
  if y.attempt < cardReplays y then
    putCard s { y with attempt := y.attempt + 1, lastReset := some k, st := .queued }
  else endCard s y true 0x77

/-- R130. -/
def execCardWatchdog (card : Nat) (s : State) : Host.Outcome State Fault Refusal :=
  .next (match cardAtKey s card with
    | none => s
    | some y =>
      match y.st, gangOf s y.gang with
      | .delivered k x _ _, some g => if cardDue s y then expireCard s y k x g else s
      | _, _ => s)

end Sys2Proof.Machine
end

