-- ==== Sys2Proof/Machine/Issue.lean ====
section
/-! DEFINITION. One cycle of a core's sequencer: fetching the next bundle with its checks, giving the slots their words,
and what ends a bundle (R52-R58, R76, R77, R116-R118, R133, R150, R215-R217, R322, R339). The function that runs a slot's
word is a parameter. -/
namespace Sys2Proof.Machine

/-! ## The next bundle (R215, R216, R339) -/

/-- Points `cur` at a bundle; what this cycle has done so far stays. -/
def aim (s : State) (k x pos addr : Nat) (h lit : Word32) : State :=
  { s with cur := { s.cur with core := k, ctx := x, pos := pos, addr := addr, hdr := h, lit := lit, out := .issued, fin := .none } }

/-- The state before a context's cycle: nothing done, the signals and the poisoned places as they stand. -/
def startCycle (s : State) (k x : Nat) : State :=
  { s with cur := { core := k, ctx := x, sigs := (coreOf s k).sigs, poison := (coreOf s k).poison } }

/-- R339 rows 2 and 3: the deferred cause to raise, a missed step first, then the order in which commands ended. -/
def deferredNow (c : Ctx) (pinned : Bool) (g : Nat) : Option Deferred :=
  let due := c.deferred.filter fun d => mayRaise pinned d && (decide (d.step < g) || d.cause = 0x51 && !d.ferry)
  match due.find? fun d => d.cause = 0x51 with
  | some d => some d
  | none => due.head?

/-- Raises a deferred cause at the bundle that is about to issue. It is pending no longer once the cycle's fault is known to be
this one (`settleRaised`). -/
def raiseDeferred (s : State) (d : Deferred) : State :=
  let f := faultHere s d.cause 0 true d.d0 d.d1 d.d2
  let s := takeFault s s.cur.core s.cur.ctx { f with ferry := d.ferry, batch := d.batch }
  { s with cur := { s.cur with out := .faulted, faulted := true, levelFault := true, block := true, raised := some (s.cur.pos, d) } }

/-- R217, R339: the deferred cause that this cycle raised leaves the context's list, unless an earlier bundle's fault took its
place. -/
def settleRaised (s : State) (k x : Nat) : State :=
  match s.cur.raised with
  | some (pos, d) =>
    modCtx s k x fun c =>
      if c.fault.any fun f => f.level && f.pos = pos then { c with deferred := c.deferred.erase d } else c
  | none => s

/-- R364: a checkpoint of the context's gang is being taken, which suspends its pause count. -/
def isPaused (s : State) (c : Ctx) : Bool := (c.gang.bind (gangOf s)).any fun g => g.ckpt

/-- R118: the count of cycles would exceed ctl.pausebound. -/
def overdue (s : State) (c : Ctx) : Bool := decide (c.pauseBound.toNat < c.pauseCount + 1) && !isPaused s c

/-- R334: the bundle's S word is a FENCE that still waits. -/
def fenceHolds (s : State) (ws : List (Nat × Word32)) : Bool :=
  match ws.find? fun w => w.1 = 0 with
  | some w =>
    (match decodeSlot .S w.2 with
     | .ok (.fence g sc) =>
       guardPass (curCtx s) g &&
         (match fencePre s sc.toNat with
          | .wait _ => true
          | _ => false)
     | _ => false)
  | none => false

/-- R76, R339 row 5: the cause that a bundle's own words raise, if any. -/
def bundleCause (bubble : Bool) (a : Nat) (h lit : Word32) (ws : List (Nat × Word32)) : Option (BitVec 7) :=
  if h.toNat / 2 ^ 30 ≠ 0 ∨ hKind h = 3 ∨ !ownersOk h then some 0x02
  else if 28 < hSize h then some 0x08
  else if !bubble ∧ regionEnd a < a + hSize h then some 0x07
  else if !literalOk h lit ws then some 0x05
  else if !portsOk h ws then some 0x03
  else none

/-- R349: some byte of the bundle is poisoned. -/
def bundlePoisoned (c : CoreSt) (a : Nat) (h : Word32) : Bool :=
  (List.range 7).any fun i => decide (4 * i < min (hSize h) 28) && c.poison.contains (.isp ((a + 4 * i) / 8))

/-- A bundle that has passed its checks enters the window, and its header acts on the sequencing. -/
def enterBundle (s : State) (k x : Nat) (level : Bool) (ws : List (Nat × Word32)) : State :=
  modCtx s k x fun c =>
    let b : Bundle := { pos := c.npos, addr := s.cur.addr, hdr := s.cur.hdr, lit := s.cur.lit, words := ws, level := level,
                        delay := isDelay c c.npos }
    let c' := passHeader c s.cur.hdr true
    { c' with win := c'.win ++ [b] }

/-- R339 row 6, and the entry of a bundle that raises nothing. -/
def lastChecks (s : State) (k x : Nat) (level : Bool) (ws : List (Nat × Word32)) : State :=
  let c := ctxOf s k x
  let stack := loopsAtNext c
  if hE s.cur.hdr && !(stack.head?.any fun e => e.stop = s.cur.addr) then
    levelFault s 0x7A (word stack.length) (word ((stack.head?.map LoopEntry.stop).getD 0)) 0
  else if hY s.cur.hdr && isDirty (coreOf s k) x then
    let d := dirtyDetail s k x
    levelFault d.2.2 0x54 d.1 d.2.1 0
  else enterBundle s k x level ws

/-- R342: the detail words of a cause that a bundle's own words raise. -/
def causeDetail (cause : BitVec 7) (h lit : Word32) : Word × Word :=
  if cause = 0x05 then (0, 0) else (zext64 h, zext64 lit)

/-- The bundle at the next position: its words are fetched and checked in the order of R339. The answer's `cur.out` tells
whether it entered the window, waits, or faulted. A levelling bundle waits until every slot stands at it (R216), unless the
pause count ends the run (R118). A bubble of a zero-count loop (R150) has an empty header of its own. -/
def fetchBundle (s : State) (k x : Nat) : State :=
  let c := ctxOf s k x
  let nb := nextBundle c
  let a := nb.1
  let bubble := nb.2.1
  let s0 := aim s k x c.npos a 0 0
  if !bubble && otherHalf c a then levelFault s0 0x39 (word a) 0 0
  else
    let hw := if bubble then ((0 : Word32), s0) else fetchWord s0 k x a
    let h := hw.1
    let lw := if hKind h = 0 then ((0 : Word32), hw.2) else fetchWord hw.2 k x (a + 4)
    let ws := fetchSlots lw.2 k x (hSlots h) (a + hSize h - 4 * popcountN 6 (hMask h))
    let s1 := aim ws.2 k x c.npos a h lw.1
    let level := isLevel (coreOf s1 k).pinned h ws.1
    if level && !(c.spos.all fun p => p = c.npos) && !overdue s c then waits s1
    else if !bubble && bundlePoisoned (coreOf s1 k) a h then levelFault s1 0x7D (word 8) (word a) 0
    else
      match deferredNow c (coreOf s k).pinned s.gauge with
      | some d => raiseDeferred s1 d
      | none =>
        if overdue s c then levelFault s1 0x53 (zext64 c.pauseBound) 0 0
        else
          match bundleCause bubble a h lw.1 ws.1 with
          | some cause => let d := causeDetail cause h lw.1; levelFault s1 cause d.1 d.2 0
          | none => if fenceHolds s1 ws.1 then waits s1 else lastChecks s1 k x level ws.1

/-! ## Slots (R77, R215-R217) -/

/-- The lowest of the six positions. -/
def leastPos (c : Ctx) : Nat := c.spos.foldl min (c.spos.headD 0)

/-- A slot has issued or passed: it moves on, and the bundle keeps what its S slot asked for at its end. It waits for no peer
port any more (R210, R255). -/
def slotMoves (s : State) (k x : Nat) (sl : Slot) (p : Nat) : State :=
  let s := modCtx (dropRequests s k x fun i => i = sl.idx) k x fun c =>
    { c with spos := c.spos.set sl.idx (p + 1),
             win := if s.cur.fin = .none then c.win
                    else c.win.map fun b => if b.pos = p then { b with fin := s.cur.fin } else b }
  { s with cur := { s.cur with moved := true } }

/-- One slot in one cycle: it issues its word of the bundle at its position, or passes a bundle in which it is absent. -/
def slotGo (run : Slot → Word32 → State → State) (k x least : Nat) (s : State) (sl : Slot) : State :=
  let c := ctxOf s k x
  let p := (c.spos[sl.idx]?).getD 0
  if s.cur.block || decide (least + 8 < p) then s
  else
    match c.win.find? fun b => b.pos = p with
    | none => s
    | some b =>
      let s := aim s k x b.pos b.addr b.hdr b.lit
      match b.words.find? fun w => w.1 = sl.idx with
      | none => slotMoves s k x sl p
      | some w =>
        let s := run sl w.2 s
        match s.cur.out with
        | .issued => slotMoves s k x sl p
        | .waits => { s with cur := { s.cur with waited := true } }
        | .faulted => s

/-- All six slots in issue order. -/
def slotsGo (run : Slot → Word32 → State → State) (s : State) (k x least : Nat) : State :=
  Slot.all.foldl (slotGo run k x least) s

/-- The state before a levelling bundle that does not issue in this cycle: only free choices taken and requests made to peer
ports stay. -/
def undo (s r : State) (k : Nat) : State :=
  let asks := (coreOf r k).accs.filter fun a => isRequest a && !(coreOf s k).accs.any fun b => b.seq = a.seq
  let s := modCore s k fun c => { c with accs := c.accs ++ asks }
  { s with tape := r.tape, draws := r.draws, seq := r.seq }

/-- R335: a bundle-level fault that a slot found is taken as of before the bundle. -/
def undoFault (s r : State) (k x : Nat) : State :=
  match (ctxOf r k x).fault with
  | none => undo s r k
  | some f =>
    let s := undo s r k
    let c := ctxOf s k x
    { takeFault s k x { f with loops := c.loops.length, delay := delayAt c f.pos } with
      cur := { r.cur with moved := false } }

/-- R192: a blocked TICK parks its context at its bundle. -/
def parkTick (s r : State) (k x : Nat) : State :=
  let s := modCtx (undo s r k) k x fun c => { c with life := .parked .tick }
  { s with cur := { r.cur with moved := false } }

/-- A levelling bundle issues whole or not at all (R216). -/
def levelGo (run : Slot → Word32 → State → State) (s t : State) (k x least : Nat) : State :=
  let r := slotsGo run t k x least
  if r.cur.levelFault then undoFault s r k x
  else if r.cur.waited then
    (if r.cur.fin = .parks .tick then parkTick s r k x else { undo s r k with cur := { s.cur with moved := false } })
  else r

/-- R126, R216: the S word of a bundle that levels by it has still to issue, as after a fault of the S slot alone that is resumed.
The sequence goes on as it would have (R150, R153): no later bundle is reached before that word has issued. -/
def levelHeld (c : Ctx) : Bool :=
  c.win.any fun b => decide ((c.spos.headD 0) ≤ b.pos) && (b.words.filterMap formOf).any fun f => f.1 = .S && levelsS f.2

/-- The newest bundle of the window levels. -/
def newLevel (c : Ctx) : Bool := (c.win.getLast?).any fun b => b.level

/-- One cycle of the issuing context: the next bundle is fetched when a slot has reached it, and every slot acts. -/
def cycleGo (run : Slot → Word32 → State → State) (s : State) (k x : Nat) : State :=
  let c := ctxOf s k x
  let least := leastPos c
  let s := startCycle s k x
  if overdue s c then
    let t := if levelHeld c then waits s else fetchBundle s k x
    if t.cur.out = .faulted then t else levelFault (aim s k x c.npos (nextBundle c).1 0 0) 0x53 (zext64 c.pauseBound) 0 0
  else
    let wants := c.spos.any (fun p => p = c.npos) && decide (c.npos ≤ least + 8) && !levelHeld c
    let t := if wants then fetchBundle s k x else waits s
    match t.cur.out with
    | .issued =>
      if newLevel (ctxOf t k x) then levelGo run s t k x least else slotsGo run t k x least
    | .faulted => slotsGo run { t with cur := { t.cur with block := false } } k x least
    | .waits => slotsGo run { s with tape := t.tape, draws := t.draws } k x least

/-! ## The end of a bundle (R116, R192, R260, R262, R281) -/

/-- The condition of a wait holds. -/
def waitMet (s : State) (k x : Nat) (w : Wait) : Bool :=
  match w with
  | .pipe p => !(pipeOf s (64 * (k / 8) + p)).entries.isEmpty
  | .conf cf => decide ((confOf s (512 * k + cf)).g ≠ ticketAt (ctxOf s k x) cf)
  | .word t off v => decide (readNat (coreOf s t).spad off 7 = v.toNat)
  | .tick => !tickBlocked s k x

/-- A wait that is over disarms its confluence (R262). -/
def waitOver (s : State) (k x : Nat) (w : Wait) : State :=
  modCtx s k x fun c =>
    match w with
    | .conf cf => { c with life := .ready, armed := mapSet false c.armed cf false }
    | _ => { c with life := .ready }

/-- A bundle whose end is still to act, once every slot has issued or passed it. -/
def endedBundle (c : Ctx) : Option Bundle :=
  c.win.find? fun b => (decide (b.fin ≠ .none) || hY b.hdr || hP b.hdr) && c.spos.all fun p => decide (b.pos < p)

/-- Drops the bundles that every slot has issued or passed. -/
def trimWindow (c : Ctx) : Ctx := { c with win := c.win.filter fun b => decide (leastPos c ≤ b.pos) }

/-- R120: a context retires at the end of its bundle. -/
def retireNow (s : State) (k x : Nat) : State :=
  let key := (ctxOf s k x).gang
  let s := switchPoint (retireCtx s k x) k x .leaves
  match key with
  | some g => afterRetire s g k x
  | none => s

/-- R192, R260, R262, R281, R339: a context parks on a wait; a cause that is already deferred readies it when it falls due. -/
def parkOn (g : Nat) (w : Wait) (c : Ctx) : Ctx :=
  { c with life := if c.deferred.any (mayRaise c.pinCur) then .waking (g + 1) else .parked w }

/-- R116: what the end of a bundle does: a wait, RETIRE, a yield, a pause point. -/
def endBundle (s : State) (k x : Nat) (b : Bundle) : State :=
  match b.fin with
  | .retires => retireNow s k x
  | .met => switchPoint s k x .yields
  | .parks w =>
    if waitMet s k x w then switchPoint (waitOver s k x w) k x .yields
    else switchPoint (modCtx s k x fun c => parkOn s.gauge w (takeMode c)) k x .leaves
  | .none => if hY b.hdr then switchPoint s k x .yields else switchPoint s k x .pauses

/-! ## The end of a cycle (R77, R118, R133, R215, R217) -/

/-- R217, R341: the bundles past the faulting one that each slot has issued or passed. -/
def fillLead (c : Ctx) : Ctx :=
  { c with fault := c.fault.map fun f => { f with lead := c.spos.map fun p => min 8 (p - f.pos - 1) } }

/-- R77, R116, R125: the fault of this cycle is closed: a switch point, and the gang counts it. No slot waits for a peer port
any more. -/
def closeFault (s : State) (k x : Nat) : State :=
  let s := modCtx (dropRequests s k x fun _ => true) k x fillLead
  noteFault (switchPoint (modCtx s k x fun c => { c with life := .stopped }) k x .leaves) k x

/-- The context took a fault in this cycle. -/
def faultedNow (s : State) (k x : Nat) : Bool :=
  s.cur.faulted && (ctxOf s k x).fault.any fun f => f.step = s.gauge && f.cycle = (coreOf s k).cyc

/-- R215, R347: cycles stalled at the slip bound, with the slot that waits and its bundle. `c` is the context before the
cycle: a slot that led the least position by more than 8 could neither issue nor pass in it. -/
def noteSlip (s : State) (k x : Nat) (c : Ctx) : State :=
  let least := leastPos c
  if c.spos.any fun p => decide (least + 8 < p) then
    let i := (c.spos.findIdx? fun p => p = least).getD 0
    let a := ((c.win.find? fun b => b.pos = least).map Bundle.addr).getD 0
    modCtx s k x fun c => { c with slipStall := c.slipStall + 1, slipSlot := i, slipAddr := a }
  else if 0 < (ctxOf s k x).slipStall then
    let y := ctxOf s k x
    let s := statAppend s k x 5 y.slipAddr (y.slipSlot + 256 * min y.slipStall (2 ^ 32 - 1))
    modCtx s k x fun c => { c with slipStall := 0 }
  else s

/-- R133: what each context of a core counts in a cycle. -/
def occCycle (s : State) (k : Nat) (issuer : Option Nat) (moved : Bool) : State :=
  (List.range 8).foldl (fun s y =>
    let c := ctxOf s k y
    if c.gang.isNone then s
    else if issuer = some y then
      modCtx s k y fun c => occBump c fun r => if moved then { r with issuing := r.issuing + 1 } else { r with stalled := r.stalled + 1 }
    else
      match c.life with
      | .parked _ => modCtx s k y fun c => occBump c fun r => { r with parked := r.parked + 1 }
      | .ready => modCtx s k y fun c => occBump c fun r => { r with waiting := r.waiting + 1 }
      | _ => s) s

/-- R117, R118, R148, R364: the issuing context counts the cycle, and is the one that last issued on its core. -/
def countCycle (s : State) (k x : Nat) : State :=
  let s := modCtx s k x fun c =>
    { c with pauseCount := if isPaused s c then c.pauseCount else c.pauseCount + 1, cycles := c.cycles + 1 }
  modCore s k fun c => { c with last := x }

/-- The gang of a context serves queued faults and ends where it may (R121, R124). -/
def sweepGang (s : State) (g : Option Nat) : State :=
  match g with
  | some key => checkEnd (serveQueue 65 key s) key
  | none => s

/-- What follows the slots of a cycle: a fault, a parked TICK or the end of a bundle is a switch point. -/
def closeCycle (s : State) (k x : Nat) : State :=
  let key := (ctxOf s k x).gang
  let s := if faultedNow s k x then closeFault (settleRaised s k x) k x
    else if (ctxOf s k x).life = .parked .tick then
      switchPoint (modCtx s k x fun c => parkOn s.gauge .tick (takeMode c)) k x .leaves
    else
      match endedBundle (ctxOf s k x) with
      | some b => endBundle (modCtx s k x trimWindow) k x b
      | none => modCtx s k x trimWindow
  sweepGang s key

/-- One cycle of a core whose sequencer has an issuing context. -/
def issueCtx (run : Slot → Word32 → State → State) (s : State) (k x : Nat) : State :=
  let c := ctxOf s k x
  let s := startCycle s k x
  if (endedBundle c).isSome then closeCycle (occCycle (countCycle s k x) k (some x) false) k x
  else if (coreOf s k).cyc < c.stallUntil then occCycle (countCycle s k x) k (some x) false
  else
    let r := cycleGo run s k x
    let r := noteSlip r k x c
    let r := occCycle (countCycle r k x) k (some x) r.cur.moved
    closeCycle r k x

/-- R322: 0x51 on the bundle that would have issued: the next one, or, after a resumption, the one that some slot has still
to issue. -/
def dropFault (s : State) (k x : Nat) (d : Deferred) : State :=
  let c := ctxOf s k x
  let t := if levelHeld c then waits s else fetchBundle s k x
  if t.cur.out = .faulted then t
  else
    match c.win.find? fun b => b.pos = leastPos c with
    | some b => raiseDeferred (aim s k x b.pos b.addr b.hdr b.lit) d
    | none => s

/-- R322: a dropped step: no bundle issues, the drops field counts it, a timing-slip record names it, and the issuing context
takes 0x51 on the bundle that would have issued. An idle core chooses in it as in any other (R117). -/
def dropStep (s : State) (k : Nat) : State :=
  let s := modCore s k fun c => { c with drops := if c.drops = 255 then 255 else c.drops + 1 }
  match (coreOf s k).issuer with
  | none => chooseIdle (occCycle s k none false) k
  | some x =>
    let d : Deferred := { cause := 0x51, ferry := false, step := s.gauge, d0 := word s.gauge, d1 := 0, d2 := 0, batch := none }
    let s := startCycle (modCtx s k x fun c => { c with deferred := c.deferred ++ [d] }) k x
    let s := statAppend s k x 6 (nextBundle (ctxOf s k x)).1 (s.gauge % 2 ^ 40)
    let t := dropFault s k x d
    closeCycle (occCycle (countCycle t k x) k (some x) false) k x

/-- R322: a pinned core drops this step. -/
def dropsNow (s : State) (k : Nat) : Bool := (coreOf s k).pinned && (coreOf s k).dropAt.contains s.gauge

/-- One cycle of a core's sequencer. -/
def issueCore (run : Slot → Word32 → State → State) (s : State) (k : Nat) : State :=
  if dropsNow s k then dropStep s k
  else
    match (coreOf s k).issuer with
    | none => occCycle s k none false
    | some x => issueCtx run s k x

/-! ## The sequencer's own events -/

/-- The header of the bundle that the issuing context of a core would process next, when every slot stands at it and no older
word can be fetched in its place (R265). -/
def headAhead (s : State) (k : Nat) : Option Word32 :=
  (coreOf s k).issuer.bind fun x =>
    let c := ctxOf s k x
    if c.spos.all fun p => p = c.npos then
      (if (nextBundle c).2.1 then some 0
       else match fetchChoices (coreOf s k) x (nextBundle c).1 with
         | [w] => some w
         | _ => none)
    else none

/-- R54: a core whose next bundle has an empty present mask issues it as a bubble of one cycle, its header acting. -/
def execEmptyBundle (core : Nat) (s : State) : Host.Outcome State Fault Refusal :=
  .next (if (headAhead s core).any fun h => hMask h = 0 then issueCore (fun _ _ s => s) s core else s)

/-- R118: the issuing context's count would exceed its bound: it takes 0x53, or a cause of an earlier row of R339. -/
def execPauseOverdue (core : Nat) (s : State) : Host.Outcome State Fault Refusal :=
  .next (match (coreOf s core).issuer with
    | some x => if overdue s (ctxOf s core x) then issueCore (fun _ _ s => s) s core else s
    | none => s)

/-- R117: an idle core chooses a ready context. -/
def execIdleCoreChoose (core : Nat) (s : State) : Host.Outcome State Fault Refusal := .next (chooseIdle s core)

end Sys2Proof.Machine
end

