-- ==== Sys2Proof/Machine/Saves.lean ====
section
/-! DEFINITION. Eviction, checkpoints and recovery of gangs, and the event rings' host side
(R119, R135, R200, R363, R364). -/
namespace Sys2Proof.Machine

/-! ## Stopping a gang at its switch points (R119, R364) -/

/-- R119, R364: no context of the gang issues, what they issued has landed, and issued commands have performed. A stamp whose
batch still has waiting commands cannot perform before they do, and stays with them in its ferry; so does a command that waits for an
access which a context stopped by a fault has still to issue (R330, log 35). -/
def gangStill (s : State) (key : Nat) (g : Gang) : Bool :=
  gangHalted s g &&
  (g.entries.all fun e =>
    let c := coreOf s e.core
    !(c.pend.any fun p => p.ctx = e.ctx) && !(c.accs.any fun a => a.ctx = e.ctx) && !(c.jobs.any fun j => j.ctx = e.ctx && !j.mute) &&
      decide ((ctxIn c e.ctx).beatEnd ≤ c.cyc)) &&
  !s.ferries.any fun f => f.2.cmds.any fun c =>
    decide (c.gang = key ∧ c.st ≠ .waiting) && !(c.st = .issued && (c.kind = .stamp && !batchDone f.2 c || !inOrder s c))

/-- R119, R200: everything that a gang holds. -/
def saveGang (s : State) (key : Nat) (g : Gang) : Saved :=
  { key := key, gang := g, since := s.gauge
    ctxs := g.entries.map fun e => (e.core, e.ctx, ctxOf s e.core e.ctx)
    tiles := (tileKeys g).map fun n => (n / 32, n % 32, tileOf (coreOf s (n / 32)) (n % 32))
    groves := (groveKeys g).map fun n => (n / 4, n % 4, groveOf (coreOf s (n / 4)) (n % 4))
    sigs := (sigKeys g).filterMap fun n => (sigOf (coreOf s (n / 256)).sigs (n % 256)).map fun x => (n / 256, n % 256, x)
    spads := g.entries.map fun e => (e.core, mapRange (coreOf s e.core).spad e.lo (e.hi + 1 - e.lo))
    pipes := g.pipes.map fun p => (p, pipeOf s p)
    confs := g.confs.map fun c => (c.1, confOf s c.1)
    poison := g.entries.flatMap fun e => ((coreOf s e.core).poison.filter (isGranted e)).map fun p => (e.core, p) }

/-- R119, R364: state written to a save area. Neither its layout nor its length is given, so both are free choices (log 72); a
write that fails is lost. -/
def writeArea (s : State) (asid : Nat) (a : Word) : State :=
  let n := draw s
  let x := draw n.2
  dvPut x.2 asid a (natToBytes n.1 x.1)

/-! ## Eviction (R119) -/

/-- R119: canopy asks for a gang with a save area to be evicted; one that is loading is evicted from its start step on. -/
def execEvictionRequest (gang : Nat) (s : State) : Host.Outcome State Fault Refusal :=
  .next (match gangOf s gang with
    | some g => if g.savearea ≠ 0 ∧ g.st ≠ .ending then setGang s gang { g with evict := true } else s
    | none => s)

/-- R119: the resources of an evicted gang are released; the fields of its tiles travel with it (R212). -/
def releaseEvicted (s : State) (key : Nat) (g : Gang) : State :=
  let s := g.entries.foldl (fun s e =>
    modCore s e.core fun c =>
      { putCtx c e.ctx { epoch := (ctxIn c e.ctx).epoch, starts := (ctxIn c e.ctx).starts, npos := (ctxIn c e.ctx).npos } with
        tiles := c.tiles.map fun t => (t.1, if e.tiles.getLsbD t.1 then { bytes := t.2.bytes } else t.2)
        sigs := c.sigs.filter fun x => x.2.owner ≠ e.ctx
        groves := c.groves.map fun x => (x.1, if x.2.owner = some e.ctx then { x.2 with owner := none } else x.2) }) s
  let s := releaseMeeting s key
  { s with gangs := mapDrop s.gangs key }

/-- R119: once every context has stopped and issued commands have performed, the gang's state is saved, its occupancy and a
kind-4 record are written, and it heads its stream. -/
def execEvictionSave (gang : Nat) (s : State) : Host.Outcome State Fault Refusal :=
  .next (match gangOf s gang with
    | some g =>
      if g.evict ∧ g.st = .running ∧ gangStill s gang g then
        let v := saveGang s gang g
        let s := writeArea (occWrite s g (occOut s gang g)) g.asid g.savearea
        let s := releaseEvicted s gang g
        let s := headOut s g.stream v
        complete s (streamRing s g.stream) { id := g.id, kind := 4, status := 0, faults := g.faults, stream := g.stream, first := g.first }
      else s
    | none => s)

/-! ## Checkpoints (R364) -/

/-- R364: canopy asks for a checkpoint of a gang that takes them. -/
def execCheckpointRequest (gang : Nat) (s : State) : Host.Outcome State Fault Refusal :=
  .next (match gangOf s gang with
    | some g =>
      if g.ckarea ≠ 0 ∧ g.st = .running ∧ !g.ckpt ∧ !g.evict then setGang s gang { g with ckpt := true, ckSince := s.gauge } else s
    | none => s)

/-- A copy of frames, by offsets from a base. -/
def copyOut (s : State) (frame count base : Nat) : Copy where
  bytes := (mapRange s.dram (frame * 4096) (count * 4096)).map fun e => (e.1 - frame * 4096 + base, e.2)
  bad := (s.badSectors.filter fun x => decide (frame * 128 ≤ x ∧ x < (frame + count) * 128)).map fun x => x - frame * 128 + base / 32

/-- R363: a copy is put back into frames, from a base on; what stood in them is gone, poison with it, and what was poisoned in the copy is
poisoned again. -/
def copyIn (s : State) (c : Copy) (frame count base : Nat) : State :=
  let here (n a : Nat) : Bool := decide (base / n ≤ a ∧ a < base / n + count * 4096 / n)
  { s with
    dram := (c.bytes.filter fun e => here 1 e.1).foldl (fun m e => mapSet 0 m (e.1 - base + frame * 4096) e.2)
              (mapClearRange s.dram (frame * 4096) (count * 4096))
    badSectors := (s.badSectors.filter fun x => !decide (frame * 128 ≤ x ∧ x < (frame + count) * 128)) ++
              (c.bad.filter (here 32)).map fun x => x - base / 32 + frame * 128 }

/-- The leaves of a buffer on this device. -/
def leavesHere (s : State) (asid bid : Nat) : List LeafRec :=
  s.leafs.filter fun l => l.asid = asid && l.bid = bid && decide (chipOf (l.frame * 4096) = s.chip.toNat)

/-- The stored bytes of a buffer on this device, by device-virtual address. -/
def bufferImage (s : State) (asid bid : Nat) : Copy :=
  let cs := (leavesHere s asid bid).map fun l => copyOut s l.frame l.count l.va
  { bytes := cs.flatMap Copy.bytes, bad := cs.flatMap Copy.bad }

/-- R364: the key-value blocks of an ASID whose frames are on this device. -/
def asidBlocks (s : State) (asid : Nat) : List (Nat × Block) :=
  s.blocks.filter fun b => b.2.owner = asid && decide (chipOf b.2.frame = s.chip.toNat)

/-- R364: buffers of an ASID, by bid. -/
def asidBuffers (s : State) (asid : Nat) : List Nat :=
  (s.buffers.filter fun b => b.1 / 2 ^ 20 = asid).map fun b => b.1 % 2 ^ 20

/-- R364: the copy of each buffer in a slot; a sealed one refers to the copy that first found it sealed, which the
latest slot holds or refers to. -/
def checkpointBuffers (s : State) (key : Nat) (g : Gang) : List (Nat × Copy) :=
  let old := (s.ckpts.filter fun c => c.gang = key).reverse.flatMap Ckpt.buffers
  (asidBuffers s g.asid).map fun b =>
    if g.ckSealed.contains b then (b, ((old.find? fun o => o.1 = b).map Prod.snd).getD {}) else (b, bufferImage s g.asid b)

/-- R364: the sealed buffers that have been copied. -/
def sealedNow (s : State) (g : Gang) : List Nat := (asidBuffers s g.asid).filter fun b => hImm (headerOf s g.asid b)

/-- R364: the next slot is written, and is whole once its kind-5 record is; the gang goes on. -/
def execCheckpointComplete (gang : Nat) (s : State) : Host.Outcome State Fault Refusal :=
  .next (match gangOf s gang with
    | some g =>
      if g.ckpt ∧ g.st = .running ∧ gangStill s gang g then
        let g' := { g with ckpt := false, ckDone := g.ckDone + 1, ckSealed := sealedNow s g }
        let k : Ckpt :=
          { gang := gang, chip := s.chip, slot := g.ckDone % 2, number := g.ckDone, saved := saveGang s gang g'
            buffers := checkpointBuffers s gang g
            reencoded := (s.newEnc.filter fun e => e.1 / 2 ^ 20 = g.asid).map fun e => (e.1 % 2 ^ 20, e.2)
            blocks := (asidBlocks s g.asid).map fun b => (b.1, copyOut s (b.2.frame / 4096) 1 0)
            pools := s.pools.filter fun p => p.1 / 2 ^ 64 = g.asid }
        let s := { s with ckpts := (s.ckpts.filter fun c => !(c.gang = gang && c.slot = k.slot)) ++ [k] }
        let s := writeArea s g.asid g.ckarea
        let s := setGang s gang g'
        let s := shiftCards s gang (s.gauge - g.ckSince)
        complete s (streamRing s g.stream) { id := g.id, kind := 5, status := 0, faults := g.faults, stream := g.stream, first := g.first, ckpt := some (gang, g.ckDone) }
      else s
    | none => s)

/-! ## Recovery (R363) -/

/-- R363: the last whole slot of each gang of a device. -/
def lastSlots (s : State) (chip : BitVec 9) : List Ckpt :=
  s.ckpts.filter fun c => c.whole && c.chip = chip && ((s.ckpts.filter fun d => d.gang = c.gang && d.whole).getLast?.map Ckpt.slot) = some c.slot

/-- The stored bytes of a buffer on this device are put back, through the leaves that it has now. -/
def restoreBuffer (s : State) (asid : Nat) (b : Nat × Copy) : State :=
  (leavesHere s asid b.1).foldl (fun s l => copyIn s b.2 l.frame l.count l.va) s

/-- R312: the re-encoded blocks of an ASID's buffers are put back. -/
def restoreNew (s : State) (asid : Nat) (es : List (Nat × Mem)) : State :=
  { s with newEnc := es.foldl (fun m e => mapSet [] m (bufKey asid e.1) e.2) (s.newEnc.filter fun e => e.1 / 2 ^ 20 ≠ asid) }

/-- The bytes of a key-value block are put back, into the frame of the block of that number that the ASID holds now; its fingerprint is
out of the index (R310). -/
def restoreBlock (s : State) (asid : Nat) (b : Nat × Copy) : State :=
  match (asidBlocks s asid).find? fun x => x.1 = b.1 with
  | some x => modBlock (copyIn s b.2 (x.2.frame / 4096) 1 0) b.1 fun y => { y with fp := none }
  | none => s

/-- R305: what the state areas of an ASID's pools hold is put back with its buffers. -/
def restorePools (s : State) (asid : Nat) (ps : SMap Pool) : State :=
  { s with pools := ps.foldl (fun m p => mapPut m p.1 p.2) (s.pools.filter fun p => p.1 / 2 ^ 64 ≠ asid) }

/-- R363: a gang comes back from its last whole slot: it heads its stream as after an eviction. DEDUCED (log 100): what a slot holds goes
where the tables that heartwood has set up again place it. -/
def restoreSlot (s : State) (c : Ckpt) : State :=
  if (gangOf s c.gang).isSome ∨ s.streams.any fun st => st.2.out.any fun v => v.key = c.gang then s
  else
    let asid := c.saved.gang.asid
    let s := c.buffers.foldl (fun s b => restoreBuffer s asid b) s
    let s := restoreNew s asid c.reencoded
    let s := c.blocks.foldl (fun s b => restoreBlock s asid b) s
    let s := restorePools s asid c.pools
    headOut s c.saved.gang.stream { c.saved with since := s.gauge }

/-- R363: a device fails. Its routes are removed, so commands that need it end with 0x42. A booted spare that is promoted to its
chip number brings back the affected gangs from their checkpoints. -/
def execDeviceFailureRecovery (chip : Nat) (spare : Bool) (s : State) : Host.Outcome State Fault Refusal :=
  .next (
    if spare then
      if !s.ready then s else
      (lastSlots s (BitVec.ofNat 9 chip)).foldl restoreSlot { s with chip := BitVec.ofNat 9 chip, quarantine := s.quarantine.filter fun c => c ≠ chip }
    else
      { s with quarantine := if s.quarantine.contains chip then s.quarantine else s.quarantine ++ [chip]
               links := s.links.map fun l =>
                 (l.1, if l.2.getLsbD 0 && decide (field l.2.toNat 1 9 = chip) then l.2 &&& ~~~(1 : BitVec 32) else l.2) })

/-! ## Event rings (R135) -/

/-- R135: the oldest unsignalled record has reached the time threshold. -/
def execEventRingTimeTrigger (ring : Nat) (s : State) : Host.Outcome State Fault Refusal :=
  .next (if ringDue s (ringOf s ring) then ringSignal s ring else s)

/-- R135: the host advances ECONS; held records are written in order while there is room. -/
def setEcons (s : State) (ring : Nat) (val : Word) : State :=
  let r := ringOf s ring
  ringDrain r.held.length ring (setRing s ring { r with cons := val })

/-- R135. -/
def execEconsWrite (ring : Nat) (val : Word) (s : State) : Host.Outcome State Fault Refusal := .next (setEcons s ring val)

end Sys2Proof.Machine
end

