-- ==== Sys2Proof/Machine/Signals.lean ====
section
/-! DEFINITION. The signal store: TICK, SNOW, SCLR, SFEED (R182-R200). -/
namespace Sys2Proof.Machine

/-- R190: the sample that an advance takes, and whether it is the fill value. -/
def advanceSample (s : State) (k : Nat) (x : Signal) : VReg × Bool :=
  match x.piped with
  | some p => ((pipeOf s (64 * (k / 8) + p)).entries.headD 0, false)
  | none => if x.nw then (x.next, false) else (fillValue x, true)

/-- R190: the signal after an advance that takes a sample. -/
def advanced (x : Signal) (v : VReg) (starved : Bool) : Signal :=
  { x with lags := (v :: x.lags).take x.depth, nw := false, starved := x.starved || starved, adv := x.adv + 1 }

/-- R349: where the poison of a signal's words stands after an advance. -/
def shiftPoison (id : Nat) (x : Signal) (ps : List Place) : List Place :=
  let oldest := x.lags.length - 1
  let fed := x.nw && x.piped.isNone
  let copied := !x.nw && x.piped.isNone && x.rule = 2
  ps.flatMap fun p =>
    match p with
    | .sigNext i w => if i = id && fed then [.sig id 0 w] else [p]
    | .sig i l w =>
      if i = id then
        (if l + 1 < x.depth then [.sig id (l + 1) w] else []) ++ (if copied && l = oldest then [.sig id 0 w] else [])
      else [p]
    | _ => [p]

/-- R190, R196: one signal advances; the first starved advance appends a record. -/
def advance (s : State) (id : Nat) : State :=
  let k := s.cur.core
  match sigOf (curCore s).sigs id with
  | none => s
  | some x =>
    let v := advanceSample s k x
    let s := modCurCore s fun c => { setSig c id (advanced x v.1 v.2) with poison := shiftPoison id x c.poison }
    let s := match x.piped with
      | some p =>
        let q := 64 * (k / 8) + p
        setPipe s q { pipeOf s q with entries := (pipeOf s q).entries.tail }
      | none => s
    if v.2 && !x.starved then
      statAppend s k s.cur.ctx 4 s.cur.addr (id + 256 * ((curCtx s).tick.toNat % 2 ^ 32))
    else s

/-- R189: T counts up and every due signal advances. DESIGN CHOICE (log 46): when several are starved at once, their records
stand in ascending order of their ids. -/
def tickNow (s : State) : State :=
  let due := (dueSignals (curCore s) s.cur.ctx).map Prod.fst
  due.foldl advance (modCurCtx s fun c => { c with tick := c.tick + 1 })

/-- R192: the context parks at this bundle, and no slot of it issues. -/
def tickPark (s : State) : State :=
  let s := modCurCtx s fun c => { c with life := .parked .tick }
  { s with cur := { s.cur with block := true, fin := .parks .tick } }

/-- R189, R192. -/
def execTick (g : BitVec 4) (s : State) : Host.Outcome State Fault Refusal :=
  runSlot (.tick g) .S s
    (fun s => if tickBlocked s s.cur.core s.cur.ctx then .wait (tickPark s) else .ok) tickNow

/-- R187: a signal's state word. -/
def sigWord (x : Signal) : Word :=
  word (x.lags.length + (if x.nw then 2 ^ 9 else 0) + (if x.starved then 2 ^ 10 else 0) +
    (if x.piped.isSome then 2 ^ 11 else 0) + 2 ^ 16 * (x.depth - 1) + 2 ^ 24 * x.adv.toNat)

/-- R197. -/
def execSnow (g : BitVec 4) (d : BitVec 5) (n : BitVec 8) (s : State) : Host.Outcome State Fault Refusal :=
  runSlot (.snow g d n) .S s noPre fun s =>
    pushS s .S 1 d (((sigOf (curCore s).sigs n.toNat).map sigWord).getD 0)

/-- R198. -/
def execSclr (g : BitVec 4) (n : BitVec 8) (s : State) : Host.Outcome State Fault Refusal :=
  runSlot (.sclr g n) .S s noPre fun s => push s .S 1 (.sigClear n.toNat)

/-- R193: the next slot is written at issue+2; a piped signal refuses it. -/
def execSfeed (sl : VSlot) (g : BitVec 4) (a : BitVec 5) (n : BitVec 8) (s : State) :
    Host.Outcome State Fault Refusal :=
  runSlot (.sfeed sl g a n) sl.slot s
    (fun s => if (sigOf (curCore s).sigs n.toNat).any fun x => x.piped.isSome then .fault 0x22 (zext64 n) 0 0 else .ok)
    fun s => push s sl.slot 2 (.sigFeed n.toNat (vsrc s sl.slot a))

end Sys2Proof.Machine
end

