-- ==== Sys2Proof/Machine/Tables.lean ====
section
/-! DEFINITION. What heartwood and canopy do to memory: table changes, migration, requantisation, and the host's own
accesses (R291-R294, R297, R300, R303, R304, R312, R313, R349, R353, R360). -/
namespace Sys2Proof.Machine

/-! ## Refusals (R292) -/

/-- Heartwood refuses a change; nothing changes. -/
def refuseChange (s : State) : State := { s with outbox := s.outbox ++ [.refusedChange] }

/-- Frames of a leaf overlap a span of frames. -/
def overlaps (l : LeafRec) (frame count : Nat) : Bool := decide (l.frame < frame + count) && decide (frame < l.frame + l.count)

/-- The leaves of a buffer in address order. -/
def leavesOf (s : State) (asid bid : Nat) : List LeafRec :=
  sortBy LeafRec.va (s.leafs.filter fun l => l.asid = asid && l.bid = bid)

/-- R303: a span of frames meets those that a waiting migration is to fill, that of buffer `but` left out. -/
def frameAwaited (s : State) (but : Option (Nat × Nat)) (frame count : Nat) : Bool :=
  (s.migrations.filter fun m => decide (but ≠ some (m.asid, m.bid))).any fun m =>
    (List.zip (leavesOf s m.asid m.bid) m.frames).any fun p => decide (p.2 < frame + count) && decide (frame < p.2 + p.1.count)

/-- R297: one of some translation tables stands on a span of frames. -/
def tableAt (ts : List TableRec) (frame count : Nat) : Bool := ts.any fun t => decide (t.frame < frame + count) && decide (frame < t.frame + 2)

/-- R299: a key-value block stands on a span of frames. -/
def blockAt (s : State) (frame count : Nat) : Bool :=
  s.blocks.any fun b => decide (frame ≤ b.2.frame / 4096) && decide (b.2.frame / 4096 < frame + count)

/-- R292, R303: a migration of buffer `but` may fill the frames: no leaf, no block and no table stands there, and no other migration
fills them. -/
def frameFree (s : State) (but : Nat × Nat) (frame count : Nat) : Bool :=
  !(s.leafs.any fun l => overlaps l frame count) && !blockAt s frame count && !tableAt s.tables frame count &&
    !frameAwaited s (some but) frame count

/-- R292, R360: a translation table may stand on two frames: nothing else does, nor one of the tables that stay. -/
def tableRoom (s : State) (stay : List TableRec) (frame : Nat) : Bool :=
  !(s.leafs.any fun l => overlaps l frame 2) && !blockAt s frame 2 && !tableAt stay frame 2 && !frameAwaited s none frame 2

/-- R292, R360: another address space maps or owns one of the frames, or a migration is to fill it. -/
def frameTaken (s : State) (asid frame count : Nat) : Bool :=
  frameAwaited s none frame count ||
  (s.leafs.any fun l => decide (l.asid ≠ asid) && overlaps l frame count) ||
    s.blocks.any fun b => decide (b.2.owner ≠ asid) && decide (frame ≤ b.2.frame / 4096) && decide (b.2.frame / 4096 < frame + count)

/-! ## Table entries (R297) -/

/-- Bytes that an entry at a level covers, as a power of two: level 5 is the lowest. -/
def levelBits (level : Nat) : Nat := 12 + 9 * (5 - level)

/-- The table that `m` more levels of next-table entries lead to, from a table of level 5 - n. -/
def tableFor (s : State) (va : Nat) : Nat → Nat → Nat → Option Nat
  | 0, _, t => some t
  | m + 1, n, t =>
    let e := readNat s.dram (t + 16 * field va (12 + 9 * n) 9) 16
    if e % 2 = 1 ∧ field e 1 2 = 3 ∧ !entryReserved e then
      tableFor s va m (n - 1) (physOf (chipOf t) (field e 12 27 * 4096))
    else none

/-- The physical address of an entry of an address space's table. -/
def entryAddr (s : State) (asid va level : Nat) : Option Nat :=
  if level = 0 ∨ 5 < level then none
  else
    (rootOf s asid).bind fun r => (tableFor s va (level - 1) 4 r).map fun t => t + 16 * field va (levelBits level) 9

/-- R291, R297: the leaf that an entry is, when it is a legal one. -/
def leafOf (asid va level : Nat) (e : Nat) : Option LeafRec :=
  let n := 5 - level
  let phys := physOf (field e 48 9) (field e 12 27 * 4096)
  if e % 2 = 1 ∧ field e 1 2 = n ∧ n ≤ 2 ∧ !entryReserved e ∧ phys % 2 ^ levelBits level = 0 ∧ field e 48 9 < 432 then
    some { frame := phys / 4096, count := 2 ^ (9 * n), asid := asid, va := va / 2 ^ levelBits level * 2 ^ levelBits level,
           level := level, bid := field e 64 20 }
  else none

/-- Leaves of an address space under an entry. -/
def underEntry (asid va level : Nat) (l : LeafRec) : Bool :=
  l.asid = asid && decide (l.va / 2 ^ levelBits level = va / 2 ^ levelBits level)

/-- R297: the table that an entry leads to, when it is a legal one. -/
def tableOf (asid va level at' e : Nat) : Option TableRec :=
  if e % 2 = 1 ∧ field e 1 2 = 3 ∧ level < 5 ∧ !entryReserved e then
    some { frame := physOf (chipOf at') (field e 12 27 * 4096) / 4096, asid := asid,
           va := va / 2 ^ levelBits level * 2 ^ levelBits level, level := level + 1 }
  else none

/-- Tables of an address space under an entry. -/
def underTable (asid va level : Nat) (t : TableRec) : Bool :=
  t.asid = asid && decide (level < t.level) && decide (t.va / 2 ^ levelBits level = va / 2 ^ levelBits level)

/-- The tables that stay when an entry changes. -/
def tablesBut (s : State) (asid va level : Nat) : List TableRec := s.tables.filter fun t => !underTable asid va level t

/-- Writes an entry; it leaves every TLB, with all that stood under it. -/
def writeEntry (s : State) (asid va level at' : Nat) (val : Nat) : State :=
  let s := { s with dram := writeBytes s.dram at' (natToBytes 16 val)
                    tables := tablesBut s asid va level ++ (tableOf asid va level at' val).toList
                    leafs := (s.leafs.filter fun l => !underEntry asid va level l) ++ (leafOf asid va level val).toList }
  tlbDrop s asid fun p => decide (p * 4096 / 2 ^ levelBits level = va / 2 ^ levelBits level)

/-- R291, R292, R297, R360: a change of one entry. A next table starts empty. What would put a table on frames that something else uses, or
anything else on a table's frames, is refused (log 59). -/
def changeEntry (s : State) (asid va level : Nat) (val : BitVec 128) : State :=
  match entryAddr s asid va level with
  | none => refuseChange s
  | some at' =>
    let busy := (s.leafs.filter (underEntry asid va level)).any fun l => decide (busyOf s asid l.bid ≠ 0)
    let e := val.toNat
    let stay := tablesBut s asid va level
    if busy ∨ (e % 2 = 1 ∧ field e 1 2 ≠ 3 ∧ 432 ≤ field e 48 9) then refuseChange s
    else
      match tableOf asid va level at' e, leafOf asid va level e with
      | some t, _ =>
        if tableRoom s stay t.frame then writeEntry { s with dram := mapClearRange s.dram (t.frame * 4096) 8192 } asid va level at' e
        else refuseChange s
      | none, some l =>
        if hOwnerB (headerOf s asid l.bid) ≠ asid ∨ frameTaken s asid l.frame l.count ∨ tableAt stay l.frame l.count then refuseChange s
        else writeEntry s asid va level at' e
      | none, none => writeEntry s asid va level at' e

/-- A table root: the table starts empty, and an address space that has leaves keeps its root. -/
def changeRoot (s : State) (asid addr : Nat) : State :=
  let stay := s.tables.filter fun t => decide (t.asid ≠ asid)
  if (s.leafs.any fun l => decide (l.asid = asid)) ∨ !tableRoom s stay (addr / 4096) ∨ addr % 4096 ≠ 0 then refuseChange s
  else
    tlbDrop { s with
      roots := mapPut s.roots asid addr, dram := mapClearRange s.dram addr 8192
      tables := stay ++ [{ frame := addr / 4096, asid := asid, va := 0, level := 1 }] } asid fun _ => true

/-! ## Headers (R293, R312) -/

/-- R312: the bytes of a buffer's new encoding, its blocks and their side slots, by device-virtual address. -/
def newBytes (s : State) (asid bid : Nat) (h : BitVec 512) : List (Nat × Byte) :=
  (List.range (hSizeB h / 128)).flatMap fun n =>
    let b := newBlock s (bufKey asid bid) n (hFmt h)
    (b.1.mapIdx fun i x => (hBase h + n * blockBytes (hFmt h) + i, x)) ++ b.2.mapIdx fun i x => (hAux h + 32 * n + i, x)

/-- The physical places of bytes given by device-virtual address, none where one of them has no leaf. -/
def placed (s : State) (asid : Nat) : List (Nat × Byte) → Option (List (Nat × Byte))
  | [] => some []
  | e :: es =>
    match walkFrom s asid e.1, placed s asid es with
    | .page phys _ _, some ps => some ((phys + e.1 % 4096, e.2) :: ps)
    | _, _ => none

/-- R312: the new encoding of a requantised buffer becomes its stored form, and what stood in its frames is gone, poison with it; none
where some byte of the new stored form or of a side slot has no leaf to hold it. -/
def installNew (s : State) (asid bid : Nat) (h : BitVec 512) : Option State :=
  (placed s asid (newBytes s asid bid h)).map fun ws =>
    let ls := s.leafs.filter fun l => l.asid = asid && l.bid = bid
    let cleared := ls.foldl (fun d l => mapClearRange d (l.frame * 4096) (l.count * 4096)) s.dram
    let bad := s.badSectors.filter fun x =>
      !(ls.any fun l => decide (l.frame * 128 ≤ x ∧ x < (l.frame + l.count) * 128)) && !(ws.any fun e => decide (e.1 / 32 = x))
    putPhys { s with dram := cleared, badSectors := bad, newEnc := mapDrop s.newEnc (bufKey asid bid) } ws

/-- R293: two ranges of an address space overlap. -/
def rangeTaken (s : State) (asid bid : Nat) (h : BitVec 512) : Bool :=
  s.buffers.any fun b => decide (b.1 / 2 ^ 20 = asid ∧ b.1 % 2 ^ 20 ≠ bid) &&
    decide (hBase b.2 < hBase h + hSizeB h) && decide (hBase h < hBase b.2 + hSizeB b.2)

/-- R5, R235, R293: a header that the table may hold: no reserved bit or format, base and size multiples of 4 KiB, and expansion
point 3 for a grove. -/
def headerLegal (h : BitVec 512) : Bool :=
  decide (field h.toNat 323 189 = 0 ∧ hFmt h < 6 ∧ hBase h % 4096 = 0 ∧ hSizeB h % 4096 = 0 ∧ (hFmt h = 5 → hXp h = 3))

/-- R312: the blocks of a buffer whose headers say that they are re-encoded; none where the map cannot be read. -/
def renewed (s : State) (asid : Nat) (h : BitVec 512) : Option Nat :=
  let each := (List.range (hSizeB h / 128)).map fun n => blockFormat s asid h n
  if each.any fun r => match r with | .ok _ => false | .error _ => true then none
  else some (each.filter fun r => match r with | .ok (_, new) => new | .error _ => false).length

/-- R312: a requantisation may end in a new header: all blocks re-encoded and the new format in force, or none of them. -/
def rebindOk (s : State) (asid : Nat) (old h : BitVec 512) : Bool :=
  if hRqmap old = 0 then true
  else if hRqmap h = hRqmap old then decide (hFmt h = hFmt old ∧ hRqfmt h = hRqfmt old)
  else if hFmt h = hRqfmt old ∧ renewed s asid old = some (hSizeB old / 128) then true
  else decide (renewed s asid old = some 0)

/-- R292, R293, R312: a change of one header. mig and the counts are not canopy's to write. DESIGN CHOICE (log 86): a rebinding to the
new format waits for leaves that map all of the new stored form; without them it is refused. -/
def changeHeader (s : State) (asid bid : Nat) (val : BitVec 512) : State :=
  let old := headerOf s asid bid
  let h := hSet (hSet val 128 64 0) 111 1 (if hMig old then 1 else 0)
  let bound := s.leafs.any fun l => l.asid = asid && l.bid = bid
  if (hImm old && !hImm h) ∨ busyOf s asid bid ≠ 0 ∨ rangeTaken s asid bid h ∨ (bound ∧ hOwnerB h ≠ asid) ∨ !headerLegal h ∨
      !rebindOk s asid old h then refuseChange s
  else
    let s' := setHeader s asid bid h
    if hRqmap old ≠ 0 ∧ hRqmap h ≠ hRqmap old then
      (if hFmt h = hRqfmt old ∧ renewed s asid old ≠ some 0 then (installNew s' asid bid h).getD (refuseChange s)
       else { s' with newEnc := mapDrop s'.newEnc (bufKey asid bid) })
    else s'

/-! ## Key-value tables (R299, R300) -/

/-- A first-stage entry; only a block that is granted may be bound, and reserved bits are refused (R5). -/
def changeKv (s : State) (asid page : Nat) (val : Word) : State :=
  if kvReserved val ∨ kvValid val ∧ (kvGranted s asid val).isNone then refuseChange s else bindPage s asid page val

/-- R292, R299, R360: a grant of a block of a chip, given by its header. Its frame is in no other address space, a sealed block
stays sealed, and a block that is named or counted busy keeps its binding; mig and the counts are not canopy's to write. -/
def changeBlock (s : State) (chip block : Nat) (val : BitVec 512) : State :=
  let b := chip * 2 ^ 40 + block
  let h := hSet (hSet val 128 64 0) 111 1 0
  if (blockOf s b).any (fun x => decide (x.dref ≠ 0) || (hImm x.hdr && !hImm h)) ∨ busyOf s (blockTag b).1 (blockTag b).2 ≠ 0 ∨
      !headerLegal h ∨ hSizeB h ≠ 4096 ∨ hFmt h ≠ 0 ∨ hAux h % 4096 ≠ 0 ∨
      (s.leafs.any fun l => decide (l.asid ≠ hOwnerB h) && overlaps l (hAux h / 4096) 1) ∨ frameAwaited s none (hAux h / 4096) 1 ∨
      tableAt s.tables (hAux h / 4096) 1 ∨
      (s.blocks.any fun x => decide (x.1 ≠ b ∧ x.2.frame = hAux h)) then refuseChange s
  else setBlock s b { hdr := h, fp := none }

/-- R291: a stream's address space, which must have a translation table (DEDUCED, log 59). -/
def changeAsid (s : State) (n asid : Nat) : State :=
  if asid < 2 ^ 16 ∧ (rootOf s asid).isSome then setStream s n { streamOf s n with asid := BitVec.ofNat 16 asid } else refuseChange s

/-- R292: canopy asks heartwood to change a table. -/
def execHeartwoodTableChange (change : TableChange) (s : State) : Host.Outcome State Fault Refusal :=
  .next (match change with
    | .root asid addr => changeRoot s asid addr
    | .entry asid va level val => changeEntry s asid va level val
    | .header asid bid val => changeHeader s asid bid val
    | .kvEntry asid page val => changeKv s asid page val
    | .block chip block val => changeBlock s chip block val
    | .streamAsid n asid => changeAsid s n asid
    | .window port lo hi => { s with windows := s.windows ++ [(port, lo, hi)] }
    | .routes tbl => { s with routes := tbl, quarantine := s.quarantine.filter fun c => !tbl.any fun r => r.2 = c })

/-! ## Migration (R303, R304) -/

/-- R303: canopy sets mig on an unpinned buffer; `frames` holds the new first frame of each of its leaves. -/
def execMigrationStart (asid bid : Nat) (frames : List Nat) (s : State) : Host.Outcome State Fault Refusal :=
  .next (
    let h := headerOf s asid bid
    let ls := leavesOf s asid bid
    let moves := List.zip ls frames
    let fits := moves.all fun p =>
      decide (p.2 % p.1.count = 0 ∧ chipOf (p.2 * 4096) < 432) && frameFree s (asid, bid) p.2 p.1.count &&
        !(moves.any fun q => decide (q.1 ≠ p.1 ∧ q.2 < p.2 + p.1.count ∧ p.2 < q.2 + q.1.count))
    if hPin h ∨ hMig h ∨ ls.length ≠ frames.length ∨ ls.isEmpty ∨ !fits then refuseChange s
    else
      { setHeader s asid bid (hSet h 111 1 1) with migrations := s.migrations ++ [{ asid := asid, bid := bid, frames := frames }] })

/-- R304: the first 4 KiB chunk of a buffer whose copy faults or reads an uncorrectable error: a poisoned sector, frames on a
chip without a route (R357) or no longer free (R292), or a leaf that is no longer in its table or has no new frame. -/
def badChunk (s : State) (h : BitVec 512) (ls : List LeafRec) (frames : List Nat) : Option Nat :=
  let first (l : LeafRec) := (l.va - hBase h) / 4096
  minBy id ((ls.mapIdx fun i l => (l, frames[i]?)).flatMap fun m =>
    let l := m.1
    (match m.2 with
     | some f =>
       if noRoute s (chipOf (l.frame * 4096)) ∨ noRoute s (chipOf (f * 4096)) ∨ (entryAddr s l.asid l.va l.level).isNone ∨
           !frameFree s (l.asid, l.bid) f l.count then [first l]
       else []
     | none => [first l]) ++
    (s.badSectors.filter fun x => decide (l.frame * 128 ≤ x) && decide (x < (l.frame + l.count) * 128)).map fun x =>
      first l + (x - l.frame * 128) / 128)

/-- R303: one leaf is copied to its new frames and rebound. -/
def moveLeaf (s : State) (p : LeafRec × Nat) : State :=
  let l := p.1
  match entryAddr s l.asid l.va l.level with
  | none => s
  | some at' =>
    let e := readNat s.dram at' 16
    writeEntry (copySpan s (l.frame * 4096) (p.2 * 4096) (l.count * 4096)) l.asid l.va l.level at' (setField (setField e 12 27 (p.2 % 2 ^ 27)) 48 9 (chipOf (p.2 * 4096)))

/-- R303, R304: with busy at 0 the buffer is copied and rebound; a copy that fails keeps the old binding. Either way mig is
cleared and the held commands go on. -/
def execMigrationCopy (asid bid : Nat) (s : State) : Host.Outcome State Fault Refusal :=
  .next (match s.migrations.find? fun m => m.asid = asid && m.bid = bid with
    | none => s
    | some m =>
      if busyOf s asid bid ≠ 0 then s
      else
        let h := headerOf s asid bid
        let ls := leavesOf s asid bid
        let s := { setHeader s asid bid (hSet h 111 1 0) with
                   migrations := s.migrations.filter fun x => !(x.asid = asid && x.bid = bid) }
        match badChunk s h ls m.frames with
        | some c => releaseHeld { s with outbox := s.outbox ++ [.migrationFailed asid bid c] }
        | none => releaseHeld ((List.zip ls m.frames).foldl moveLeaf s))

/-! ## Requantisation (R312) -/

/-- R312: the buffer may be re-encoded, and the block lies in it. -/
def mayRequant (h : BitVec 512) (block : Nat) : Bool :=
  !hPin h && !hMig h && !hImm h && decide (hRqmap h ≠ 0 ∧ (hRqfmt h = 2 ∨ hRqfmt h = 3) ∧ (hFmt h = 0 ∨ hFmt h = 2 ∨ hFmt h = 3)) &&
    decide (128 * block < hSizeB h)

/-- R312: the logical bytes of one block of a buffer. -/
def logicalBlock (s : State) (asid : Nat) (h : BitVec 512) (block : Nat) : Except (BitVec 7) (List Byte) :=
  let va := hBase h + 128 * block
  match spanPages s asid (spanOf (storedSpan s asid h va)) with
  | .ok xl => readUnit s asid xl false va
  | .error e => .error e

/-- R312: one block is written in its new encoding, and then its block header names it; the threshold is a free choice. -/
def execRequantBlock (asid bid block : Nat) (s : State) : Host.Outcome State Fault Refusal :=
  .next (
    let h := headerOf s asid bid
    match mayRequant h block, blockFormat s asid h block with
    | true, .ok (_, false) =>
      (match logicalBlock s asid h block, auxRead s asid (hRqmap h + block / 4) 1 with
       | .ok bs, .ok b =>
         let d := draw s
         let s' := (writeNew d.2 (bufKey asid bid) (hRqfmt h) block (d.1 % 0x7F80) bs).1
         (match auxWrite s' asid (hRqmap h + block / 4) (natToBytes 1 (setField (bytesToNat b) (2 * (block % 4)) 2 1)) with
          | .ok s'' => s''
          | .error _ => s)
       | _, _ => s)
    | _, _ => s)

/-! ## Errors in stored data (R313, R349) -/

/-- R313, R349: an error that is corrected on read is counted for canopy. -/
def countCorrected (s : State) : State := { s with corrected := s.corrected + 1 }

/-- R313: an uncorrectable error poisons a 32-byte sector of a chip's memory; a correctable one is counted. -/
def execMemoryPoison (chip : Nat) (error : StoreError Nat) (s : State) : Host.Outcome State Fault Refusal :=
  .next (match error with
    | .corrected _ => countCorrected s
    | .uncorrectable sector =>
      let x := physOf chip (32 * sector) / 32
      { s with badSectors := if s.badSectors.contains x then s.badSectors else s.badSectors ++ [x]
               outbox := s.outbox ++ [.poisoned none chip (32 * sector)] })

/-- R349: the n-th oldest entry of a load-data queue is poisoned, once it has arrived; the arrival of one that has not writes it whole. -/
def spoilEntry (n : Nat) (q : List LqEntry) : List LqEntry := q.modify n fun e => if e.val.isSome then { e with poison := true } else e

/-- R349: an uncorrectable soft error poisons a word of a core's storage: an accumulator with the beats in flight that it still acts on,
an entry of a load-data queue, or any other place. -/
def spoilPlace (c : CoreSt) (p : Place) : CoreSt :=
  match p with
  | .acc n => spoilCell c n
  | .lqs x n => putCtx c x { ctxIn c x with lqs := spoilEntry n (ctxIn c x).lqs }
  | .lqv x n => putCtx c x { ctxIn c x with lqv := spoilEntry n (ctxIn c x).lqv }
  | _ => { c with poison := if c.poison.contains p then c.poison else p :: c.poison }

/-- R349: an uncorrectable soft error poisons a word of a core's storage; a correctable one is counted. -/
def execCoreStorageError (core : Nat) (error : StoreError Place) (s : State) : Host.Outcome State Fault Refusal :=
  .next (match error with
    | .corrected _ => countCorrected s
    | .uncorrectable place =>
      let s := modCore s core (spoilPlace · place)
      { s with outbox := s.outbox ++ [.poisoned (some place) s.chip.toNat core] })

/-! ## The host's own accesses (R353) -/

/-- R353: the port runs CXL and a window granted to it holds the bytes. -/
def windowHolds (s : State) (port addr len : Nat) : Bool :=
  decide (4 ≤ mapGet 0 s.hostLinks port) && s.windows.any fun w => w.1 = port && decide (w.2.1 ≤ addr) && decide (addr + len ≤ w.2.2)

/-- R235, R353: a sealed buffer or block holds one of the bytes. -/
def holdsSealed (s : State) (phys len : Nat) : Bool :=
  (s.leafs.any fun l => hImm (headerOf s l.asid l.bid) && decide (phys < (l.frame + l.count) * 4096) && decide (l.frame * 4096 < phys + len)) ||
    s.blocks.any fun b => hImm b.2.hdr && decide (phys < b.2.frame + 4096) && decide (b.2.frame < phys + len)

/-- R310: a write into key-value blocks takes their fingerprints out of the index. -/
def touchBlocks (s : State) (phys len : Nat) : State :=
  { s with blocks := s.blocks.map fun b =>
      (b.1, if phys < b.2.frame + 4096 ∧ b.2.frame < phys + len then { b.2 with fp := none } else b.2) }

/-- A line of a lossless-lines buffer: the buffer, its header, the line's device-virtual address and its first physical byte. -/
structure HostLine where
  asid : Nat
  bid : Nat
  hdr : BitVec 512
  va : Nat
  phys : Nat
  deriving DecidableEq, Repr

/-- R308, R309: the line whose stored place holds a physical byte. -/
def hostLine (s : State) (phys : Nat) : Option HostLine :=
  (s.leafs.find? fun l =>
    hFmt (headerOf s l.asid l.bid) = 1 && decide (l.frame * 4096 ≤ phys) && decide (phys < (l.frame + l.count) * 4096)).map fun l =>
      { asid := l.asid, bid := l.bid, hdr := headerOf s l.asid l.bid, va := (l.va + (phys - l.frame * 4096)) / 128 * 128
        phys := phys / 128 * 128 }

/-- The page of a line, translated. -/
def HostLine.page (l : HostLine) : SMap Nat := [(l.va / 4096, l.phys / 4096)]

/-- R309, R353: a host store of bytes of one line, or of bytes that no line holds, given by their physical addresses. -/
def hostWrite (s : State) (line : Option HostLine) (ws : List (Nat × Byte)) : Except (BitVec 7) State :=
  match line with
  | some l => (writeCoded s l.asid l.bid l.page l.hdr 0 (fun _ => false) l.va (ws.map fun e => (e.1 - l.phys, e.2))).map Prod.fst
  | none => writePhys s (coversSector (ws.map Prod.fst)) ws

/-- Host stores in turn, one for each line and one for the bytes that no line holds. -/
def hostWrites (ws : List (Nat × Option HostLine × Byte)) : List (Option HostLine) → State → Except (BitVec 7) State
  | [], s => .ok s
  | l :: ls, s =>
    match hostWrite s l ((ws.filter fun e => e.2.1 = l).map fun e => (e.1, e.2.2)) with
    | .ok s => hostWrites ws ls s
    | .error e => .error e

/-- R309, R353: a host store through a window: it takes place whole or is refused. DEDUCED (log 97): what a lossless-lines buffer holds the
host sees as logical bytes, so tag and payload change together. -/
def hostStore (s : State) (port phys : Nat) (bs : List Byte) : State :=
  if holdsSealed s phys bs.length then { s with outbox := s.outbox ++ [.hostRefused port 0x45] }
  else
    let ws := bs.mapIdx fun i b => (phys + i, hostLine s (phys + i), b)
    match hostWrites ws (ws.map fun e => e.2.1).eraseDups s with
    | .ok s => touchBlocks s phys bs.length
    | .error e => { s with outbox := s.outbox ++ [.hostRefused port e] }

/-- R309, R313, R353: a byte that the host loads, as stored or of its line (log 97). -/
def hostByte (s : State) (phys : Nat) : Except (BitVec 7) Byte :=
  match hostLine s phys with
  | some l => (readCoded s l.asid l.bid l.page l.hdr l.va).map fun bs => (bs[phys - l.phys]?).getD 0
  | none => if sectorBad s phys then .error 0x43 else .ok (mapGet 0 s.dram phys)

/-- Bytes that the host loads, or the first error among them. -/
def hostBytes (s : State) : Nat → Nat → Except (BitVec 7) (List Byte)
  | _, 0 => .ok []
  | phys, n + 1 =>
    match hostByte s phys, hostBytes s (phys + 1) n with
    | .ok b, .ok bs => .ok (b :: bs)
    | .error e, _ => .error e
    | .ok _, .error e => .error e

/-- R353: a host load or store in the window that canopy grants its port. -/
def execCxlMemAccess (port addr len : Nat) (store : Option (List Byte)) (s : State) : Host.Outcome State Fault Refusal :=
  .next (
    let phys := physOf s.chip.toNat addr
    let n := match store with
      | some bs => bs.length
      | none => len
    if !windowHolds s port addr n then { s with outbox := s.outbox ++ [.hostRefused port 0x42] }
    else
      match store with
      | some bs => hostStore s port phys bs
      | none =>
        match hostBytes s phys n with
        | .ok bs => { s with outbox := s.outbox ++ [.hostRead port bs] }
        | .error e => { s with outbox := s.outbox ++ [.hostRefused port e] })

end Sys2Proof.Machine
end

