-- ==== Sys2Proof/Machine/System.lean ====
section
/-! DEFINITION. Management: registers and their writers, ownership, droop, the gauge, links, boot, standby, monitors and
attestation (R104, R135, R317-R322, R352-R362). -/
namespace Sys2Proof.Machine

/-! ## Ownership (R355, R356) -/

/-- R355: a host port owns management. -/
def isOwner (s : State) (port : Nat) : Bool := decide (port ≤ 1 ∧ s.owner.toNat = port + 1)

/-- R356: a write to a register of the owner; one from another port is ignored and sets err. -/
def ownerWrite (s : State) (port : Nat) (f : State → State) : State :=
  if isOwner s port then f s else if port ≤ 1 then { s with merr := true } else s

/-- R356: a port claims ownership while there is no owner. -/
def claim (s : State) (port : Nat) : State :=
  if port ≤ 1 ∧ s.owner = 0 then { s with owner := BitVec.ofNat 2 (port + 1) } else s

/-- R356: the owner gives ownership up. -/
def release (s : State) (port : Nat) : State := if isOwner s port then { s with owner := 0 } else s

/-- R356: a write with bit 63 set. -/
def clearError (s : State) (port : Nat) : State := ownerWrite s port fun s => { s with merr := false }

/-- R356. -/
def execMownClaim (port : Nat) (s : State) : Host.Outcome State Fault Refusal := .next (claim s port)
/-- R356. -/
def execMownRelease (port : Nat) (s : State) : Host.Outcome State Fault Refusal := .next (release s port)
/-- R356. -/
def execMownErrorClear (port : Nat) (s : State) : Host.Outcome State Fault Refusal := .next (clearError s port)

/-- R356: a write of MOWN. -/
def writeMown (s : State) (port : Nat) (v : Word) : State :=
  if v.getLsbD 63 then clearError s port
  else if v = 0 then release s port
  else if v.toNat = port + 1 then claim s port
  else s

/-- R356: a port whose link goes down loses ownership. -/
def loseLink (s : State) (port : Nat) : State := release { s with hostLinks := mapSet 0 s.hostLinks port 0 } port

/-- R356. -/
def execHostLinkDown (port : Nat) (s : State) : Host.Outcome State Fault Refusal := .next (loseLink s port)

/-- R353, R356: a port trains to the highest generation that both ends support; with none its link is down. -/
def execHostPortTraining (port : Nat) (near far : List HostGen) (s : State) : Host.Outcome State Fault Refusal :=
  let ranks := (near.filter far.contains).map fun g => g.rank + 1
  .next (if ranks.isEmpty then loseLink s port else { s with hostLinks := mapSet 0 s.hostLinks port (ranks.foldl max 0) })

/-- R5: a host's write of a nonzero value to a reserved field is a reserved operand: it has no effect and its port is told. -/
def reservedWrite (s : State) (port : Nat) (reserved : Bool) (f : State → State) : State :=
  if reserved then { s with outbox := s.outbox ++ [.hostRefused port 0x06] } else f s

/-! ## Streams and rings (R104, R135) -/

/-- R104: a write of QCTL; writing 1 to err clears it. -/
def writeQctl (s : State) (n : Nat) (v : Word) : State :=
  let st := streamOf s n
  setStream s n { st with en := v.getLsbD 0, ring := BitVec.ofNat 4 (field v.toNat 1 4), size := BitVec.ofNat 5 (field v.toNat 5 5),
                          err := st.err && !v.getLsbD 10 }

/-- R104. -/
def execQctlErrClear (stream : Nat) (s : State) : Host.Outcome State Fault Refusal :=
  .next (setStream s stream { streamOf s stream with err := false })

/-- R104: the stream is read, or its head record waits. -/
def execQctlEnable (stream : Nat) (en : Bool) (s : State) : Host.Outcome State Fault Refusal :=
  .next (setStream s stream { streamOf s stream with en := en })

/-- R135: a write of ECTL; writing 1 to ov clears it. Held records go out when the ring has room. DESIGN CHOICE (log 106): where the new
word sets inten and records are not signalled yet, the triggers are judged at once. -/
def writeEctl (s : State) (n : Nat) (v : Word) : State :=
  let r := ringOf s n
  let x := v.toNat
  let r := { r with size := BitVec.ofNat 5 (field x 0 5), count := BitVec.ofNat 8 (field x 5 8), ov := r.ov && !v.getLsbD 13,
                    inten := v.getLsbD 14, port := v.getLsbD 15, time := BitVec.ofNat 32 (field x 16 32),
                    vector := BitVec.ofNat 16 (field x 48 16) }
  ringCount (ringDrain r.held.length n (setRing s n r)) n

/-- R135. -/
def execEventRingOvClear (port ring : Nat) (s : State) : Host.Outcome State Fault Refusal :=
  .next (ownerWrite s port fun s => setRing s ring { ringOf s ring with ov := false })

/-! ## The droop word (R320-R322) -/

/-- R321: a write of the droop word: 1s clear trip bits, and peak is cleared by any value. -/
def writeDroop (s : State) (k : Nat) (bits : BitVec 16) : State := modCore s k fun c => { c with trip := c.trip &&& ~~~bits, peak := 0 }

/-- R321. -/
def execTripClear (port core : Nat) (bits : BitVec 16) (s : State) : Host.Outcome State Fault Refusal :=
  .next (ownerWrite s port fun s => writeDroop s core bits)

/-- R321. -/
def execPeakClear (port core : Nat) (s : State) : Host.Outcome State Fault Refusal :=
  .next (ownerWrite s port fun s => writeDroop s core 0)

/-- R321: the droop word as it reads. -/
def droopWord (c : CoreSt) : Word :=
  word (c.trip.toNat + 2 ^ 16 * c.stretched.toNat + 2 ^ 48 * c.drops.toNat + 2 ^ 56 * c.peak.toNat)

/-- The sixteen levels of a report, each 0 to 4. -/
def droopLevels (levels : BitVec 48) : List Nat := (lanes 3 16 levels.toNat).map (min 4)

/-- R320-R322: the detectors report. The next elastic cycle is stretched by the largest level; a level 4 in pinned mode drops
the next step. -/
def execDroopReport (core : Nat) (levels : BitVec 48) (s : State) : Host.Outcome State Fault Refusal :=
  .next (
    let ls := droopLevels levels
    let m := ls.foldl max 0
    modCore s core fun c =>
      let c := { c with trip := c.trip ||| BitVec.ofNat 16 (packLanes 1 (ls.map fun l => min 1 l)),
                        peak := BitVec.ofNat 3 (max c.peak.toNat m) }
      if c.pinned then { c with dropAt := if m = 4 then c.dropAt ++ [s.gauge + 1] else c.dropAt }
      else { c with levels := c.levels ++ [m], stretched := if m = 0 ∨ c.stretched.toNat = 2 ^ 32 - 1 then c.stretched else c.stretched + 1 })

/-! ## Management registers (R354) -/

/-- R361: the owner clears the sticky bits that it writes as 1. -/
def writeMonitor (s : State) (v : Word) : State := { s with hot := s.hot && !v.getLsbD 28, crit := s.crit && !v.getLsbD 29 }

/-- R104, R354: a write of a stream's register. -/
def writeStream (s : State) (port n reg : Nat) (v : Word) : State :=
  match reg with
  | 0x00 => if port ≤ 1 then setStream s n { streamOf s n with base := v } else s
  | 0x08 => if port ≤ 1 then setStream s n { streamOf s n with tail := v } else s
  | 0x18 => if port ≤ 1 then reservedWrite s port (decide (field v.toNat 11 53 ≠ 0)) fun s => writeQctl s n v else s
  | 0x20 => if 2 ≤ port then reservedWrite s port (decide (field v.toNat 16 48 ≠ 0)) fun s => changeAsid s n v.toNat else s
  | _ => s

/-- R135, R354: a write of a ring's register. DEDUCED (log 38): an EBASE that is not 32-byte aligned is taken as it stands. -/
def writeRing (s : State) (port n reg : Nat) (v : Word) : State :=
  match reg with
  | 0x00 => ownerWrite s port fun s => setRing s n { ringOf s n with base := v }
  | 0x10 => if port ≤ 1 then setEcons s n v else s
  | 0x18 => ownerWrite s port fun s => writeEctl s n v
  | _ => s

/-- R354: a write to a management register, checked against its writers; port 2 and above are the ranger cores. Offsets that
are not listed ignore it; nonzero reserved bits refuse it (R5, log 55). A device in standby takes no write (R362). -/
def writeRegister (s : State) (port off : Nat) (v : Word) : State :=
  if s.standby || decide (off % 8 ≠ 0) then s
  else if off = 0x00008 then (if port ≤ 1 then writeMown s port v else s)
  else if off = 0x00010 then (if 2 ≤ port then { s with aging := v } else s)
  else if 0x01000 ≤ off ∧ off < 0x01400 then writeStream s port ((off - 0x01000) / 0x40) ((off - 0x01000) % 0x40) v
  else if 0x02000 ≤ off ∧ off < 0x02400 then writeRing s port ((off - 0x02000) / 0x40) ((off - 0x02000) % 0x40) v
  else if 0x04000 ≤ off ∧ off < 0x04800 then
    ownerWrite s port fun s => reservedWrite s port (decide (field v.toNat 59 5 ≠ 0)) fun s =>
      writeDroop s ((off - 0x04000) / 8) (v.setWidth 16)
  else if 0x05000 ≤ off ∧ off < 0x05800 then
    (if 2 ≤ port then reservedWrite s port (decide (v.toNat / 2 ≠ 0)) fun s =>
       modCore s ((off - 0x05000) / 8) fun c => { c with debug := v.getLsbD 0 } else s)
  else if off = 0x06000 then
    ownerWrite s port fun s => reservedWrite s port (decide (field v.toNat 30 34 ≠ 0)) fun s => writeMonitor s v
  else s

/-- R354. -/
def execRegisterWrite (port off : Nat) (val : Word) (s : State) : Host.Outcome State Fault Refusal :=
  .next (writeRegister s port off val)

/-- R355: MSTATUS as it reads. -/
def mstatusWord (s : State) : Word :=
  word (bit s.ready 0 + bit s.unsync 1 + 4 * s.owner.toNat + 16 * s.stage.toNat + bit s.merr 7 + 2 ^ 8 * s.chip.toNat)

/-- R361: MONITOR as it reads. -/
def monitorWord (s : State) : Word :=
  word (s.temp.toNat + 2 ^ 8 * s.vmin.toNat + 2 ^ 20 * s.proc.toNat + bit s.hot 28 + bit s.crit 29)

/-- R104: QCTL as it reads. -/
def qctlWord (st : Stream) : Word := word (bit st.en 0 + 2 * st.ring.toNat + 2 ^ 5 * st.size.toNat + bit st.err 10)

/-- R135: ECTL as it reads. -/
def ectlWord (r : Ring) : Word :=
  word (r.size.toNat + 2 ^ 5 * r.count.toNat + bit r.ov 13 + bit r.inten 14 + bit r.port 15 + 2 ^ 16 * r.time.toNat
    + 2 ^ 48 * r.vector.toNat)

/-- R104, R354: a stream's register as it reads. -/
def readStream (st : Stream) (reg : Nat) : Word :=
  match reg with
  | 0x00 => st.base
  | 0x08 => st.tail
  | 0x10 => st.head
  | 0x18 => qctlWord st
  | 0x20 => zext64 st.asid
  | _ => 0

/-- R135, R354: a ring's register as it reads. -/
def readRing (r : Ring) (reg : Nat) : Word :=
  match reg with
  | 0x00 => r.base
  | 0x08 => r.prod
  | 0x10 => r.cons
  | 0x18 => ectlWord r
  | _ => 0

/-- R354: a management register as it reads; offsets that are not listed read 0. MOWN reads the owner (R356). -/
def readRegister (s : State) (off : Nat) : Word :=
  if off % 8 ≠ 0 then 0
  else if off = 0x00000 then mstatusWord s
  else if off = 0x00008 then zext64 s.owner
  else if off = 0x00010 then s.aging
  else if 0x01000 ≤ off ∧ off < 0x01400 then readStream (streamOf s ((off - 0x01000) / 0x40)) ((off - 0x01000) % 0x40)
  else if 0x02000 ≤ off ∧ off < 0x02400 then readRing (ringOf s ((off - 0x02000) / 0x40)) ((off - 0x02000) % 0x40)
  else if 0x04000 ≤ off ∧ off < 0x04800 then droopWord (coreOf s ((off - 0x04000) / 8))
  else if 0x05000 ≤ off ∧ off < 0x05800 then word (bit (coreOf s ((off - 0x05000) / 8)).debug 0)
  else if off = 0x06000 then monitorWord s
  else if 0x07000 ≤ off ∧ off < 0x07090 then zext64 (mapGet 0 s.links ((off - 0x07000) / 8))
  else 0

/-! ## The gauge and the domain (R317-R319, R357) -/

/-- R318: the device cannot hold the bound. -/
def setUnsync (s : State) : State := if s.unsync then s else { s with unsync := true, outbox := s.outbox ++ [.unsync] }

/-- R318. -/
def execGaugeUnsync (s : State) : Host.Outcome State Fault Refusal := .next (setUnsync s)

/-- R318: two gauges of a domain stand at most 8 apart, counting round the wrap. -/
def gaugeNear (a b : Nat) : Bool :=
  let d := (a + 2 ^ 64 - b % 2 ^ 64) % 2 ^ 64
  decide (d ≤ 8 ∨ 2 ^ 64 - 8 ≤ d)

/-- R318, R357: a flit carries the sender's gauge, towards which the step period is slewed; the count itself never jumps. A
gauge more than 8 away shows that the bound is lost, once the device has joined (R317). -/
def execSizenFlit (port : Nat) (gauge : Word) (s : State) : Host.Outcome State Fault Refusal :=
  .next (
    if !(mapGet 0 s.links port).getLsbD 0 then s
    else
      let s := { s with refGauge := some gauge.toNat }
      if !s.ready || gaugeNear s.gauge gauge.toNat then s else setUnsync s)

/-- R357: flits of a port are retried; the count saturates. -/
def addRetries (w : BitVec 32) (n : Nat) : BitVec 32 :=
  BitVec.ofNat 32 (setField w.toNat 10 22 (min (field w.toNat 10 22 + n) (2 ^ 22 - 1)))

/-- R357: a port whose link fails leaves the routes, and canopy is sent an event. What was in flight on it is retried on another
route; how many flits that were is a free choice, counted in the port's retries. -/
def execLinkFail (port : Nat) (s : State) : Host.Outcome State Fault Refusal :=
  let d := draw s
  .next { d.2 with links := mapSet 0 d.2.links port (addRetries (mapGet 0 d.2.links port &&& ~~~(1 : BitVec 32)) d.1)
                   routes := d.2.routes.filter fun r => r.1 ≠ port
                   outbox := d.2.outbox ++ [.linkDown port] }

/-- R357: a port trains; up is set with the peer's chip number, and heartwood routes the peer over it (DEDUCED, log 57). -/
def execSizenLinkTrained (port peer : Nat) (s : State) : Host.Outcome State Fault Refusal :=
  .next { s with links := mapSet 0 s.links port (BitVec.ofNat 32 (setField (setField (mapGet 0 s.links port).toNat 1 9 (peer % 512)) 0 1 1))
                 routes := if s.routes.contains (port, peer % 512) then s.routes else s.routes ++ [(port, peer % 512)] }

/-! ## Boot (R317, R358, R359) -/

/-- R358: the checks of stage 2: the image's header. -/
def headerGood (id : Identity) (img : Image) : Bool :=
  decide (img.magic = 0x4C59 ∧ img.length ≤ 64 * 2 ^ 20 ∧ id.minVersion ≤ img.version)

/-- R358, R359: the digest of an image, its header fields with it. DESIGN CHOICE (log 58): the header is magic, length and
version in 8 bytes each. -/
def imageDigest (img : Image) : Nat :=
  bytesToNat (sha3 (natToBytes 8 img.magic ++ natToBytes 8 img.length ++ natToBytes 8 img.version ++ img.body))

/-- R358: the checks of stage 3: the key's digest, and the signature of the image's digest. -/
def signatureGood (id : Identity) (img : Image) : Bool :=
  decide (img.key.length = 1312 ∧ img.sig.length = 2420) && decide (bytesToNat (sha3 img.key) = id.keyDigest) &&
    Config.mldsaVerify (imageDigest img) (bytesToNat img.key) (bytesToNat img.sig)

/-- R358: a check has failed: boot is back at stage 1; after eight failures the rangers are held in reset. -/
def bootFail (s : State) : State :=
  let n := s.bootFails + 1
  { s with stage := 1, boot := none, bootFails := n, bootHeld := decide (8 ≤ n)
           outbox := if n = 8 then s.outbox ++ [.bootFailed] else s.outbox }

/-- R317, R358: what heartwood loads when it starts: the domain's gauge, chip number and routes, or gauge 0. -/
def loadDomain (s : State) (domain : Option Domain) : State :=
  { s with gauge := (domain.map fun d => d.gauge.toNat).getD 0, chip := BitVec.ofNat 9 ((domain.map Domain.chip).getD 0)
           routes := (domain.map Domain.routes).getD [] }

/-- R362: no gang is admitted, those that are out among them. -/
def noGangs (s : State) : Bool := s.gangs.isEmpty && !s.streams.any fun st => !st.2.out.isEmpty

/-- R358: the stage that is shown ends, and boot goes on to the next one or fails. The gauge is not loaded while a gang is
admitted (R317). -/
def bootNext (s : State) (b : Boot) : State :=
  match s.stage.toNat with
  | 1 => { s with stage := 2 }
  | 2 => if headerGood s.identity b.img then { s with stage := 3 } else bootFail s
  | 3 => if signatureGood s.identity b.img then { s with stage := 4 } else bootFail s
  | 4 => if !noGangs s then s else { loadDomain s b.domain with stage := 5, ready := true, image := some b.img, bootFails := 0, boot := none }
  | _ => { s with boot := none }

/-- R358: a boot under way in a gauge step; how long a stage lasts is a free choice. -/
def bootStep (s : State) : State :=
  match s.boot with
  | none => s
  | some b => let d := draw s; if d.1 % 2 = 1 then d.2 else bootNext d.2 b

/-- R317, R358, R361: boot begins at a stage with an image, while no gang is admitted, and reads the process monitor, whose code is
a free value. -/
def bootFrom (s : State) (stage : BitVec 3) (img : Image) (domain : Option Domain) : State :=
  if noGangs s then
    let d := draw s
    { d.2 with stage := stage, boot := some { img := img, domain := domain }, ready := false, standby := false,
               proc := BitVec.ofNat 8 d.1 }
  else s

/-- What outlives a power cycle: the identity store, the checkpoint slots, which lie in peer memory (R364), and what the outside and
the free choices still hold in the model. -/
def afterPower (s : State) : State :=
  { State.reset with
    identity := s.identity, inputs := s.inputs, tape := s.tape, draws := s.draws, outbox := s.outbox, ckpts := s.ckpts,
    gangKey := s.gangKey }

/-- R358: power-up; the image is the one that stage 1 fetches. -/
def execPowerUp (img : Image) (domain : Option Domain) (s : State) : Host.Outcome State Fault Refusal :=
  .next (bootFrom (afterPower s) 1 img domain)

/-- R358: after a failed check boot starts again at stage 1, unless the rangers are held. -/
def execBootRetry (img : Image) (domain : Option Domain) (s : State) : Host.Outcome State Fault Refusal :=
  .next (if s.bootFails = 0 ∨ s.bootHeld ∨ s.ready ∨ s.boot.isSome then s else bootFrom s 1 img domain)

/-! ## Standby (R362) -/

/-- R362: device memory, with the tables that it holds, is kept; the board controller keeps the image. -/
def execStandbyEnter (s : State) : Host.Outcome State Fault Refusal :=
  .next (
    if !noGangs s then s
    else
      { afterPower s with standby := true, image := s.image, dram := s.dram, badSectors := s.badSectors, roots := s.roots,
                          tables := s.tables, leafs := s.leafs, buffers := s.buffers, newEnc := s.newEnc, kv := s.kv,
                          blocks := s.blocks, pools := s.pools })

/-- R362: wake repeats boot from stage 2 with the image that was kept. -/
def execStandbyWake (domain : Option Domain) (s : State) : Host.Outcome State Fault Refusal :=
  .next (match s.standby, s.image with
    | true, some img => bootFrom s 2 img domain
    | _, _ => s)

/-! ## Monitors and attestation (R352, R359, R361) -/

/-- R361: every running gang is terminated. -/
def terminateAll (s : State) : State := (mapKeys s.gangs).foldl (fun s key => terminateGang s key 0x7E) s

/-- R361: the sensors report. Above a limit the nominal elastic clock falls by 25 MHz; at crit admission stops and canopy
terminates the running gangs. -/
def execThermalMonitor (temp : BitVec 8) (vmin : BitVec 12) (watts : Nat) (s : State) : Host.Outcome State Fault Refusal :=
  .next (
    let s := { s with temp := temp, vmin := vmin, hot := s.hot || decide (95 ≤ temp.toNat), crit := s.crit || decide (110 ≤ temp.toNat) }
    let s := if 2000 < watts ∨ 95 ≤ temp.toNat then { s with mhz := if 50 ≤ s.mhz then s.mhz - 25 else s.mhz } else s
    if s.crit then terminateAll s else s)

/-- R359: the attestation message: digest of the running image, serial number, nonce. -/
def attestMessage (digest serial : Nat) (nonce : List Byte) : Nat := bytesToNat (natToBytes 32 digest ++ natToBytes 8 serial ++ nonce)

/-- R359: heartwood signs an attestation for a nonce of up to 32 bytes, while an image runs. -/
def execAttestationRequest (nonce : List Byte) (s : State) : Host.Outcome State Fault Refusal :=
  .next (match s.ready, s.image with
    | true, some img =>
      if 32 < nonce.length then s
      else
        let d := imageDigest img
        let sig := Config.mldsaSign s.identity.attestKey (attestMessage d s.identity.serial nonce)
        { s with outbox := s.outbox ++ [.attestation d s.identity.serial nonce sig] }
    | _, _ => s)

end Sys2Proof.Machine
end

