-- ==== Sys2Proof/Machine/Tiles.lean ====
section
/-! DEFINITION. Moves between tiles and vector registers: TWROW, TRROW, TRCOL (R208, R209). -/
namespace Sys2Proof.Machine

/-- R209: lanes of the register, narrowed to the tile type, become visible at issue+3. -/
def execTwrow (sl : VSlot) (g : BitVec 4) (t a : BitVec 5) (ix : BitVec 8) (y : BitVec 3) (s : State) :
    Host.Outcome State Fault Refusal :=
  runSlot (.twrow sl g t a ix y) sl.slot s noPre fun s =>
    let p := rowPart y ix.toNat
    push s sl.slot 3 (.tile t.toNat (p.1 * widthT y / 8)
      (lanesToBytes (envOf (curCtx s).fmt 0) y p.2 (vsrc s sl.slot a)) (16 * widthT y))

/-- R209: a row as visible at issue, widened, in the low lanes at issue+3. -/
def execTrrow (sl : VSlot) (g : BitVec 4) (d t : BitVec 5) (ix : BitVec 8) (y : BitVec 3) (s : State) :
    Host.Outcome State Fault Refusal :=
  vres (.trrow sl g d t ix y) sl 3 d (fun s =>
    let p := rowPart y ix.toNat
    tileToLanes (envOf (curCtx s).fmt 0) y (tileOf (curCore s) t.toNat).bytes
      ((List.range p.2).map fun i => p.1 + i)) s

/-- R209: a column as visible at issue, widened, in the low lanes at issue+4. -/
def execTrcol (sl : VSlot) (g : BitVec 4) (d t : BitVec 5) (ix : BitVec 8) (y : BitVec 3) (s : State) :
    Host.Outcome State Fault Refusal :=
  vres (.trcol sl g d t ix y) sl 4 d (fun s =>
    tileToLanes (envOf (curCtx s).fmt 0) y (tileOf (curCore s) t.toNat).bytes (colPart y ix.toNat)) s

end Sys2Proof.Machine
end

