-- ==== Sys2Proof/Machine/Dispatch.lean ====
section
/-! DEFINITION. The meaning of every instruction and event: one call for each constructor of Instr. -/
namespace Sys2Proof.Machine

def exec (i : Instr) (s : State) : Host.Outcome State Fault Refusal :=
  match i with
  | .nop sl g => Sys2Proof.Machine.execNop sl g s
  | .add g d a b => Sys2Proof.Machine.execAdd g d a b s
  | .sub g d a b => Sys2Proof.Machine.execSub g d a b s
  | .mul g d a b => Sys2Proof.Machine.execMul g d a b s
  | .mulhi g d a b => Sys2Proof.Machine.execMulhi g d a b s
  | .mulhn g d a b => Sys2Proof.Machine.execMulhn g d a b s
  | .div g d a b => Sys2Proof.Machine.execDiv g d a b s
  | .divn g d a b => Sys2Proof.Machine.execDivn g d a b s
  | .rem g d a b => Sys2Proof.Machine.execRem g d a b s
  | .remn g d a b => Sys2Proof.Machine.execRemn g d a b s
  | .and g d a b => Sys2Proof.Machine.execAnd g d a b s
  | .or g d a b => Sys2Proof.Machine.execOr g d a b s
  | .xor g d a b => Sys2Proof.Machine.execXor g d a b s
  | .shl g d a b => Sys2Proof.Machine.execShl g d a b s
  | .shr g d a b => Sys2Proof.Machine.execShr g d a b s
  | .sra g d a b => Sys2Proof.Machine.execSra g d a b s
  | .min g d a b => Sys2Proof.Machine.execMin g d a b s
  | .max g d a b => Sys2Proof.Machine.execMax g d a b s
  | .minn g d a b => Sys2Proof.Machine.execMinn g d a b s
  | .maxn g d a b => Sys2Proof.Machine.execMaxn g d a b s
  | .clz g d a => Sys2Proof.Machine.execClz g d a s
  | .popc g d a => Sys2Proof.Machine.execPopc g d a s
  | .sel g d a b f => Sys2Proof.Machine.execSel g d a b f s
  | .scmp g f a b c => Sys2Proof.Machine.execScmp g f a b c s
  | .scmpl g f a c => Sys2Proof.Machine.execScmpl g f a c s
  | .addi g d a im => Sys2Proof.Machine.execAddi g d a im s
  | .andi g d a im => Sys2Proof.Machine.execAndi g d a im s
  | .ori g d a im => Sys2Proof.Machine.execOri g d a im s
  | .xori g d a im => Sys2Proof.Machine.execXori g d a im s
  | .shli g d a im => Sys2Proof.Machine.execShli g d a im s
  | .shri g d a im => Sys2Proof.Machine.execShri g d a im s
  | .srai g d a im => Sys2Proof.Machine.execSrai g d a im s
  | .ldi g d im => Sys2Proof.Machine.execLdi g d im s
  | .lit g d => Sys2Proof.Machine.execLit g d s
  | .lith g d => Sys2Proof.Machine.execLith g d s
  | .lqpop g d => Sys2Proof.Machine.execLqpop g d s
  | .lqpeek g d => Sys2Proof.Machine.execLqpeek g d s
  | .br g o => Sys2Proof.Machine.execBr g o s
  | .call g o => Sys2Proof.Machine.execCall g o s
  | .bri g a => Sys2Proof.Machine.execBri g a s
  | .ret g => Sys2Proof.Machine.execRet g s
  | .loop g a e => Sys2Proof.Machine.execLoop g a e s
  | .loopi g c e => Sys2Proof.Machine.execLoopi g c e s
  | .bswap g o => Sys2Proof.Machine.execBswap g o s
  | .ifence g => Sys2Proof.Machine.execIfence g s
  | .tick g => Sys2Proof.Machine.execTick g s
  | .snow g d s' => Sys2Proof.Machine.execSnow g d s' s
  | .sclr g s' => Sys2Proof.Machine.execSclr g s' s
  | .waitp g p => Sys2Proof.Machine.execWaitp g p s
  | .arrive g c => Sys2Proof.Machine.execArrive g c s
  | .waitc g c => Sys2Proof.Machine.execWaitc g c s
  | .mwait g a b => Sys2Proof.Machine.execMwait g a b s
  | .fence g s' => Sys2Proof.Machine.execFence g s' s
  | .gauge g d => Sys2Proof.Machine.execGauge g d s
  | .cycles g d => Sys2Proof.Machine.execCycles g d s
  | .fmtset g a => Sys2Proof.Machine.execFmtset g a s
  | .fmtget g d => Sys2Proof.Machine.execFmtget g d s
  | .gseed g n a => Sys2Proof.Machine.execGseed g n a s
  | .gbest g d s' => Sys2Proof.Machine.execGbest g d s' s
  | .tstat g d t => Sys2Proof.Machine.execTstat g d t s
  | .sqpop g d => Sys2Proof.Machine.execSqpop g d s
  | .ctlrd g d n => Sys2Proof.Machine.execCtlrd g d n s
  | .ctlwr g d n => Sys2Proof.Machine.execCtlwr g d n s
  | .trap g c => Sys2Proof.Machine.execTrap g c s
  | .retire g => Sys2Proof.Machine.execRetire g s
  | .spawn g d a b => Sys2Proof.Machine.execSpawn g d a b s
  | .fresume g a x => Sys2Proof.Machine.execFresume g a x s
  | .brk g c => Sys2Proof.Machine.execBrk g c s
  | .vadd sl g d a b t m => Sys2Proof.Machine.execVadd sl g d a b t m s
  | .vsub sl g d a b t m => Sys2Proof.Machine.execVsub sl g d a b t m s
  | .vmul sl g d a b t m => Sys2Proof.Machine.execVmul sl g d a b t m s
  | .vmin sl g d a b t m => Sys2Proof.Machine.execVmin sl g d a b t m s
  | .vmax sl g d a b t m => Sys2Proof.Machine.execVmax sl g d a b t m s
  | .vabs sl g d a t m => Sys2Proof.Machine.execVabs sl g d a t m s
  | .vneg sl g d a t m => Sys2Proof.Machine.execVneg sl g d a t m s
  | .vcmp sl g k a b t u c => Sys2Proof.Machine.execVcmp sl g k a b t u c s
  | .vsel sl g d a b t k => Sys2Proof.Machine.execVsel sl g d a b t k s
  | .vand sl g d a b t m => Sys2Proof.Machine.execVand sl g d a b t m s
  | .vor sl g d a b t m => Sys2Proof.Machine.execVor sl g d a b t m s
  | .vxor sl g d a b t m => Sys2Proof.Machine.execVxor sl g d a b t m s
  | .vshl sl g d a b t m => Sys2Proof.Machine.execVshl sl g d a b t m s
  | .vshr sl g d a b t m => Sys2Proof.Machine.execVshr sl g d a b t m s
  | .vsra sl g d a b t m => Sys2Proof.Machine.execVsra sl g d a b t m s
  | .vcvt sl g d a x y s' t r => Sys2Proof.Machine.execVcvt sl g d a x y s' t r s
  | .vdiv sl g d a b t r => Sys2Proof.Machine.execVdiv sl g d a b t r s
  | .vsqrt sl g d a t r => Sys2Proof.Machine.execVsqrt sl g d a t r s
  | .vrcp sl g d a t r => Sys2Proof.Machine.execVrcp sl g d a t r s
  | .vrsq sl g d a t r => Sys2Proof.Machine.execVrsq sl g d a t r s
  | .vexp2 sl g d a t r => Sys2Proof.Machine.execVexp2 sl g d a t r s
  | .vlog2 sl g d a t r => Sys2Proof.Machine.execVlog2 sl g d a t r s
  | .vredadd sl g d a t m => Sys2Proof.Machine.execVredadd sl g d a t m s
  | .vredmax sl g d a t m => Sys2Proof.Machine.execVredmax sl g d a t m s
  | .vredmin sl g d a t m => Sys2Proof.Machine.execVredmin sl g d a t m s
  | .vargmx sl g d a t m => Sys2Proof.Machine.execVargmx sl g d a t m s
  | .vbcast sl g d a t => Sys2Proof.Machine.execVbcast sl g d a t s
  | .vperm sl g d a b t => Sys2Proof.Machine.execVperm sl g d a b t s
  | .vmov sl g d a => Sys2Proof.Machine.execVmov sl g d a s
  | .xmov sl g d a => Sys2Proof.Machine.execXmov sl g d a s
  | .vfma_d sl g d a b c n => Sys2Proof.Machine.execVfmaD sl g d a b c n s
  | .vfma_s sl g d a b c n => Sys2Proof.Machine.execVfmaS sl g d a b c n s
  | .vfma_h sl g d a b c n => Sys2Proof.Machine.execVfmaH sl g d a b c n s
  | .vfma_b sl g d a b c n => Sys2Proof.Machine.execVfmaB sl g d a b c n s
  | .bclr sl g n => Sys2Proof.Machine.execBclr sl g n s
  | .bacc sl g n a b t => Sys2Proof.Machine.execBacc sl g n a b t s
  | .badd sl g n m => Sys2Proof.Machine.execBadd sl g n m s
  | .brnd sl g d n t r => Sys2Proof.Machine.execBrnd sl g d n t r s
  | .bsgn sl g f n c => Sys2Proof.Machine.execBsgn sl g f n c s
  | .bmovb sl g d n p => Sys2Proof.Machine.execBmovb sl g d n p s
  | .vsumm sl g f k => Sys2Proof.Machine.execVsumm sl g f k s
  | .vcount sl g d k => Sys2Proof.Machine.execVcount sl g d k s
  | .kand sl g d a b => Sys2Proof.Machine.execKand sl g d a b s
  | .kor sl g d a b => Sys2Proof.Machine.execKor sl g d a b s
  | .kxor sl g d a b => Sys2Proof.Machine.execKxor sl g d a b s
  | .knot sl g d a => Sys2Proof.Machine.execKnot sl g d a s
  | .sfeed sl g a s' => Sys2Proof.Machine.execSfeed sl g a s' s
  | .twrow sl g t a im y => Sys2Proof.Machine.execTwrow sl g t a im y s
  | .trcol sl g d t im y => Sys2Proof.Machine.execTrcol sl g d t im y s
  | .trrow sl g d t im y => Sys2Proof.Machine.execTrrow sl g d t im y s
  | .psend sl g a p => Sys2Proof.Machine.execPsend sl g a p s
  | .ptake sl g d p => Sys2Proof.Machine.execPtake sl g d p s
  | .plook sl g d p => Sys2Proof.Machine.execPlook sl g d p s
  | .vsnorm sl g d a b t r => Sys2Proof.Machine.execVsnorm sl g d a b t r s
  | .vcbq sl g d a t => Sys2Proof.Machine.execVcbq sl g d a t s
  | .vcbx sl g d a t => Sys2Proof.Machine.execVcbx sl g d a t s
  | .cbld sl g a t => Sys2Proof.Machine.execCbld sl g a t s
  | .mpush g a b k x y m => Sys2Proof.Machine.execMpush g a b k x y m s
  | .mshift g => Sys2Proof.Machine.execMshift g s
  | .macc g t k w => Sys2Proof.Machine.execMacc g t k w s
  | .mdrain g t k m => Sys2Proof.Machine.execMdrain g t k m s
  | .mclr g => Sys2Proof.Machine.execMclr g s
  | .mmask g r c => Sys2Proof.Machine.execMmask g r c s
  | .mpushg g a n k w m => Sys2Proof.Machine.execMpushg g a n k w m s
  | .mgload g t n w => Sys2Proof.Machine.execMgload g t n w s
  | .msrch g t n c w => Sys2Proof.Machine.execMsrch g t n c w s
  | .msproj g t d n w => Sys2Proof.Machine.execMsproj g t d n w s
  | .mpushd g a b k x y m => Sys2Proof.Machine.execMpushd g a b k x y m s
  | .lda sl g a w o => Sys2Proof.Machine.execLda sl g a w o s
  | .vlda sl g a o => Sys2Proof.Machine.execVlda sl g a o s
  | .tlrow sl g t a n => Sys2Proof.Machine.execTlrow sl g t a n s
  | .st sl g d a w o => Sys2Proof.Machine.execSt sl g d a w o s
  | .vst sl g d a o => Sys2Proof.Machine.execVst sl g d a o s
  | .tsrow sl g t a n => Sys2Proof.Machine.execTsrow sl g t a n s
  | .atom sl g d a b o u w => Sys2Proof.Machine.execAtom sl g d a b o u w s
  | .aupd sl g d im => Sys2Proof.Machine.execAupd sl g d im s
  | .aupds sl g d a => Sys2Proof.Machine.execAupds sl g d a s
  | .fcopy sl g t a b e => Sys2Proof.Machine.execFcopy sl g t a b e s
  | .fshape sl g a e => Sys2Proof.Machine.execFshape sl g a e s
  | .fstamp sl g a b => Sys2Proof.Machine.execFstamp sl g a b s
  | .fquant sl g t a b e => Sys2Proof.Machine.execFquant sl g t a b e s
  | .fdedup sl g t a b e x => Sys2Proof.Machine.execFdedup sl g t a b e x s
  | .falloc sl g t a b c x => Sys2Proof.Machine.execFalloc sl g t a b c x s
  | .ffree sl g t a b x => Sys2Proof.Machine.execFfree sl g t a b x s
  | .fatom sl g t a b o x => Sys2Proof.Machine.execFatom sl g t a b o x s
  | .fmtag sl g t a b => Sys2Proof.Machine.execFmtag sl g t a b s
  | .fkvmap sl g t a b x => Sys2Proof.Machine.execFkvmap sl g t a b x s
  | .fcard sl g t a => Sys2Proof.Machine.execFcard sl g t a s
  | .fsum sl g t a b e => Sys2Proof.Machine.execFsum sl g t a b e s
  | .froom sl g d => Sys2Proof.Machine.execFroom sl g d s
  | .emptyBundle core => Sys2Proof.Machine.execEmptyBundle core s
  | .pauseOverdue core => Sys2Proof.Machine.execPauseOverdue core s
  | .idleCoreChoose core => Sys2Proof.Machine.execIdleCoreChoose core s
  | .admissionDecision => Sys2Proof.Machine.execAdmissionDecision s
  | .headReserving stream => Sys2Proof.Machine.execHeadReserving stream s
  | .startStep gang => Sys2Proof.Machine.execStartStep gang s
  | .spawnStart core ctx => Sys2Proof.Machine.execSpawnStart core ctx s
  | .cardDeliver card => Sys2Proof.Machine.execCardDeliver card s
  | .cardComplete card => Sys2Proof.Machine.execCardComplete card s
  | .cardWatchdog card => Sys2Proof.Machine.execCardWatchdog card s
  | .faultRecordWrite core ctx => Sys2Proof.Machine.execFaultRecordWrite core ctx s
  | .handlerStart core ctx => Sys2Proof.Machine.execHandlerStart core ctx s
  | .completionRecordWrite gang => Sys2Proof.Machine.execCompletionRecordWrite gang s
  | .evictionRequest gang => Sys2Proof.Machine.execEvictionRequest gang s
  | .evictionSave gang => Sys2Proof.Machine.execEvictionSave gang s
  | .checkpointRequest gang => Sys2Proof.Machine.execCheckpointRequest gang s
  | .checkpointComplete gang => Sys2Proof.Machine.execCheckpointComplete gang s
  | .gangTerminate gang => Sys2Proof.Machine.execGangTerminate gang s
  | .eventRingTimeTrigger ring => Sys2Proof.Machine.execEventRingTimeTrigger ring s
  | .econsWrite ring val => Sys2Proof.Machine.execEconsWrite ring val s
  | .eventRingOvClear port ring => Sys2Proof.Machine.execEventRingOvClear port ring s
  | .qctlErrClear stream => Sys2Proof.Machine.execQctlErrClear stream s
  | .qctlEnable stream en => Sys2Proof.Machine.execQctlEnable stream en s
  | .registerWrite port off val => Sys2Proof.Machine.execRegisterWrite port off val s
  | .mownClaim port => Sys2Proof.Machine.execMownClaim port s
  | .mownRelease port => Sys2Proof.Machine.execMownRelease port s
  | .mownErrorClear port => Sys2Proof.Machine.execMownErrorClear port s
  | .hostLinkDown port => Sys2Proof.Machine.execHostLinkDown port s
  | .tripClear port core bits => Sys2Proof.Machine.execTripClear port core bits s
  | .peakClear port core => Sys2Proof.Machine.execPeakClear port core s
  | .droopReport core levels => Sys2Proof.Machine.execDroopReport core levels s
  | .gaugeUnsync => Sys2Proof.Machine.execGaugeUnsync s
  | .sizenFlit port gauge => Sys2Proof.Machine.execSizenFlit port gauge s
  | .linkFail port => Sys2Proof.Machine.execLinkFail port s
  | .deviceFailureRecovery chip spare => Sys2Proof.Machine.execDeviceFailureRecovery chip spare s
  | .powerUp img domain => Sys2Proof.Machine.execPowerUp img domain s
  | .bootRetry img domain => Sys2Proof.Machine.execBootRetry img domain s
  | .standbyEnter => Sys2Proof.Machine.execStandbyEnter s
  | .standbyWake domain => Sys2Proof.Machine.execStandbyWake domain s
  | .thermalMonitor temp vmin watts => Sys2Proof.Machine.execThermalMonitor temp vmin watts s
  | .attestationRequest nonce => Sys2Proof.Machine.execAttestationRequest nonce s
  | .heartwoodTableChange change => Sys2Proof.Machine.execHeartwoodTableChange change s
  | .ferryIssue ferry => Sys2Proof.Machine.execFerryIssue ferry s
  | .ferryChunk ferry stream => Sys2Proof.Machine.execFerryChunk ferry stream s
  | .pageArrive ferry cmd resolved => Sys2Proof.Machine.execPageArrive ferry cmd resolved s
  | .stampWrite ferry cmd => Sys2Proof.Machine.execStampWrite ferry cmd s
  | .countedLine ferry cmd => Sys2Proof.Machine.execCountedLine ferry cmd s
  | .fmtagApply ferry cmd => Sys2Proof.Machine.execFmtagApply ferry cmd s
  | .migrationStart asid bid frames => Sys2Proof.Machine.execMigrationStart asid bid frames s
  | .migrationCopy asid bid => Sys2Proof.Machine.execMigrationCopy asid bid s
  | .requantBlock asid bid block => Sys2Proof.Machine.execRequantBlock asid bid block s
  | .cowService ferry cmd => Sys2Proof.Machine.execCowService ferry cmd s
  | .memoryPoison chip error => Sys2Proof.Machine.execMemoryPoison chip error s
  | .coreStorageError core error => Sys2Proof.Machine.execCoreStorageError core error s
  | .searchJobEnd core => Sys2Proof.Machine.execSearchJobEnd core s
  | .arriveCount core conf => Sys2Proof.Machine.execArriveCount core conf s
  | .peerGrant core access => Sys2Proof.Machine.execPeerGrant core access s
  | .illegalOpcode slot word => Sys2Proof.Machine.execIllegalOpcode slot word s
  | .sizenLinkTrained port peer => Sys2Proof.Machine.execSizenLinkTrained port peer s
  | .hostPortTraining port near far => Sys2Proof.Machine.execHostPortTraining port near far s
  | .cxlMemAccess port addr len store => Sys2Proof.Machine.execCxlMemAccess port addr len store s

end Sys2Proof.Machine
end

