-- ==== Sys2Proof/Machine/Run.lean ====
section
/-! DEFINITION. How a gauge step runs: the acts of its agenda, a slot's word, and the order of the engines in a step
(R3, R74, R76, R251, R265, R317, R320, R346, R379). -/
namespace Sys2Proof.Machine

/-! ## A slot's word (R74, R76) -/

/-- The next state of an outcome; `s` where there is none. -/
def nextOr (s : State) (o : Host.Outcome State Fault Refusal) : State :=
  match o with
  | .next t => t
  | _ => s

/-- R151: the cause that a BRI or RET raises before 0x06: its target's alignment and range, where its guard passes. -/
def targetFirst (sl : Slot) (w : Word32) (s : State) : Option (BitVec 7 × Word) :=
  let op := field w.toNat 25 7
  let a := sregOf (curCtx s) (if op = 0x42 then field w.toNat 11 5 else 31)
  if sl = .S ∧ (op = 0x42 ∨ op = 0x43) ∧ guardPass (curCtx s) (BitVec.ofNat 4 (field w.toNat 21 4)) then
    match targetPre s a true with
    | .fault cause _ _ _ => if cause = 0x39 then none else some (cause, a)
    | _ => none
  else none

/-- R76: what the word of a present slot does: the first check that it fails, or its instruction. DEDUCED (log 77): R151's own
order puts a branch target's causes before an unused bit of its word. -/
def runWord (sl : Slot) (w : Word32) (s : State) : State :=
  match decodeSlot sl w with
  | .ok i => nextOr s (exec i s)
  | .error .illegalOpcode => nextOr s (exec (.illegalOpcode sl w) s)
  | .error .illegalGuard => encodingFault s sl 0x04 w
  | .error .reservedOperand =>
    let need := ((rawDecode sl w).map fun r => literalNeed r.2).getD 0
    if need ≠ 0 ∧ need ≠ hKind s.cur.hdr then encodingFault s sl 0x05 w
    else
      match targetFirst sl w s with
      | some (cause, a) => slotFault s sl cause a 0 0
      | none => encodingFault s sl 0x06 w

/-! ## Inputs (R356) -/

/-- R356: the order of what reaches the device in one step: port 0 first, and a loss of link after the writes, so that a port
whose link goes down in a step does not own the device after it. Other inputs count as port 0. -/
def inputPort (i : Instr) : Nat :=
  match i with
  | .hostLinkDown _ => 2
  | .hostPortTraining _ _ _ => 2
  | .registerWrite p _ _ => p
  | .mownClaim p => p
  | .mownRelease p => p
  | .mownErrorClear p => p
  | .eventRingOvClear p _ => p
  | .tripClear p _ _ => p
  | .peakClear p _ => p
  | _ => 0

/-- Prepends acts to the agenda. -/
def doFirst (s : State) (as : List Act) : State := { s with agenda := as ++ s.agenda }
def doEvents (s : State) (is : List Instr) : State := doFirst s (is.map Act.ev)

/-- Changes every context. -/
def mapCtxs (s : State) (f : Ctx → Ctx) : State :=
  { s with cores := s.cores.map fun k => (k.1, { k.2 with ctxs := k.2.ctxs.map fun c => (c.1, f c.2) }) }

/-- R358, R362: what reaches a device in standby: a wake, and the power-up that follows a loss of power. -/
def reachesStandby (i : Instr) : Bool :=
  match i with
  | .standbyWake _ => true
  | .powerUp _ _ => true
  | _ => false

/-- The inputs that are due, writes of port 0 first; records of earlier steps become visible (R348). -/
def runInputs (s : State) : State :=
  let due := ((s.inputs.filter fun e => decide (e.1 ≤ s.gauge)).map Prod.snd).filter fun i => !s.standby || reachesStandby i
  let s := mapCtxs { s with inputs := s.inputs.filter fun e => !decide (e.1 ≤ s.gauge) } fun c => statSettle c s.gauge
  doEvents s (sortBy inputPort due)

/-! ## The scheduler's events of a step -/

/-- Every core and context in use. -/
def allCtxs (s : State) : List (Nat × Nat) := (mapKeys s.cores).flatMap fun k => (List.range 8).map fun x => (k, x)

/-- R122, R124: starts whose step has come. -/
def startEvents (s : State) : List Instr :=
  (allCtxs s).filterMap fun e =>
    match (ctxOf s e.1 e.2).life with
    | .starting step handler => if step ≤ s.gauge then some (if handler then .handlerStart e.1 e.2 else .spawnStart e.1 e.2) else none
    | _ => none

/-- Events of gangs: start steps, saves, checkpoints, completion records. -/
def gangEvents (s : State) : List Instr :=
  s.gangs.flatMap fun g =>
    match g.2.st with
    | .loading => if g.2.start ≤ s.gauge then [.startStep g.1] else []
    | .ending => if gangBusy s g.1 g.2 then [] else [.completionRecordWrite g.1]
    | .running => if g.2.evict then [.evictionSave g.1] else if g.2.ckpt then [.checkpointComplete g.1] else []

/-- R340, R343: fault records that are due, in the order of their faults. -/
def recordEvents (s : State) : List Instr :=
  let held := ((allCtxs s).filter fun e => recordDue s e.1 e.2).map fun e =>
    let c := ctxOf s e.1 e.2
    ((c.fault.map fun f => faultRank (asFirst e.1 e.2 c f)).getD 0, e.1, e.2)
  let freed := (openRecords s).map fun o => (faultRank (asFirst o.2.core o.2.ctx {} o.2.info), o.2.core, o.2.ctx)
  (sortBy (fun e : Nat × Nat × Nat => e.1) (held ++ freed)).map fun e => .faultRecordWrite e.2.1 e.2.2

/-- R127-R130: events of cards. DESIGN CHOICE (log 80): of cards that wait for servers of one class, the one that was queued first
gets a server that comes free, and a card that is delivered again keeps its place; R128 gives no order. -/
def cardEvents (s : State) : List Instr :=
  s.cards.filterMap fun y =>
    match y.st with
    | .acked _ _ _ => some (.cardComplete y.key)
    | _ => if cardDue s y then some (.cardWatchdog y.key) else if cardWaits s y then some (.cardDeliver y.key) else none

/-- R135: time triggers that fire. -/
def ringEvents (s : State) : List Instr := (s.rings.filter fun r => ringDue s r.2).map fun r => .eventRingTimeTrigger r.1

/-- R113, R114: the reserving head and the decision, while some stream has a head. -/
def admissionEvents (s : State) : List Instr :=
  if s.streams.any fun st => hasRecord st.2 || st.2.headSince.isSome || !st.2.out.isEmpty then
    (match oldestStarving s with
     | some n => if takesOver s n then [.headReserving n] else []
     | none => []) ++ [.admissionDecision]
  else []

/-- R303: migrations that wait for their buffers. -/
def migrationEvents (s : State) : List Instr := s.migrations.map fun m => .migrationCopy m.asid m.bid

/-- A context that becomes ready in a step is ready from then on. -/
def wakeDue (g : Nat) (c : Ctx) : Ctx :=
  match c.life with
  | .waking n => if n ≤ g then { c with life := .ready } else c
  | _ => c

/-- The scheduler's part of a step: a boot goes on (R358), and commands of pinned slots enter first (R269). Fault records are
written before a gang that stands still is saved (R340). -/
def runScheduler (s : State) : State :=
  let s := mapCtxs (enterPinned (bootStep s)) (wakeDue s.gauge)
  doEvents s (startEvents s ++ recordEvents s ++ gangEvents s ++ cardEvents s ++ ringEvents s ++ migrationEvents s ++ admissionEvents s)

/-! ## The ferries' events of a step (R271, R275, R278, R282, R315) -/

/-- The ferries that hold commands. -/
def busyFerries (s : State) : List Nat := (s.ferries.filter fun f => !f.2.cmds.isEmpty).map Prod.fst

/-- What has issued acts, ferry by ferry. -/
def runFerries (s : State) : State := doFirst s ((busyFerries s).map Act.streams)

/-- R251: what reads comes after every write of the step, ferry by ferry. -/
def runLoads (s : State) : State := doFirst s ((busyFerries s).map Act.loadsOf)

/-- R271: each ferry issues, once every command of the step has entered. -/
def runIssues (s : State) : State := doEvents s ((busyFerries s).map Instr.ferryIssue)

/-- The events of the streams of a ferry whose commands a test selects; stamps and tag changes have events of their own. -/
def chunkEvents (s : State) (f : Nat) (sel : Cmd → Bool) : List Instr :=
  ((List.range 4).filter fun n => (ferryOf s f).cmds.any fun c => c.st = .stream n && c.kind ≠ .stamp && c.kind ≠ .mtag && sel c).map
    fun n => Instr.ferryChunk f n

/-- The events of the counted commands of a ferry that a test selects. DESIGN CHOICE (log 93): of two of one ferry whose lines need one
bank's port in one step, the one earlier in its buffer has it; R283 orders only ferries. -/
def lineEvents (s : State) (f : Nat) (sel : Cmd → Bool) : List Instr :=
  ((ferryOf s f).cmds.filter fun c => c.st = .counted && sel c).map fun c => Instr.countedLine f c.id

/-- One ferry: counted lines that are due, ahead of every stream; then its streams, but for those that read next, stamps and tag
changes. -/
def runStreams (s : State) (f : Nat) : State :=
  let cs := (ferryOf s f).cmds
  let counted := lineEvents s f fun c => decide (lineStep c ≤ s.gauge)
  let chunks := chunkEvents s f fun c => !readsNext c
  let has (k : CmdKind) (c : Cmd) : Bool := c.kind = k && c.st = .stream (streamHeld c)
  let stamps := (cs.filter (has .stamp)).map fun c => Instr.stampWrite f c.id
  let tags := (cs.filter (has .mtag)).map fun c => Instr.fmtagApply f c.id
  doEvents s (counted ++ chunks ++ stamps ++ tags)

/-- One ferry reads: the sources of counted commands, and what its streams read next. -/
def runLoadsOf (s : State) (f : Nat) : State :=
  doEvents s (lineEvents s f (fun c => decide (s.gauge < lineStep c)) ++ chunkEvents s f readsNext)

/-! ## The cores' cycles of a step (R320, R322) -/

/-- R320: the cost of a core's next elastic cycle, in parts of which a gauge step gives 8 times the clock in MHz. -/
def cycleCost (c : CoreSt) : Nat := (8 + c.levels.headD 0) * 1200

/-- The acts of the cores that have a cycle in a step. In each of these cycles results land and accesses perform before any
bundle issues; then the cores issue, the lower number first, each with any further cycle that its clock has in the step
(R379). -/
def cycleActs (ks : List Nat) : List Act :=
  ks.flatMap (fun k => [.begin k, .land k]) ++ [.peerWrites] ++ ks.map Act.coreWrites ++ [.reads]
    ++ ks.flatMap fun k => [.issue k, .again k]

/-- R255: peer accesses that wait for their grants. -/
def grantEvents (s : State) : List Instr :=
  s.cores.flatMap fun k => (k.2.accs.filter fun a => a.due = .grant && a.land.isNone).map fun a => .peerGrant k.1 a.seq

/-- The cycle that a step gives a pinned core, and that an elastic one has when its clock has come round; a relock that is over
lets its core have its first cycle of the new clock (R323). -/
def runCores (s : State) : State :=
  let s := { s with cores := s.cores.map fun k =>
    (k.1, endRelock s (if k.2.pinned then k.2 else { k.2 with credit := k.2.credit + 8 * s.mhz })) }
  let ks := (s.cores.filter fun k => k.2.pinned || decide (cycleCost k.2 ≤ k.2.credit)).map Prod.fst
  doFirst s ((grantEvents s).map Act.ev ++ cycleActs ks)

/-- A further cycle of an elastic core in the same step. -/
def runAgain (s : State) (k : Nat) : State :=
  if !(coreOf s k).pinned && decide (cycleCost (coreOf s k) ≤ (coreOf s k).credit) then
    doFirst s [.begin k, .land k, .coreWrites k, .reads, .issue k, .again k]
  else s

/-- R342: the contested cycle of a core-port conflict has come: its record names the step. -/
def meetContest (g cyc : Nat) (f : FaultInfo) : FaultInfo := if f.contest = some cyc then { contestAt f g with contest := none } else f

/-- A core's cycle begins: its count advances, an elastic one pays for it, bank cycles that have passed are forgotten, the record of
a conflict over this cycle gets its step (R342), and commands of elastic slots enter (R269). -/
def beginCycle (s : State) (k : Nat) : State :=
  let meet := meetContest s.gauge ((coreOf s k).cyc + 1)
  let s := { s with gangs := s.gangs.map fun g =>
      (g.1, { g.2 with openFaults := g.2.openFaults.map fun o => if o.core = k then { o with info := meet o.info } else o }) }
  let s := modCore s k fun c =>
    let c := if c.pinned then { c with levels := [] } else { c with credit := c.credit - cycleCost c, levels := c.levels.tail }
    { c with ctxs := c.ctxs.map (fun x => (x.1, { x.2 with fault := x.2.fault.map meet }))
             cyc := c.cyc + 1, dropAt := c.dropAt.filter fun g => decide (s.gauge ≤ g)
             resv := c.resv.filter fun r => if r.peer then decide (s.gauge ≤ r.step) else decide (c.cyc + 1 ≤ r.cyc) }
  let s := enterElastic s k
  if (coreOf s k).jobs.any fun j => decide (j.finish ≤ (coreOf s k).cyc) then doEvents s [.searchJobEnd k] else s

/-- R17, R262: results land, then arrivals are counted in ascending context number. -/
def landCycle (s : State) (k : Nat) : State :=
  let s := landAll s k
  let c := coreOf s k
  let confs := (sortBy Pend.ctx (c.pend.filter (arrivalDue c))).filterMap fun p =>
    match p.eff with
    | .arrive n _ => some (Instr.arriveCount k n)
    | _ => none
  doEvents s confs

/-- A core's sequencer in one cycle. -/
def issueAct (s : State) (k : Nat) : Host.Outcome State Fault Refusal :=
  let c := coreOf s k
  if dropsNow s k then .next (issueCore runWord s k)
  else if c.issuer.isNone && c.relock.isNone then exec (.idleCoreChoose k) (occCycle s k none false)
  else if c.issuer.any fun x => overdue s (ctxIn c x) then exec (.pauseOverdue k) s
  else if (headAhead s k).any fun h => hMask h = 0 then exec (.emptyBundle k) s
  else .next (issueCore runWord s k)

/-! ## The end of a step -/

/-- R265: replaced words that no context can still fetch are forgotten. -/
def pruneOld (c : CoreSt) : CoreSt :=
  let live := ((List.range 8).filter fun x => (ctxIn c x).gang.isSome).map fun x => (ctxIn c x).fetchSince
  { c with ispOld := c.ispOld.filter fun e => live.any fun f => decide (f < e.1) }

/-- R117, R323: a context that waits to be chosen has its ready step noted. -/
def noteReady (s : State) (core : CoreSt) (x : Nat) (c : Ctx) : Ctx :=
  { c with readySince :=
      if c.life = .ready && core.issuer ≠ some x && !isStopping s c then some (c.readySince.getD s.gauge) else none }

/-- R264: the halves that are live in a step, noted by every issued command that may write one. -/
def watchHalves (s : State) : State :=
  { s with ferries := s.ferries.map fun f =>
      (f.1, { f.2 with cmds := f.2.cmds.map fun c => if cmdIssued c then noteHalves s c else c }) }

/-- R264, R323, R338: contexts that have become quiescent, the steps in which contexts became ready, and live halves. -/
def runSettle (s : State) : State :=
  let s := watchHalves s
  let s := (allCtxs s).foldl (fun s e => if (ctxOf s e.1 e.2).fault.isSome then noteQuiet s e.1 e.2 else s) s
  { s with
    gangs := s.gangs.map fun g => (g.1, { g.2 with openFaults := g.2.openFaults.map (noteOpen s) })
    cores := s.cores.map fun k =>
      (k.1, { (if k.2.ispOld.isEmpty then k.2 else pruneOld k.2) with
              ferried := [], ctxs := k.2.ctxs.map fun c => (c.1, noteReady s k.2 c.1 c.2) }) }

/-! ## Acts -/

/-- R317: a new gauge step. In standby no clock runs: the device waits for a wake, and what is due later comes nearer
(R362). -/
def newStep (s : State) : State :=
  if s.standby then { s with inputs := s.inputs.map fun e => (e.1 - 1, e.2), agenda := [.inputs] }
  else { s with gauge := s.gauge + 1, agenda := [.inputs, .scheduler, .ferries, .cores, .loads, .issues, .settle] }

/-- One act. -/
def runAct (a : Act) (s : State) : Host.Outcome State Fault Refusal :=
  match a with
  | .ev i => exec i s
  | .inputs => .next (runInputs s)
  | .scheduler => .next (runScheduler s)
  | .ferries => .next (runFerries s)
  | .loads => .next (runLoads s)
  | .issues => .next (runIssues s)
  | .streams f => .next (runStreams s f)
  | .loadsOf f => .next (runLoadsOf s f)
  | .cores => .next (runCores s)
  | .again k => .next (runAgain s k)
  | .settle => .next (runSettle s)
  | .begin k => .next (beginCycle s k)
  | .land k => .next (landCycle s k)
  | .peerWrites => .next (peerWritesNow s)
  | .coreWrites k => .next (coreWritesNow s k)
  | .reads => .next (readsNow s)
  | .issue k => issueAct s k

/-! ## A word at the place of the next fetch -/

/-- The slot whose map gives an opcode-table word its meaning, tried in the order of R52. -/
def tableSlot (w : Word32) : Slot :=
  match decodeSlot .S w, decodeSlot .V0 w, decodeSlot .M w, decodeSlot .C0 w with
  | .ok _, _, _, _ => .S
  | _, .ok _, _, _ => .V0
  | _, _, .ok _, _ => .M
  | _, _, _, .ok _ => .C0
  | _, _, _, _ => .S

/-- R54-R58: the header of a bundle that holds one slot word: its present bit, the literal that it needs, and as many ports
as it reads registers. -/
def soloHeader (sl : Slot) (w : Word32) : Nat :=
  match rawDecode sl w with
  | none => 2 ^ sl.idx
  | some r =>
    let own (lo n : Nat) : Nat := ((List.range n).map fun i => sl.idx * 2 ^ (12 + 3 * (lo + i))).sum
    2 ^ sl.idx + 2 ^ 10 * literalNeed r.2 + own 0 (portNeed sl r.2 false) + own 3 (portNeed sl r.2 true)

/-- The bytes of that bundle; a literal word is zero. -/
def soloBundle (sl : Slot) (w : Word32) : List Byte :=
  let h := soloHeader sl w
  natToBytes 4 h ++ (if hKind (BitVec.ofNat 32 h) = 0 then [] else natToBytes 4 0) ++ natToBytes 4 w.toNat

/-- A context that is about to fetch at instruction offset 0, with no earlier bundle under way. -/
def aboutToFetch (c : Ctx) : Ctx :=
  { c with life := .ready, seqNext := 0, targets := [], loopNext := none, bubbles := [], win := [],
           spos := List.replicate 6 c.npos, stallUntil := 0, liveHalf := false, fault := none, deferred := [],
           pauseBound := 2 ^ 20, pauseCount := 0 }

/-- Core 0, running context 0, with a bundle at instruction offset 0. -/
def coreWithBundle (c : CoreSt) (bs : List Byte) : CoreSt :=
  { putCtx c 0 (aboutToFetch (ctxIn c 0)) with
    issuer := some 0, relock := none, dropAt := [], isp := writeBytes c.isp 0 bs, ispOld := [],
    poison := c.poison.filter fun p => match p with | .isp w => !decide (w < 2) | _ => true }

end Sys2Proof.Machine
end

