-- ==== Sys2Proof/Machine/Step.lean ====
section
/-! DEFINITION. One step of the device, and a word placed where the next step fetches. -/
namespace Sys2Proof.Machine

/-- One act of the current gauge step, or the beginning of the next. -/
def step (s : State) : Host.Outcome State Fault Refusal :=
  match s.agenda with
  | [] => .next (newStep s)
  | a :: rest => runAct a { s with agenda := rest }

/-- The state with a one-word bundle where core 0's context 0 fetches next, and that core's issue as the next act. The bundle
is what a loader would have put there and started (log 9). -/
def State.withFetchWord (s : State) (nbits w : Nat) : State :=
  let x : Word32 := BitVec.ofNat 32 (w % 2 ^ nbits)
  { modCore s 0 (fun c => coreWithBundle c (soloBundle (tableSlot x) x)) with agenda := [.issue 0] }

end Sys2Proof.Machine
end

