-- ==== Sys2Proof/Safety.lean ====
section
/-! DEFINITION. The terms of the claims: a step that answers, memory in its canonical form, a slot whose checks pass, a
result in flight, and what an instruction leaves alone. -/
namespace Sys2Proof.Machine

/-! ## Safe steps and memory -/

/-- A step answers a next state: the device neither stops nor is refused. -/
def StepAnswers (s : State) : Prop := ∃ t, step s = .next t

/-- Device memory and both scratchpads of every core are in their canonical form. -/
def MemoryCanonical (s : State) : Prop :=
  Memory.wf s.dram = true ∧ ∀ k, Memory.wf (coreOf s k).spad = true ∧ Memory.wf (coreOf s k).isp = true

/-- Every byte of device memory and of every scratchpad reads as before. -/
def SameBytes (s t : State) : Prop :=
  (∀ a, mapGet 0 t.dram a = mapGet 0 s.dram a) ∧
  ∀ k a, mapGet 0 (coreOf t k).spad a = mapGet 0 (coreOf s k).spad a ∧ mapGet 0 (coreOf t k).isp a = mapGet 0 (coreOf s k).isp a

/-- Every register of a context that results land in reads as before: scalar, flag, vector, mask and basin registers, the
format, the codebook and the shapes. -/
def SameRegisters (c d : Ctx) : Prop :=
  (∀ n, sregOf d n = sregOf c n) ∧ (∀ n, flagOf d n = flagOf c n) ∧ (∀ n, vregOf d n = vregOf c n) ∧
  (∀ n, maskOf d n = maskOf c n) ∧ (∀ n, basinOf d n = basinOf c n) ∧ d.fmt = c.fmt ∧ d.cb = c.cb ∧ d.cbType = c.cbType ∧
  d.shapes = c.shapes ∧ d.args = c.args ∧ d.prio = c.prio ∧ d.pinReq = c.pinReq ∧ d.pauseBound = c.pauseBound ∧
  d.cardack = c.cardack ∧ d.phase = c.phase

/-- R218: the mask of every core has from 1 to 128 rows and columns. -/
def MasksLegal (s : State) : Prop :=
  ∀ k, 1 ≤ (coreOf s k).rows ∧ (coreOf s k).rows ≤ 128 ∧ 1 ≤ (coreOf s k).cols ∧ (coreOf s k).cols ≤ 128

/-- The tiles whose wait bits a beat sets pass their check: full with the next number in pinned mode, not filling in elastic
mode (R213, R214). -/
def TagsPass (s : State) (ts : List Nat) : Prop :=
  ∀ n ∈ ts, let t := tileOf (curCore s) n
    if (curCore s).pinned = true then t.tag = 2 ∧ t.seq = t.exp + 1 else t.tag ≠ 1

/-- In elastic mode some tile of the list is filling: a beat that waits for it does not issue yet (R213). -/
def TagWaits (s : State) (ts : List Nat) : Prop := (curCore s).pinned = false ∧ ∃ n ∈ ts, (tileOf (curCore s) n).tag = 1

/-- Every tile is as before, but that the tiles of the list have taken their sequence as the expected one. -/
def TagsTaken (s t : State) (ts : List Nat) : Prop :=
  ∀ n, tileOf (coreOf t s.cur.core) n =
    if n ∈ ts then { tileOf (curCore s) n with exp := (tileOf (curCore s) n).seq } else tileOf (curCore s) n

/-- The 16,384 cells of the issuing core are those that `f` gives from row, column, container and wrap bit. -/
def CellsBecome (s t : State) (f : Nat → Nat → Nat → Bool → Nat × Bool) : Prop :=
  ∀ i < 128, ∀ j < 128, (accCell (coreOf t s.cur.core) i j, wrapCell (coreOf t s.cur.core) i j) =
    f i j (accCell (curCore s) i j) (wrapCell (curCore s) i j)

/-! ## A slot whose checks pass (R59, R56, R76, R163) -/

/-- The word in the slot passes every check that all instructions share: its fields are legal, its literal stands in the
bundle, its guard passes, its context holds what it names, nothing it reads is poisoned or, in debug mode, pending, and its
vector operands can be read. -/
structure Clear (i : Instr) (sl : Slot) (s : State) : Prop where
  fields : i.wf = true
  literal : literalNeed i = 0 ∨ literalNeed i = hKind s.cur.hdr
  guard : guardPass (curCtx s) (guardField i) = true
  granted : grantFault s sl i = none
  settled : pendingFault s sl i = none
  sound : poisonFault s sl i = none
  sources : sourceCheck s sl i = .ok

/-- The checks of a slot's word pass, those that come before its resources: its fields are legal, its literal stands in the bundle and its
guard passes (R56, R59, R60). -/
structure Reached (i : Instr) (s : State) : Prop where
  fields : i.wf = true
  literal : literalNeed i = 0 ∨ literalNeed i = hKind s.cur.hdr
  guard : guardPass (curCtx s) (guardField i) = true

/-- What every slot that issues leaves after its own effect: the slot has issued, its context's busy count of the phase has
gone up (R133), and an operand that pops lqv has removed the oldest entry (R64). -/
def completed (i : Instr) (sl : Slot) (t : State) : State :=
  issued (popSource (busySlot t sl) i)

/-! ## What is left alone -/

/-- No other core changes. -/
def OtherCores (s t : State) : Prop := ∀ k, k ≠ s.cur.core → coreOf t k = coreOf s k
/-- No other context of the issuing core changes. -/
def OtherCtxs (s t : State) : Prop := ∀ x, x ≠ s.cur.ctx → ctxOf t s.cur.core x = ctxOf s s.cur.core x

/-- The step of an instruction that only computes: nothing changes but the results in flight of the issuing core and, in
the issuing context, its occupancy, its load-data queue of vectors and a fault that it takes. -/
structure ComputeFrame (s t : State) : Prop where
  device : t = { s with cores := t.cores, cur := t.cur, seq := t.seq }
  cores : OtherCores s t
  core : coreOf t s.cur.core = { curCore s with ctxs := (coreOf t s.cur.core).ctxs, pend := (coreOf t s.cur.core).pend }
  ctxs : OtherCtxs s t
  ctx : ctxOf t s.cur.core s.cur.ctx =
    { curCtx s with
      occ := (ctxOf t s.cur.core s.cur.ctx).occ, lqv := (ctxOf t s.cur.core s.cur.ctx).lqv,
      fault := (ctxOf t s.cur.core s.cur.ctx).fault, life := (ctxOf t s.cur.core s.cur.ctx).life,
      nfault := (ctxOf t s.cur.core s.cur.ctx).nfault }

/-- A result in flight from a slot of the bundle being issued, the `n`-th that the slot makes. -/
def inFlightFrom (s : State) (sl : Slot) (n lat : Nat) (e : Eff) : Pend :=
  { due := (curCore s).cyc + lat, ctx := s.cur.ctx, pos := s.cur.pos, slot := sl.idx, seq := s.seq + n, bundle := s.cur.addr,
    eff := e, poison := false }

/-- The slot issues, its results go in flight with their latencies, and nothing else changes. -/
def Yields (i : Instr) (sl : Slot) (s : State) (es : List (Nat × Eff)) : Prop :=
  ∃ t, exec i s = .next t ∧ t.cur.out = .issued ∧
    (coreOf t s.cur.core).pend = (curCore s).pend ++ es.mapIdx (fun n e => inFlightFrom s sl n e.1 e.2) ∧
    (ctxOf t s.cur.core s.cur.ctx).life = (curCtx s).life ∧ ComputeFrame s t

/-- Once its checks pass, the instruction yields its one result, `lat` cycles after issue. -/
def Lands (i : Instr) (sl : Slot) (s : State) (lat : Nat) (e : Eff) : Prop := Clear i sl s → Yields i sl s [(lat, e)]

/-- The one result is a vector register of the slot's cluster, whose lanes of width `w` are the low bits of what `f` gives. -/
def LandsLanes (i : Instr) (sl : VSlot) (s : State) (lat : Nat) (d : BitVec 5) (w : Nat) (f : Nat → Nat) : Prop :=
  ∃ v : VReg, Lands i sl.slot s lat (.vreg (vbase sl.slot + d.toNat) v) ∧ ∀ j < 4096 / w, lane w v.toNat j = f j % 2 ^ w

/-- Once its checks pass, the instruction's own effect takes the device to `u`, and its slot has issued. -/
def Acts (i : Instr) (sl : Slot) (s u : State) : Prop := Clear i sl s → exec i s = .next (completed i sl u)

/-- Once its checks pass, the slot raises a cause with three detail words, and does nothing else (R77). -/
def Raises (i : Instr) (sl : Slot) (s : State) (cause : BitVec 7) (d0 d1 d2 : Word) : Prop :=
  Clear i sl s → exec i s = .next (slotFault s sl cause d0 d1 d2)

/-- Once its checks pass, the slot raises 0x06 with its word, header and literal as details (R342). -/
def RaisesOperand (i : Instr) (sl : Slot) (s : State) : Prop :=
  Clear i sl s → exec i s = .next (encodingFault s sl 0x06 (encode i))

/-! ## Scratchpad addresses (R246-R250) -/

/-- R247: the address has no high bits, is aligned to the access, and every byte lies in a range of the issuing gang. -/
def AddressLegal (s : State) (x : Word) (n : Nat) : Prop :=
  x.toNat < 2 ^ 22 ∧ x.toNat % n = 0 ∧
    gangGrants s (curCtx s).gang (8 * (s.cur.core / 8) + (x.extractLsb' 19 3).toNat) (x.extractLsb' 0 19).toNat n = true

/-- R246: the scratchpad of the issuing core itself. -/
def IsLocal (s : State) (x : Word) : Prop := 8 * (s.cur.core / 8) + (x.extractLsb' 19 3).toNat = s.cur.core

/-- R249: no reservation holds the bank cycle of the access: the core port's third cycle, or the peer port's tenth step. An
elastic request to a peer holds none. -/
def BankFree (s : State) (x : Word) : Prop :=
  ∀ r ∈ (coreOf s (8 * (s.cur.core / 8) + (x.extractLsb' 19 3).toNat)).resv, r.bank = (x.extractLsb' 9 4).toNat →
    (IsLocal s x → r.peer = false → r.cyc ≠ (curCore s).cyc + 3) ∧
    (¬IsLocal s x → (curCore s).pinned = true → r.peer = true → r.step ≠ s.gauge + 10)

/-- R257: in debug pending-bit mode, no store or ATOM of the core has still to write a byte that a read takes. -/
def NoPendingStore (s : State) (x : Word) (n : Nat) : Prop :=
  (curCore s).debug = true → ∀ b ∈ (curCore s).accs, isWrite b = true → isRequest b = false →
    b.target = 8 * (s.cur.core / 8) + (x.extractLsb' 19 3).toNat →
    b.off + accBytes b ≤ (x.extractLsb' 0 19).toNat ∨ (x.extractLsb' 0 19).toNat + n ≤ b.off

/-- R250, R253: the access that a slot puts in flight: three cycles on in its own scratchpad, ten steps on in a peer's in pinned
mode, and at its grant in elastic mode, when what it loads arrives at no fixed time. -/
def accessTo (s : State) (sl : Slot) (x : Word) (kind : AccKind) : Access :=
  let target := 8 * (s.cur.core / 8) + (x.extractLsb' 19 3).toNat
  { seq := s.seq, ctx := s.cur.ctx, pos := s.cur.pos, slot := sl.idx, bundle := s.cur.addr, target := target,
    off := (x.extractLsb' 0 19).toNat,
    due := if target = s.cur.core then .cycle ((curCore s).cyc + 3)
           else if (curCore s).pinned = true then .step (s.gauge + 10) else .grant,
    late := decide (target ≠ s.cur.core) && !(curCore s).pinned, land := none, kind := kind }

/-- Once its checks pass, the slot puts an access in flight; its queues are as given and no result of its own goes in
flight. The accesses before it stand, but that one with a step of its own gives a step to what waits for a grant (R251). -/
def PutsAccess (i : Instr) (sl : Slot) (s : State) (a : Access) (lqs lqv : List LqEntry) : Prop := Clear i sl s →
  ∃ (t : State) (due : Access → AccDue), exec i s = .next t ∧ t.cur.out = .issued ∧
    (coreOf t s.cur.core).accs = (curCore s).accs.map (fun b => { b with due := due b }) ++ [a] ∧
    (∀ b, due b = b.due ∨ ∃ g h, a.due = AccDue.step g ∧ due b = AccDue.step h) ∧
    (coreOf t s.cur.core).pend = (curCore s).pend ∧ (ctxOf t s.cur.core s.cur.ctx).lqs = lqs ∧
    (ctxOf t s.cur.core s.cur.ctx).lqv = lqv

/-! ## Ferry commands (R268, R269, R278) -/

/-- Once its checks pass, and for C1 once C0's command of the bundle has gone (R269), the slot hands a command to its core's ferry, which it enters two steps on, or two cycles on in
elastic mode, and counts it in the context's batch; a stamp closes the batch. -/
def GivesCommand (i : Instr) (sl : CSlot) (s : State) (kind : CmdKind) (t a b : Word) (e : Nat) (x : Bool) : Prop :=
  Clear i sl.slot s → behindC0 s sl.slot givesCmd = false → ∃ u c, exec i s = .next u ∧ u.cur.out = .issued ∧
    (∀ f, (ferryOf u f).cmds = if f = 4 * (s.cur.core / 8) + s.cur.core % 8 / 2 then (ferryOf s f).cmds ++ [c] else (ferryOf s f).cmds) ∧
    (c.kind, c.t, c.a, c.b, c.e, c.x) = (kind, t, a, b, e, x) ∧
    (c.core, c.ctx, c.bundle, c.slot) = (s.cur.core, s.cur.ctx, s.cur.addr, sl.slot.idx) ∧
    c.handle = handleOf s.cur.core s.cur.ctx (curCtx s).epoch ∧ c.st = .entering ∧ c.entryStep = s.gauge + 2 ∧
    c.enterCyc = (curCore s).cyc + 2 ∧ c.pinned = (curCore s).pinned ∧ c.batch = (curCtx s).batch ∧ c.idx = (curCtx s).batchIdx ∧
    (ctxOf u s.cur.core s.cur.ctx).batch = (if kind = .stamp then (curCtx s).batch + 1 else (curCtx s).batch) ∧
    (ctxOf u s.cur.core s.cur.ctx).batchIdx = (if kind = .stamp then 0 else (curCtx s).batchIdx + 1)

/-! ## Events -/

/-- The issuing context of a core stands at the bundle at `a` with header `h`: every slot has reached it, nothing is fetched
ahead, and neither a fault nor a branch, loop, bubble, stall or poisoned word stands between. -/
structure StandsAt (s : State) (k x a : Nat) (h : Word32) : Prop where
  issuer : (coreOf s k).issuer = some x ∧ (coreOf s k).relock = none ∧ dropsNow s k = false
  ready : (ctxOf s k x).life = .ready ∧ (ctxOf s k x).fault = none ∧ (ctxOf s k x).deferred = []
  slots : (ctxOf s k x).spos = List.replicate 6 (ctxOf s k x).npos ∧ (ctxOf s k x).win = [] ∧ (ctxOf s k x).slipStall = 0
  next : (ctxOf s k x).targets = [] ∧ (ctxOf s k x).loopNext = none ∧ (ctxOf s k x).bubbles = [] ∧ (ctxOf s k x).seqNext = a
  word : headerAt (coreOf s k) a = h ∧ (coreOf s k).ispOld = [] ∧ bundlePoisoned (coreOf s k) a h = false
  inside : a % 4 = 0 ∧ a < 0x22000 ∧ otherHalf (ctxOf s k x) a = false
  stall : (ctxOf s k x).stallUntil ≤ (coreOf s k).cyc
  gang : ∀ key g, (ctxOf s k x).gang = some key → gangOf s key = some g →
    g.queue = [] ∧ ∃ e ∈ g.entries, e.core = k ∧ e.ctx = x

/-- Every entry of the gang stands in a context of its own that holds it, and no two in one. -/
def HeldBy (s : State) (key : Nat) (g : Gang) : Prop :=
  (g.entries.map fun e => (e.core, e.ctx)).Nodup ∧
  ∀ i e, g.entries[i]? = some e → e.ctx < 8 ∧ (ctxOf s e.core e.ctx).gang = some key ∧ (ctxOf s e.core e.ctx).entry = i

/-- The event leaves every core, ferry, pipe and confluence as it is, and every byte of device memory. -/
def OnlyScheduling (s t : State) : Prop :=
  t.cores = s.cores ∧ t.ferries = s.ferries ∧ t.pipes = s.pipes ∧ t.confs = s.confs ∧ t.dram = s.dram

/-- A command ends: it leaves its ferry. -/
def CommandGone (t : State) (f id : Nat) : Prop := ∀ c ∈ (ferryOf t f).cmds, c.id ≠ id

/-- The state in which the word of a slot runs, when the bundle that its context stands at has that slot alone: the bundle has
entered the window, and the slots before it have passed. -/
def standing (s : State) (k x a : Nat) (h lit : Word32) (sl : Slot) (w : Word32) : State :=
  let p := (ctxOf s k x).npos
  let s0 := aim (startCycle s k x) k x p a h lit
  let s1 := enterBundle s0 k x (isLevel (coreOf s k).pinned h [(sl.idx, w)]) [(sl.idx, w)]
  aim ((Slot.all.take sl.idx).foldl (slotGo (fun _ _ t => t) k x p) s1) k x p a h lit

/-! ## What each kind of instruction may change -/

/-- R74: the opcode values that the map of a slot does not list. -/
def isMissing (sl : Slot) (op : Nat) : Bool :=
  let within (lo hi : Nat) : Bool := decide (lo ≤ op) && decide (op ≤ hi)
  match sl with
  | .S => within 0x19 0x1F || within 0x27 0x27 || within 0x2B 0x2F || within 0x32 0x3F || within 0x48 0x4F || within 0x67 0x7F
  | .V0 => vectorMissing within
  | .V1 => vectorMissing within
  | .M => within 0x0C 0x7F
  | .C0 => within 0x0A 0x0F || within 0x1D 0x7F
  | .C1 => within 0x0A 0x0F || within 0x1D 0x7F
where
  vectorMissing (within : Nat → Nat → Bool) : Bool :=
    within 0x1F 0x1F || within 0x24 0x27 || within 0x2E 0x2F || within 0x36 0x3F || within 0x41 0x47 || within 0x4B 0x4F ||
      within 0x53 0x57 || within 0x59 0x5B || within 0x5F 0x7F

/-- Branches, loops, BSWAP and IFENCE. -/
def isControl (i : Instr) : Bool :=
  match i with
  | .br _ _ => true
  | .call _ _ => true
  | .bri _ _ => true
  | .ret _ => true
  | .loop _ _ _ => true
  | .loopi _ _ _ => true
  | .bswap _ _ => true
  | .ifence _ => true
  | _ => false

/-- The forms that wait for a pipe, a confluence or a word, and ARRIVE. -/
def isMeeting (i : Instr) : Bool :=
  match i with
  | .waitp _ _ => true
  | .waitc _ _ => true
  | .arrive _ _ => true
  | .mwait _ _ _ => true
  | _ => false

/-- The forms that put a scratchpad access in flight. -/
def isAccess (i : Instr) : Bool :=
  match i with
  | .lda _ _ _ _ _ => true
  | .vlda _ _ _ _ => true
  | .tlrow _ _ _ _ _ => true
  | .st _ _ _ _ _ _ => true
  | .vst _ _ _ _ _ => true
  | .tsrow _ _ _ _ _ => true
  | .atom _ _ _ _ _ _ _ _ => true
  | _ => false

/-- The forms of the copy slots that hand a command to a ferry. -/
def isCommand (i : Instr) : Bool := givesCmd i

/-- The forms of the M slot that act on the array, the groves or the searcher. -/
def isBeat (i : Instr) : Bool :=
  match i with
  | .nop _ _ => false
  | .illegalOpcode _ _ => false
  | i => decide (slotOf i = some .M)

/-- The slot instructions that only compute: neither one of the kinds above, nor one that takes from a queue or a pipe,
advances signals, acknowledges a card, or acts on contexts. -/
def isCompute (i : Instr) : Bool :=
  match i with
  | .lqpop _ _ => false
  | .sqpop _ _ => false
  | .tick _ => false
  | .ctlwr _ _ _ => false
  | .retire _ => false
  | .spawn _ _ _ _ => false
  | .fresume _ _ _ => false
  | .psend _ _ _ _ => false
  | .ptake _ _ _ _ => false
  | i => (slotOf i).isSome && !isControl i && !isMeeting i && !isAccess i && !isCommand i && !isBeat i

/-- The slots that may wait where they stand: FENCE, TICK, the pipe operations, a source that names the load-data queue of vectors and a ferry
command of C1, and in elastic mode a beat, an access and a read of the queue of scalars (R189, R213, R215, R255, R259, R269, R335). -/
def mayWait (i : Instr) (s : State) : Bool :=
  match i with
  | .fence _ _ => true
  | .tick _ => true
  | .psend _ _ _ _ => true
  | .ptake _ _ _ _ => true
  | .plook _ _ _ _ => true
  | .lqpop _ _ => !(curCore s).pinned
  | .lqpeek _ _ => !(curCore s).pinned
  | i => namesQueue i || (isCommand i && slotOf i = some .C1) || !(curCore s).pinned && (isBeat i || isAccess i)

/-- The device beyond the cores, and every core and context but the issuing ones, are as before, but for the issue itself. -/
structure OnlyIssuer (s t : State) : Prop where
  device : t = { s with cores := t.cores, cur := t.cur, seq := t.seq }
  cores : OtherCores s t
  ctxs : OtherCtxs s t

/-- What the issue of any slot may change in its context: its occupancy, its queue of vectors and a fault that it takes. -/
def issueOf (c d : Ctx) : Ctx := { c with occ := d.occ, lqv := d.lqv, fault := d.fault, life := d.life, nfault := d.nfault }

/-! ## Results and memory -/

/-- A place of the context's registers that a result may name: kind and number. -/
def placeOf (e : Eff) : Option (Nat × Nat) :=
  match e with
  | .sreg d _ => some (0, d)
  | .flag d _ => some (1, d)
  | .vreg d _ => some (2, d)
  | .mask d _ => some (3, d)
  | _ => none

/-- The context holds the value of a register result; s0 and f0 hold theirs whatever lands. -/
def holdsEff (c : Ctx) (e : Eff) : Prop :=
  match e with
  | .sreg d v => d ≠ 0 → sregOf c d = v
  | .flag d v => d ≠ 0 → flagOf c d = v
  | .vreg d v => vregOf c d = v
  | .mask d v => maskOf c d = v
  | _ => True

/-! ## What a landing may change -/

/-- The context that issued a result, once it has landed: `d` is as `c` but for the registers or the queue that the result is for,
the statistics of a drain, and, where it makes something visible that contexts wait for, whether this one waits. -/
def landedIn (e : Eff) (c d : Ctx) : Ctx :=
  match e with
  | .sreg _ _ => { c with sregs := d.sregs }
  | .flag _ _ => { c with flags := d.flags }
  | .vreg _ _ => { c with vregs := d.vregs }
  | .mask _ _ => { c with masks := d.masks }
  | .fmt _ => { c with fmt := d.fmt }
  | .cb _ _ => { c with cb := d.cb, cbType := d.cbType }
  | .basinClear _ => { c with basins := d.basins }
  | .basinAdd _ _ _ _ => { c with basins := d.basins }
  | .ctl _ _ => { c with prio := d.prio, pinReq := d.pinReq, pauseBound := d.pauseBound, stRS := d.stRS, stEV := d.stEV,
                         stWD := d.stWD, cardack := d.cardack, phase := d.phase, args := d.args }
  | .sigFeed _ _ => c
  | .sigClear _ => c
  | .tile _ _ _ _ => c
  | .drain _ _ _ _ _ _ _ _ _ => { c with statNew := d.statNew }
  | .seed _ _ => c
  | .grove _ _ _ _ => c
  | .search _ _ => { c with bestseed := d.bestseed, resid := d.resid }
  | .pipe _ _ => { c with life := d.life }
  | .lqs _ _ => { c with lqs := d.lqs }
  | .lqv _ _ => { c with lqv := d.lqv }
  | .arrive _ _ => { c with life := d.life, armed := d.armed }
  | .wake _ _ => { c with life := d.life }

/-- Any other context: only one that waits for what a result makes visible may go on. -/
def landedOther (e : Eff) (c d : Ctx) : Ctx :=
  match e with
  | .pipe _ _ => { c with life := d.life }
  | .arrive _ _ => { c with life := d.life, armed := d.armed }
  | .wake _ _ => { c with life := d.life }
  | _ => c

end Sys2Proof.Machine
end

