-- ==== Sys2Proof/Certificates/Slice0/Obligations.lean ====
section
/-! DEFINITION. The statements for the provers. -/
open Sys2Proof Sys2Proof.Machine

/-! ## Scalar results -/

/-- R67, R140, R142-R146: each form of the S slot that computes from scalar registers, immediates or the literal puts
its result in flight, with its latency. -/
def Obligations.ScalarResults : Prop :=
  (∀ (g : BitVec 4) (d a b : BitVec 5) (s : State),
    let x := sregOf (curCtx s) a.toNat
    let y := sregOf (curCtx s) b.toNat
    let gives (i : Instr) (lat : Nat) (v : Word) : Prop := Lands i .S s lat (.sreg d.toNat v)
    gives (.add g d a b) 1 (x + y) ∧ gives (.sub g d a b) 1 (x - y) ∧ gives (.mul g d a b) 3 (x * y) ∧
    gives (.mulhi g d a b) 3 ((x.signExtend 128 * y.signExtend 128).extractLsb' 64 64) ∧
    gives (.mulhn g d a b) 3 ((x.setWidth 128 * y.setWidth 128).extractLsb' 64 64) ∧
    gives (.and g d a b) 1 (x &&& y) ∧ gives (.or g d a b) 1 (x ||| y) ∧ gives (.xor g d a b) 1 (x ^^^ y) ∧
    gives (.shl g d a b) 1 (x <<< y.extractLsb' 0 6) ∧ gives (.shr g d a b) 1 (x >>> y.extractLsb' 0 6) ∧
    gives (.sra g d a b) 1 (x.sshiftRight (y.extractLsb' 0 6).toNat) ∧
    gives (.min g d a b) 1 (if x.toInt ≤ y.toInt then x else y) ∧
    gives (.max g d a b) 1 (if x.toInt ≤ y.toInt then y else x) ∧
    gives (.minn g d a b) 1 (if x.toNat ≤ y.toNat then x else y) ∧
    gives (.maxn g d a b) 1 (if x.toNat ≤ y.toNat then y else x) ∧
    (∃ n, n ≤ 64 ∧ (∀ j, 64 - n ≤ j → x.getLsbD j = false) ∧ (n < 64 → x.getLsbD (63 - n) = true) ∧
      gives (.clz g d a) 1 (BitVec.ofNat 64 n)) ∧
    gives (.popc g d a) 1 (BitVec.ofNat 64 ((List.range 64).countP fun j => x.getLsbD j))) ∧
  (∀ (g : BitVec 4) (d a : BitVec 5) (i : BitVec 11) (j : BitVec 16) (s : State),
    let x := sregOf (curCtx s) a.toNat
    let v := i.signExtend 64
    let gives (i : Instr) (v : Word) : Prop := Lands i .S s 1 (.sreg d.toNat v)
    gives (.addi g d a i) (x + v) ∧ gives (.andi g d a i) (x &&& v) ∧ gives (.ori g d a i) (x ||| v) ∧
    gives (.xori g d a i) (x ^^^ v) ∧ gives (.shli g d a i) (x <<< i.toNat) ∧ gives (.shri g d a i) (x >>> i.toNat) ∧
    gives (.srai g d a i) (x.sshiftRight i.toNat) ∧ gives (.ldi g d j) (j.signExtend 64) ∧
    gives (.lit g d) (s.cur.lit.signExtend 64) ∧
    gives (.lith g d) (s.cur.lit ++ (sregOf (curCtx s) d.toNat).extractLsb' 0 32)) ∧
  (∀ (g c : BitVec 4) (f n : BitVec 3) (d a b : BitVec 5) (s : State),
    let x := sregOf (curCtx s) a.toNat
    let cond (y : Word) : Prop :=
      (c = 0 ∧ x = y) ∨ (c = 1 ∧ x ≠ y) ∨ (c = 2 ∧ x.toInt < y.toInt) ∨ (c = 3 ∧ x.toInt ≤ y.toInt) ∨
      (c = 4 ∧ y.toInt < x.toInt) ∨ (c = 5 ∧ y.toInt ≤ x.toInt) ∨ (c = 6 ∧ x.toNat < y.toNat) ∨
      (c = 7 ∧ x.toNat ≤ y.toNat) ∨ (c = 8 ∧ y.toNat < x.toNat) ∨ (c = 9 ∧ y.toNat ≤ x.toNat)
    (∃ v, Lands (.scmp g f a b c) .S s 1 (.flag f.toNat v) ∧
      (c.toNat ≤ 9 → (v = true ↔ cond (sregOf (curCtx s) b.toNat)))) ∧
    (∃ v, Lands (.scmpl g f a c) .S s 1 (.flag f.toNat v) ∧
      (c.toNat ≤ 9 → (v = true ↔ cond (s.cur.lit.signExtend 64)))) ∧
    Lands (.sel g d a b n) .S s 1
      (.sreg d.toNat (if flagOf (curCtx s) n.toNat = true then x else sregOf (curCtx s) b.toNat)))

/-- R141: DIV, DIVN, REM and REMN: truncation toward zero, the remainder's sign, the borderline cases; none faults. -/
def Obligations.DivisionResults : Prop :=
  ∀ (g : BitVec 4) (d a b : BitVec 5) (s : State),
    let x := sregOf (curCtx s) a.toNat
    let y := sregOf (curCtx s) b.toNat
    let gives (i : Instr) (v : Word) : Prop := Lands i .S s 20 (.sreg d.toNat v)
    (∃ q r, gives (.div g d a b) q ∧ gives (.rem g d a b) r ∧
      (y = 0 → q = BitVec.allOnes 64 ∧ r = x) ∧
      (x = BitVec.intMin 64 → y = BitVec.allOnes 64 → q = BitVec.intMin 64 ∧ r = 0) ∧
      (y ≠ 0 → ¬(x = BitVec.intMin 64 ∧ y = BitVec.allOnes 64) →
        x.toInt = q.toInt * y.toInt + r.toInt ∧ r.toInt.natAbs < y.toInt.natAbs ∧
        (0 < r.toInt → 0 < x.toInt) ∧ (r.toInt < 0 → x.toInt < 0))) ∧
    (∃ q r, gives (.divn g d a b) q ∧ gives (.remn g d a b) r ∧
      (y = 0 → q = BitVec.allOnes 64 ∧ r = x) ∧
      (y ≠ 0 → x.toNat = q.toNat * y.toNat + r.toNat ∧ r.toNat < y.toNat))

/-! ## Readings, queues and registers of the S slot -/

/-- R90, R103, R131, R132, R148, R187, R197, R243, R288: the forms that only read, with their latencies, and what
CTLRD reads at each index. -/
def Obligations.RegisterReads : Prop :=
  (∀ (g : BitVec 4) (d t : BitVec 5) (m : BitVec 8) (x : BitVec 11) (c : CSlot) (s : State),
    let gives (i : Instr) (lat : Nat) (v : Word) : Prop := Lands i .S s lat (.sreg d.toNat v)
    gives (.gauge g d) 1 (BitVec.ofNat 64 s.gauge) ∧ gives (.cycles g d) 1 (curCtx s).cycles ∧
    gives (.fmtget g d) 1 (curCtx s).fmt ∧
    gives (.gbest g d x) 1 (if x = 0 then (curCtx s).bestseed else (curCtx s).resid.setWidth 64) ∧
    gives (.tstat g d t) 6 ((tileOf (curCore s) t.toNat).stat.setWidth 64) ∧
    (∀ y, sigOf (curCore s).sigs m.toNat = some y → y.lags.length ≤ y.depth → 1 ≤ y.depth → y.depth ≤ 256 →
      ∃ v : Word, gives (.snow g d m) 1 v ∧ (v.extractLsb' 0 9).toNat = y.lags.length ∧ v.getLsbD 9 = y.nw ∧
        v.getLsbD 10 = y.starved ∧ v.getLsbD 11 = y.piped.isSome ∧ v.extractLsb' 12 4 = 0 ∧
        (v.extractLsb' 16 8).toNat = y.depth - 1 ∧ v.extractLsb' 24 40 = y.adv) ∧
    (∃ v : Word, Lands (.froom c g d) c.slot s 4 (.sreg d.toNat v) ∧
      (v.extractLsb' 0 7).toNat = 64 - (ferryOf s (ferryNo s.cur.core)).cmds.length ∧
      (v.extractLsb' 8 5).toNat = 16 - ((ferryOf s (ferryNo s.cur.core)).cmds.filter fun c => (eddyOf c).isSome).length ∧
      (v.extractLsb' 16 2).toNat = ferryNo s.cur.core % 4 ∧ v.getLsbD 7 = false ∧ v.extractLsb' 13 3 = 0 ∧
      v.extractLsb' 18 46 = 0)) ∧
  (∀ (g : BitVec 4) (d : BitVec 5) (s : State),
    let c := curCtx s
    let gives (n : BitVec 6) (v : Word) : Prop := Lands (.ctlrd g d n) .S s 1 (.sreg d.toNat v)
    gives 0 c.tick ∧ gives 1 (handleOf s.cur.core s.cur.ctx c.epoch) ∧ gives 2 (BitVec.ofNat 64 s.cur.core) ∧
    (∀ key y, c.gang = some key → gangOf s key = some y → gives 3 y.id) ∧ gives 4 (c.prio.setWidth 64) ∧
    (∃ v : Word, gives 5 v ∧ v.getLsbD 0 = c.pinReq ∧ v.getLsbD 8 = c.pinCur ∧ v.extractLsb' 1 7 = 0 ∧ v.extractLsb' 9 55 = 0) ∧
    gives 6 (c.pauseBound.setWidth 64) ∧
    (∃ v : Word, gives 7 v ∧ v.getLsbD 0 = c.stRS ∧ v.getLsbD 1 = c.stEV ∧ v.getLsbD 2 = c.stWD ∧
      (v.getLsbD 3 = true ↔ ∃ e ∈ (curCore s).sigs, e.2.owner = s.cur.ctx ∧ e.2.starved = true) ∧ v.extractLsb' 4 60 = 0) ∧
    gives 8 c.faultrec ∧ gives 9 c.handlerFor ∧ gives 10 c.cardack ∧ gives 11 (c.phase.setWidth 64) ∧ gives 12 c.startStep ∧
    gives 13 (BitVec.ofNat 64 c.entry) ∧ gives 14 c.dimage ∧
    (∀ n : BitVec 6, 16 ≤ n.toNat → n.toNat ≤ 23 → gives n (mapGet 0 c.args (n.toNat - 16))) ∧
    (∀ n : BitVec 6, n.toNat = 15 ∨ 24 ≤ n.toNat → gives n 0))

/-- R147, R252, R348, R349: LQPOP, LQPEEK and SQPOP. An empty load queue is 0x32 in either mode, a poisoned oldest
entry 0x7D; an oldest entry that has not arrived is 0x32 in pinned mode, and in elastic mode the slot waits for it.
The detail words of that 0x7D, kind 10 and the model's own number of the entry, are the model's choice: R342 lists no
kind for a queue entry (log 108, DESIGN CHOICE). -/
def Obligations.QueueReads : Prop :=
  (∀ (g : BitVec 4) (d : BitVec 5) (s : State),
    (∀ e v, (curCtx s).lqs.head? = some e → e.val = some v → e.poison = false →
      Lands (.lqpeek g d) .S s 1 (.sreg d.toNat (v.setWidth 64)) ∧
      Acts (.lqpop g d) .S s
        (push (modCurCtx s fun c => { c with lqs := c.lqs.tail }) .S 1 (.sreg d.toNat (v.setWidth 64)))) ∧
    (let seen := (statSettle (curCtx s) s.gauge).statq
     Acts (.sqpop g d) .S s
       (push (modCurCtx s fun c => { statSettle c s.gauge with statq := seen.tail }) .S 1 (.sreg d.toNat (seen.headD 0))))) ∧
  (∀ (g : BitVec 4) (d : BitVec 5) (s : State),
    ((curCtx s).lqs = [] → Raises (.lqpop g d) .S s 0x32 0 0 0 ∧ Raises (.lqpeek g d) .S s 0x32 0 0 0) ∧
    (∀ e, (curCtx s).lqs.head? = some e → e.val ≠ none → e.poison = true →
      Raises (.lqpop g d) .S s 0x7D 10 (BitVec.ofNat 64 e.id) 0 ∧ Raises (.lqpeek g d) .S s 0x7D 10 (BitVec.ofNat 64 e.id) 0) ∧
    (∀ e, (curCtx s).lqs.head? = some e → e.val = none →
      ((curCore s).pinned = true →
        Raises (.lqpop g d) .S s 0x32 (BitVec.ofNat 64 (256 * (curCtx s).lqs.length)) 0 0 ∧
        Raises (.lqpeek g d) .S s 0x32 (BitVec.ofNat 64 (256 * (curCtx s).lqs.length)) 0 0) ∧
      ((curCore s).pinned = false →
        (Clear (.lqpop g d) .S s → exec (.lqpop g d) s = .next (waits s)) ∧
        (Clear (.lqpeek g d) .S s → exec (.lqpeek g d) s = .next (waits s)))))

/-- R89, R129, R132, R133, R236: FMTSET, GSEED and CTLWR: the values that each accepts and what they write, an
acknowledgement among them, and the cause with which it refuses any other. -/
def Obligations.RegisterWrites : Prop :=
  (∀ (g : BitVec 4) (n : BitVec 2) (a : BitVec 5) (s : State),
    let v := sregOf (curCtx s) a.toNat
    let atype := (v.extractLsb' 0 3).toNat
    let btype := (v.extractLsb' 3 3).toNat
    let legal := v.extractLsb' 14 50 = 0 ∧ atype ≤ 3 ∧ btype ≤ 3 ∧ v.extractLsb' 10 2 ≠ 3 ∧ (atype < 2 ↔ btype < 2) ∧
      (2 ≤ atype ↔ v.extractLsb' 6 2 = 3)
    (legal → Lands (.fmtset g a) .S s 4 (.fmt v)) ∧ (¬legal → RaisesOperand (.fmtset g a) .S s) ∧
    (v ≠ 0 → Lands (.gseed g n a) .S s 2 (.seed n.toNat v)) ∧ (v = 0 → RaisesOperand (.gseed g n a) .S s)) ∧
  (∀ (g : BitVec 4) (d : BitVec 5) (n : BitVec 6) (s : State),
    let c := curCtx s
    let v := sregOf c d.toNat
    let i : Instr := .ctlwr g d n
    let reserved := n = 15 ∨ 24 ≤ n.toNat ∨ (n = 4 ∧ v.extractLsb' 2 62 ≠ 0) ∨
      (n = 5 ∧ (v.extractLsb' 1 7 ≠ 0 ∨ v.extractLsb' 9 55 ≠ 0)) ∨ (n = 6 ∧ v.extractLsb' 32 32 ≠ 0) ∨
      (n = 7 ∧ v.extractLsb' 4 60 ≠ 0) ∨ (n = 11 ∧ v.extractLsb' 4 60 ≠ 0)
    let outside := (n = 4 ∧ c.launchPrio.toNat < v.toNat) ∨ (n = 6 ∧ (v.toNat < 64 ∨ c.pauseBound.toNat < v.toNat)) ∨
      n.toNat ≤ 3 ∨ n = 8 ∨ n = 9 ∨ (12 ≤ n.toNat ∧ n.toNat ≤ 14)
    (reserved → RaisesOperand i .S s) ∧
    (¬reserved → outside → Raises i .S s 0x72 (n.setWidth 64) v 0) ∧
    (¬reserved → ¬outside → n ≠ 10 → n ≠ 11 → Lands i .S s 1 (.ctl n.toNat v)) ∧
    (¬reserved → n = 11 → Acts i .S s (push (modCurCtx s fun c => { c with occPhase := v.setWidth 4 }) .S 1 (.ctl 11 v)))) ∧
  (∀ (g : BitVec 4) (d : BitVec 5) (s : State),
    let v := sregOf (curCtx s) d.toNat
    let held (y : Card) : Prop := ∃ st, y.st = .delivered s.cur.core s.cur.ctx st v ∧ (curCtx s).gang = some y.gang
    (∀ y, cardAt s s.cur.core s.cur.ctx v = some y → held y ∧
      Acts (.ctlwr g d 10) .S s
        (push { s with cards := s.cards.map fun z =>
                         if z.key = y.key then { z with st := .acked s.cur.core s.cur.ctx s.seq } else z } .S 1 (.ctl 10 v))) ∧
    ((∀ y ∈ s.cards, ¬held y) → Raises (.ctlwr g d 10) .S s 0x74 v 0 0))

/-! ## Control flow, waits and context control -/

/-- R149-R151, R263: a legal target is taken three positions on, and CALL lands its link at issue+3; a misaligned
register target is 0x09; then one at or above 0x22000 is 0x7B; then one in the half that is not live is 0x39, and no
branch is taken. That the link counts the sizes of the words that stand there at issue is the model's (log 89). -/
def Obligations.Branches : Prop :=
  (∀ (g : BitVec 4) (o : BitVec 21) (a : BitVec 5) (s : State),
    let c := curCtx s
    let ahead := BitVec.ofNat 64 s.cur.addr + (o.signExtend 64) * 4
    let r := sregOf c a.toNat
    let link := sregOf c 31
    let legal (x : Word) : Prop := x.toNat < 0x22000 ∧
      (if c.liveHalf = true then 0x10000 ≤ x.toNat else x.toNat < 0x10000 ∨ 0x20000 ≤ x.toNat)
    let taken (x : Word) (pops : Bool) : State :=
      modCurCtx s fun c => { c with targets := c.targets ++ [{ pos := s.cur.pos + 3, addr := x.toNat, pops := pops }] }
    (legal ahead → Acts (.br g o) .S s (taken ahead true)) ∧
    (legal ahead → Acts (.call g o) .S s
      (push (taken ahead false) .S 3 (.sreg 31 (BitVec.ofNat 64 (thirdAfter (curCore s) s.cur.addr))))) ∧
    (legal r → r.toNat % 4 = 0 → Acts (.bri g a) .S s (taken r true)) ∧
    (legal link → link.toNat % 4 = 0 → Acts (.ret g) .S s (taken link false))) ∧
  (∀ (g : BitVec 4) (o : BitVec 21) (a : BitVec 5) (s : State),
    let c := curCtx s
    let ahead := BitVec.ofNat 64 s.cur.addr + (o.signExtend 64) * 4
    let dead (x : Nat) : Prop := if c.liveHalf = true then x < 0x10000 else 0x10000 ≤ x ∧ x < 0x20000
    let badHalf (i : Instr) (x : Word) : Prop :=
      (0x22000 ≤ x.toNat → Raises i .S s 0x7B x 0 0) ∧ (dead x.toNat → Raises i .S s 0x39 x 0 0)
    let badReg (i : Instr) (x : Word) : Prop :=
      (x.toNat % 4 ≠ 0 → Raises i .S s 0x09 x 0 0) ∧ (x.toNat % 4 = 0 → badHalf i x)
    badHalf (.br g o) ahead ∧ badHalf (.call g o) ahead ∧ badReg (.bri g a) (sregOf c a.toNat) ∧
    badReg (.ret g) (sregOf c 31))

/-- R152, R153, R264-R266: a loop with a count pushes its entry, a zero count makes two bubbles and skips, a fifth
entry is 0x79; BSWAP flips the live half and branches into it, or raises 0x39; IFENCE holds the next bundle for two
cycles. That a zero count reads the size of its end bundle at issue is the model's (log 89). -/
def Obligations.LoopsAndHalves : Prop :=
  (∀ (g : BitVec 4) (a : BitVec 5) (e : BitVec 16) (n : BitVec 9) (f : BitVec 12) (s : State),
    let c := curCtx s
    let k := sregOf c a.toNat
    let pushed (stop : Nat) (n : Word) : State :=
      modCurCtx s fun c => { c with loops := { start := s.cur.addr + hSize s.cur.hdr, stop := stop, count := n } :: c.loops }
    let skipped (stop : Nat) : State :=
      modCurCtx s fun c => { c with bubbles := [s.cur.pos + 1, s.cur.pos + 2],
                                    seqNext := stop + hSize (headerAt (curCore s) stop) }
    let full : Word := BitVec.ofNat 64 c.loops.length
    let top : Word := BitVec.ofNat 64 ((c.loops.head?.map LoopEntry.stop).getD 0)
    (k ≠ 0 → c.loops.length < 4 → Acts (.loop g a e) .S s (pushed (s.cur.addr + 4 * e.toNat) k)) ∧
    (k = 0 → Acts (.loop g a e) .S s (skipped (s.cur.addr + 4 * e.toNat))) ∧
    (k ≠ 0 → 4 ≤ c.loops.length → Raises (.loop g a e) .S s 0x79 full top 0) ∧
    (c.loops.length < 4 → Acts (.loopi g n f) .S s (pushed (s.cur.addr + 4 * f.toNat) (n.setWidth 64))) ∧
    (4 ≤ c.loops.length → Raises (.loopi g n f) .S s 0x79 full top 0)) ∧
  (∀ (g : BitVec 4) (o : BitVec 21) (s : State),
    let c := curCtx s
    let other := if c.liveHalf = true then 4 * o.toNat else 0x10000 + 4 * o.toNat
    let resident := 0x20000 ≤ s.cur.addr
    let free := halfWritten s s.cur.core (!c.liveHalf) = false
    (resident → free → Acts (.bswap g o) .S s
      (modCurCtx (modCurCtx s fun x => { x with liveHalf := !c.liveHalf })
        fun x => { x with targets := x.targets ++ [{ pos := s.cur.pos + 3, addr := other, pops := false }] })) ∧
    (¬(resident ∧ free) → Raises (.bswap g o) .S s 0x39 (BitVec.ofNat 64 other) 0 0) ∧
    Acts (.ifence g) .S s (modCurCtx s fun c => { c with fetchSince := s.gauge, stallUntil := (curCore s).cyc + 3 }))

/-- R189, R190, R192, R196, R347: a TICK counts T up and advances exactly the context's due signals, each with its own
sample, that of a piped signal leaving its pipe; a signal starved for the first time leaves a record of its id and T,
in ascending order of ids (log 46, DESIGN CHOICE); with an empty pipe among them the context parks at the bundle and
nothing advances. -/
def Obligations.TickAdvancesDueSignals : Prop :=
  ∀ (g : BitVec 4) (s : State), Clear (.tick g) .S s →
    let x := s.cur.ctx
    let k := s.cur.core
    let due (y : Signal) : Prop := y.owner = x ∧ ((curCtx s).tick + 1).toNat % y.q = y.phi
    let source (p : Nat) : Pipe := pipeOf s (64 * (k / 8) + p)
    let sample (y : Signal) : VReg := match y.piped with
      | some p => (source p).entries.headD 0
      | none => if y.nw = true then y.next else fillValue y
    ((curCore s).sigs.map Prod.fst).Nodup →
    (∀ e f : Nat × Signal, e ∈ (curCore s).sigs → f ∈ (curCore s).sigs → ∀ p, e.2.piped = some p → f.2.piped = some p → e.1 = f.1) →
    ((∀ e ∈ (curCore s).sigs, due e.2 → ∀ p, e.2.piped = some p → (source p).entries ≠ []) →
      ∃ t, exec (.tick g) s = .next t ∧ t.cur.out = .issued ∧ (ctxOf t k x).tick = (curCtx s).tick + 1 ∧
        (x < 8 → (ctxOf t k x).statNew = (curCtx s).statNew ++ ((curCore s).sigs.filter fun e =>
          decide (due e.2 ∧ e.2.piped = none ∧ e.2.nw = false ∧ e.2.starved = false)).map fun e =>
            (s.gauge, statRecord 4 s.cur.addr (e.1 + 256 * (((curCtx s).tick + 1).toNat % 2 ^ 32)))) ∧
        (∀ q, (∀ e ∈ (curCore s).sigs, due e.2 → ∀ p, e.2.piped = some p → 64 * (k / 8) + p ≠ q) → pipeOf t q = pipeOf s q) ∧
        ∀ id y, sigOf (curCore s).sigs id = some y →
          (due y → ∀ p, y.piped = some p →
            pipeOf t (64 * (k / 8) + p) = { source p with entries := (source p).entries.tail }) ∧
          (due y → sigOf (coreOf t k).sigs id =
            some { y with lags := (sample y :: y.lags).take y.depth, nw := false, adv := y.adv + 1,
                          starved := y.starved || (y.piped.isNone && !y.nw) }) ∧
          (¬due y → sigOf (coreOf t k).sigs id = some y)) ∧
    ((∃ e ∈ (curCore s).sigs, due e.2 ∧ ∃ p, e.2.piped = some p ∧ (source p).entries = []) →
      exec (.tick g) s = .next (waits (tickPark s)) ∧ (ctxOf (waits (tickPark s)) k x).life = .parked .tick ∧
      (coreOf (waits (tickPark s)) k).sigs = (curCore s).sigs ∧ (ctxOf (waits (tickPark s)) k x).tick = (curCtx s).tick)

/-- R193, R198, R260, R262, R281, R334, R335: signal writes, waits, arrivals and FENCE: what each does, when it parks
or waits, and the cause with which it refuses. When a FENCE may go on and what .chip covers are readings (log 14). -/
def Obligations.WaitsAndFences : Prop :=
  (∀ (g : BitVec 4) (v : VSlot) (a : BitVec 5) (n : BitVec 8) (s : State),
    let piped := ∃ y p, sigOf (curCore s).sigs n.toNat = some y ∧ y.piped = some p
    Lands (.sclr g n) .S s 1 (.sigClear n.toNat) ∧
    (¬piped → Lands (.sfeed v g a n) v.slot s 2 (.sigFeed n.toNat (vsrc s v.slot a))) ∧
    (piped → Raises (.sfeed v g a n) v.slot s 0x22 (n.setWidth 64) 0 0)) ∧
  (∀ (g : BitVec 4) (p : BitVec 6) (n : BitVec 9) (a b : BitVec 5) (s : State),
    let c := curCtx s
    let pipe := pipeOf s (64 * (s.cur.core / 8) + p.toNat)
    let conf := confOf s (512 * s.cur.core + n.toNat)
    let met (u : State) : State := { u with cur := { u.cur with fin := .met } }
    let parks (w : Wait) : State :=
      let u := modCurCtx s fun c => { c with life := .parked w }
      { u with cur := { u.cur with fin := .parks w } }
    let x := sregOf c a.toNat
    let home := spadTarget s.cur.core x
    let off := (x.extractLsb' 0 19).toNat
    let v := (sregOf c b.toNat).setWidth 56
    (pipe.bound = none → pipe.entries ≠ [] → Acts (.waitp g p) .S s (met s)) ∧
    (pipe.bound = none → pipe.entries = [] → Acts (.waitp g p) .S s (parks (.pipe p.toNat))) ∧
    (pipe.bound ≠ none → Raises (.waitp g p) .S s 0x23 (p.setWidth 64) 0 0) ∧
    (armedAt c n.toNat = false → Acts (.arrive g n) .S s
      (push (modCurCtx s fun c => { c with armed := mapSet false c.armed n.toNat true,
                                           ticket := mapSet 0 c.ticket n.toNat conf.g })
        .S 1 (.arrive n.toNat (writesAhead s)))) ∧
    (armedAt c n.toNat = true → Raises (.arrive g n) .S s 0x38 (confDetail s n) 0 0) ∧
    (armedAt c n.toNat = true → conf.g ≠ ticketAt c n.toNat → Acts (.waitc g n) .S s
      (met (modCurCtx s fun c => { c with armed := mapSet false c.armed n.toNat false }))) ∧
    (armedAt c n.toNat = true → conf.g = ticketAt c n.toNat → Acts (.waitc g n) .S s (parks (.conf n.toNat))) ∧
    (armedAt c n.toNat = false → Raises (.waitc g n) .S s 0x38 (confDetail s n) 0 0) ∧
    (x.toNat < 2 ^ 22 → x.toNat % 8 = 0 → gangGrants s c.gang home off 8 = true → NoPendingStore s x 8 →
      spadPoisoned (coreOf s home) off 8 = false →
      (readNat (coreOf s home).spad off 7 = v.toNat → Acts (.mwait g a b) .S s (met s)) ∧
      (readNat (coreOf s home).spad off 7 ≠ v.toNat → Acts (.mwait g a b) .S s (parks (.word home off v))))) ∧
  (∀ (g : BitVec 4) (sc : BitVec 3) (s : State), Clear (.fence g sc) .S s →
    let accs := fenceAccs s s.cur.core s.cur.ctx s.cur.pos
    let cmds := fenceCmds s s.cur.core s.cur.ctx s.cur.pos sc.toNat
    (accs = false → cmds = 0 → exec (.fence g sc) s = .next (completed (.fence g sc) .S s)) ∧
    (accs = true → exec (.fence g sc) s = .next (waits s)) ∧
    (accs = false → cmds ≠ 0 → (curCore s).pinned = false → exec (.fence g sc) s = .next (waits s)) ∧
    (accs = false → cmds ≠ 0 → (curCore s).pinned = true →
      exec (.fence g sc) s = .next (levelFault s 0x55 (BitVec.ofNat 64 cmds) 0 0)))

/-- R62-R64, R74, R76, R77, R156, R163, R184, R188, R194, R206, R217, R230, R257, R258, R261, R338, R341, R342, R349:
NOP changes nothing, a missing opcode faults with 0x01, TRAP and BRK raise 0x70 and 0x71; a slot that faults stops its
context with its cause, its slot and its details in hand and counts it, and changes no result, register or byte; its
record holds these fields. The checks that every slot shares raise, once those of the word pass: for the first
resource that its context or gang does not hold 0x11, 0x12 or 0x13; for a source that a result in flight has still to
write 0x34 in debug pending-bit mode, then for a poisoned one 0x7D; for a tap's lag that is not below the depth 0x21;
for an empty load-data queue of vectors 0x32, and for one whose oldest entry is late 0x32 in pinned mode, and a wait
in elastic mode; SFEED and PSEND once their own checks pass. The detail words of the 0x7D of a queue entry, kind 11
and the model's own number of the entry, are the model's choice, since R342 lists no kind for it (log 108, DESIGN
CHOICE). Which results of one bundle count as in flight, and that 0x34 and 0x7D come before 0x21 and 0x32, are the
model's (logs 83, 91, DESIGN CHOICE). -/
def Obligations.FaultsTaken : Prop :=
  (∀ (g : BitVec 4) (n : BitVec 16) (sl : Slot) (w : Word32) (s : State),
    Raises (.trap g n) .S s 0x70 (n.setWidth 64) 0 0 ∧ Raises (.brk g n) .S s 0x71 (n.setWidth 64) 0 0 ∧
    exec (.illegalOpcode sl w) s =
      .next (quietFault (if guardPass (curCtx s) (w.extractLsb' 21 4) = true then busySlot s sl else s) sl 0x01
        (s.cur.hdr ++ w) (s.cur.lit.setWidth 64) 0) ∧
    Acts (.nop sl g) sl s s) ∧
  ((∀ (s : State) (sl : Slot) (cause : BitVec 7) (d0 d1 d2 : Word), (curCtx s).fault = none →
    let c := curCtx s
    ∃ t f, slotFault s sl cause d0 d1 d2 = t ∧ (ctxOf t s.cur.core s.cur.ctx).fault = some f ∧
      ctxOf t s.cur.core s.cur.ctx =
        { occBump c (occSlot sl) with life := .stopped, fault := some f, nfault := if c.nfault = 255 then 255 else c.nfault + 1 } ∧
      (f.step, f.cycle, f.bundle, f.pos) = (s.gauge, (curCore s).cyc, s.cur.addr, s.cur.pos) ∧
      (f.cause, f.level, f.d0, f.d1, f.d2) = (cause, false, d0, d1, d2) ∧ f.tick = c.tick ∧ f.loops = c.loops.length ∧
      f.pinned = (curCore s).pinned ∧ (∀ j : Slot, f.slots.getLsbD j.idx = decide (j = sl)) ∧
      ComputeFrame s t ∧ (coreOf t s.cur.core).pend = (curCore s).pend ∧ t.cur.out = .faulted) ∧
  (∀ (s : State) (k x : Nat) (f : FaultInfo), f.step < 2 ^ 64 → f.lead.length ≤ 6 → f.batch = none →
    let bs := faultBytes s k x f
    let num (off n : Nat) : Nat := bytesToNat ((bs.drop off).take n)
    bs.length = 64 ∧ num 0 8 = f.step ∧ num 8 8 = (ispGlobal k f.bundle).toNat ∧
    num 16 8 = (handleOf k x (ctxOf s k x).epoch).toNat ∧ num 24 1 = f.cause.toNat ∧ num 25 1 % 64 = f.slots.toNat ∧
    (num 25 1 / 64 = if f.level = true then 1 else 0) ∧ (num 26 1 % 2 = if f.pinned = true then 1 else 0) ∧
    num 26 1 / 4 % 8 = f.loops % 8 ∧ num 27 1 = (ctxOf s k x).nfault.toNat ∧ num 32 8 = f.tick.toNat ∧ num 40 8 = f.d0.toNat ∧
    num 48 8 = f.d1.toNat ∧ num 56 8 = f.d2.toNat)) ∧
  ((∀ (i : Instr) (sl : Slot) (s : State), slotOf i = some sl → (∀ x w, i ≠ .illegalOpcode x w) → Reached i s →
    let x := s.cur.ctx
    let raises (cause : BitVec 7) (d0 d1 : Nat) : Prop :=
      exec i s = .next (slotFault s sl cause (BitVec.ofNat 64 d0) (BitVec.ofNat 64 d1) 0)
    let held (n : Need) : Prop := match n with
      | .tile t => (tileOf (curCore s) t).owner = some x
      | .grove j => (groveOf (curCore s) j).owner = some x
      | .sig j => ∃ y, sigOf (curCore s).sigs j = some y ∧ y.owner = x
      | .pipe p => (curCtx s).gang ≠ none ∧ (pipeOf s (64 * (s.cur.core / 8) + p)).gang = (curCtx s).gang
      | .conf c => (curCtx s).gang ≠ none ∧ (confOf s (512 * s.cur.core + c)).gang = (curCtx s).gang
    let number (p : Place) : Nat × Nat := match p with
      | .sreg _ n => (1, n)
      | .flag _ n => (2, n)
      | .vreg _ n => (3, n)
      | .mask _ n => (4, n)
      | .basin _ n => (5, n)
      | p => placeDetail p
    let busy (p : Place) : Prop := (curCore s).debug = true ∧ isPending (curCore s) x p = true
    let bad (p : Place) : Prop := match p with
      | .sig _ _ _ => p ∈ s.cur.poison
      | p => p ∈ (curCore s).poison
    (∀ before n after, needs sl s.cur.lit i = before ++ n :: after → (∀ m ∈ before, held m) → ¬held n → match n with
      | .tile t => raises 0x11 (1 + 2 ^ 16 * t) 0
      | .grove j => raises 0x11 (2 + 2 ^ 16 * j) 0
      | .sig j => raises 0x12 (3 + 2 ^ 16 * j) 0
      | .pipe p => raises 0x13 (4 + 2 ^ 16 * p) 0
      | .conf c => raises 0x13 (5 + 2 ^ 16 * c) 0) ∧
    ((∀ n ∈ needs sl s.cur.lit i, held n) → mayWait i s = false → ∀ before p after, reads s sl i = before ++ p :: after →
      ((∀ q ∈ before, ¬busy q) → busy p → raises 0x34 ((number p).1 + 2 ^ 8 * (number p).2) 0) ∧
      ((∀ q ∈ reads s sl i, ¬busy q) → (∀ q ∈ before, ¬bad q) → bad p → raises 0x7D (number p).1 (number p).2))) ∧
  (∀ (i : Instr) (sl : VSlot) (s : State), slotOf i = some sl.slot → vectorSources i ≠ [] →
    (∀ v g a p, i = .psend v g a p → behindV0 s sl.slot (fun j => decide (pipeNamed j = some p)) = false ∧
      (pipeOf s (64 * (s.cur.core / 8) + p.toNat)).entries.length + (pipeOf s (64 * (s.cur.core / 8) + p.toNat)).inflight < 16) →
    (∀ v g a n, i = .sfeed v g a n → ∀ y, sigOf (curCore s).sigs n.toNat = some y → y.piped = none) → Reached i s → grantFault s sl.slot i = none → pendingFault s sl.slot i = none →
    poisonFault s sl.slot i = none →
    let raises (cause : BitVec 7) (d0 d1 : Nat) : Prop :=
      exec i s = .next (slotFault s sl.slot cause (BitVec.ofNat 64 d0) (BitVec.ofNat 64 d1) 0)
    let half := if sl.slot = .V1 then s.cur.lit.extractLsb' 16 16 else s.cur.lit.extractLsb' 0 16
    let id := (half.extractLsb' 8 8).toNat
    let lag := (half.extractLsb' 0 8).toNat
    let deep := ∃ y, 16 ∈ vectorSources i ∧ sigOf s.cur.sigs id = some y ∧ y.depth ≤ lag
    let queue := 17 ∈ vectorSources i ∨ 18 ∈ vectorSources i
    let q := (curCtx s).lqv
    let turn := behindV0 s sl.slot namesQueue = false
    (∀ y, 16 ∈ vectorSources i → sigOf s.cur.sigs id = some y → y.depth ≤ lag → raises 0x21 (id + 2 ^ 8 * lag + 2 ^ 16 * y.depth) 0) ∧
    (¬deep → queue →
      (¬turn → exec i s = .next (waits s)) ∧ (turn → q = [] → raises 0x32 1 0) ∧
      (∀ e rest, turn → q = e :: rest → e.val = none →
        ((curCore s).pinned = true → raises 0x32 (1 + 2 ^ 8 * q.length) 0) ∧ ((curCore s).pinned = false → exec i s = .next (waits s))) ∧
      (∀ e rest, turn → q = e :: rest → e.val ≠ none → e.poison = true → raises 0x7D 11 e.id))))

/-- R120: at RETIRE's issue the context's register results in flight are discarded, its other results stay, and it is
retired in the start role and idle in any other. -/
def Obligations.RetireResults : Prop :=
  ∀ (g : BitVec 4) (s : State), Clear (.retire g) .S s →
    ∃ t, exec (.retire g) s = .next t ∧ t.cur.out = .issued ∧ t.cur.fin = .retires ∧
      (ctxOf t s.cur.core s.cur.ctx).life = (if (curCtx s).role = 0 then .retired else .idle) ∧
      (∀ p, p ∈ (coreOf t s.cur.core).pend ↔ p ∈ (curCore s).pend ∧ ¬(p.ctx = s.cur.ctx ∧ isRegisterEff p.eff = true)) ∧
      (coreOf t s.cur.core).accs = (curCore s).accs ∧ t.ferries = s.ferries ∧ SameBytes s t

/-- R122: SPAWN of an idle dormant context clears it, gives it arg0 and a start at least 64 steps on, how many more
being a free choice (log 5), and lands its handle at issue+24; a busy one lands 0; an index that names no dormant
context is 0x73. -/
def Obligations.SpawnResults : Prop :=
  ∀ (g : BitVec 4) (d a b : BitVec 5) (s : State), Clear (.spawn g d a b) .S s →
    let e := sregOf (curCtx s) a.toNat
    ∀ key gang, (curCtx s).gang = some key → gangOf s key = some gang →
    (∀ y, gang.entries[e.toNat]? = some y → y.role = 1 →
      ((ctxOf s y.core y.ctx).life ≠ .idle → Lands (.spawn g d a b) .S s 24 (.sreg d.toNat 0)) ∧
      ((ctxOf s y.core y.ctx).life = .idle → (ctxOf s y.core y.ctx).gang = some key → (ctxOf s y.core y.ctx).entry = e.toNat →
        (y.core ≠ s.cur.core ∨ y.ctx ≠ s.cur.ctx) →
        ∃ t h, exec (.spawn g d a b) s = .next t ∧ t.cur.out = .issued ∧
          inFlightFrom s .S 1 24 (.sreg d.toNat h) ∈ (coreOf t s.cur.core).pend ∧
          (let c := ctxOf t y.core y.ctx
           h = handleOf y.core y.ctx c.epoch ∧ c.epoch = (ctxOf s y.core y.ctx).starts + 1 ∧
           c.life = .starting (s.gauge + 64 + (draw s).1) false ∧ c.seqNext = y.offset ∧ c.liveHalf = decide (regionOf y.offset = 1) ∧
           mapGet 0 c.args 0 = sregOf (curCtx s) b.toNat ∧ c.sregs = [] ∧ c.flags = 0 ∧ c.vregs = [] ∧ c.masks = [] ∧
           c.basins = [] ∧ c.fmt = 0 ∧ c.tick = 0 ∧ c.loops = [] ∧ c.armed = [] ∧ c.lqs = [] ∧ c.lqv = []))) ∧
    ((∀ y, gang.entries[e.toNat]? = some y → y.role ≠ 1) → Raises (.spawn g d a b) .S s 0x73 e 0 0)

/-- R126: FRESUME of a context of the gang that a fault has stopped: resumed or skipped, it becomes ready at issue+1,
its pause count is 0 and RS is set; retired, it holds no fault and is retired or idle. Any other handle is 0x74. -/
def Obligations.FresumeResults : Prop :=
  ∀ (g : BitVec 4) (a : BitVec 5) (how : BitVec 11) (s : State), Clear (.fresume g a how) .S s →
    let h := sregOf (curCtx s) a.toNat
    let x := (h.extractLsb' 0 3).toNat
    let k := (h.extractLsb' 3 8).toNat
    let c := ctxOf s k x
    let named := c.gang ≠ none ∧ c.gang = (curCtx s).gang ∧ c.life = .stopped ∧ c.fault ≠ none ∧ h = handleOf k x c.epoch
    (named → (k ≠ s.cur.core ∨ x ≠ s.cur.ctx) →
      ∃ t, exec (.fresume g a how) s = .next t ∧ t.cur.out = .issued ∧ (ctxOf t k x).fault = none ∧
        (ctxOf t k x).stRS = true ∧ (ctxOf t k x).pauseCount = 0 ∧
        (ctxOf t k x).life = (if how.toNat ≤ 1 then .resuming else if c.role = 0 then .retired else .idle) ∧
        (how.toNat ≤ 1 → ∃ p ∈ (coreOf t s.cur.core).pend, p.due = (curCore s).cyc + 1 ∧ p.eff = .wake k x ∧ p.poison = false) ∧
        (how = 0 → (ctxOf t k x).spos = c.spos ∧ (ctxOf t k x).win = c.win) ∧
        (how.toNat ≤ 1 → ∀ n, sregOf (ctxOf t k x) n = sregOf c n ∧ vregOf (ctxOf t k x) n = vregOf c n)) ∧
    (¬named → Raises (.fresume g a how) .S s 0x74 h 0 0)

/-! ## Vector results -/

/-- R80, R162, R164, R165: the integer element-wise forms, lane by lane: the exact result in the lane's reading,
wrapped or, with `.sat`, clamped to the range of the reading; the bitwise forms and the shifts. -/
def Obligations.VectorIntegerResults : Prop :=
  (∀ (sl : VSlot) (g : BitVec 4) (d a b : BitVec 5) (t m : BitVec 3) (s : State), isFloatT t = false →
    let w := widthT t
    let x (j : Nat) : Nat := lane w (vsrc s sl.slot a).toNat j
    let y (j : Nat) : Nat := lane w (vsrc s sl.slot b).toNat j
    let uns := m.getLsbD 2
    let sat := m.getLsbD 0
    let rd (z : Nat) : Int := if uns = true then (z : Int) else toSigned w z
    let lo : Int := if uns = true then 0 else -(2 ^ (w - 1))
    let hi : Int := if uns = true then 2 ^ w - 1 else 2 ^ (w - 1) - 1
    let is (r : Int) (z : Nat) : Prop :=
      if sat = true then rd z = max lo (min hi r) else (z : Int) % 2 ^ w = r % 2 ^ w
    let lands (i : Instr) (p : Nat → Nat → Prop) : Prop :=
      ∃ v : VReg, Lands i sl.slot s 2 (.vreg (vbase sl.slot + d.toNat) v) ∧ ∀ j < 4096 / w, p j (lane w v.toNat j)
    lands (.vadd sl g d a b t m) (fun j => is (rd (x j) + rd (y j))) ∧
    lands (.vsub sl g d a b t m) (fun j => is (rd (x j) - rd (y j))) ∧
    lands (.vmul sl g d a b t m) (fun j => is (rd (x j) * rd (y j))) ∧
    lands (.vabs sl g d a t m) (fun j => is (if rd (x j) < 0 then -rd (x j) else rd (x j))) ∧
    lands (.vneg sl g d a t m) (fun j => is (-rd (x j))) ∧
    lands (.vmin sl g d a b t m) (fun j z => rd z = min (rd (x j)) (rd (y j))) ∧
    lands (.vmax sl g d a b t m) (fun j z => rd z = max (rd (x j)) (rd (y j)))) ∧
  (∀ (sl : VSlot) (g : BitVec 4) (d a b : BitVec 5) (t m : BitVec 3) (s : State),
    let w := widthT t
    let x := vsrc s sl.slot a
    let y := vsrc s sl.slot b
    let gives (i : Instr) (v : VReg) : Prop := Lands i sl.slot s 2 (.vreg (vbase sl.slot + d.toNat) v)
    gives (.vand sl g d a b t m) (x &&& y) ∧ gives (.vor sl g d a b t m) (x ||| y) ∧ gives (.vxor sl g d a b t m) (x ^^^ y) ∧
    LandsLanes (.vshl sl g d a b t m) sl s 2 d w (fun j => lane w x.toNat j * 2 ^ lane w y.toNat j) ∧
    LandsLanes (.vshr sl g d a b t m) sl s 2 d w (fun j => lane w x.toNat j / 2 ^ lane w y.toNat j) ∧
    (∃ v : VReg, gives (.vsra sl g d a b t m) v ∧ ∀ j < 4096 / w,
      toSigned w (lane w v.toNat j) = toSigned w (lane w x.toNat j) / 2 ^ lane w y.toNat j))

/-- R88, R162, R164-R166, R170: the floating forms, lane by lane, rounded once in the mode of the rounding code under
the format register as it is at issue, with their latencies. -/
def Obligations.VectorFloatResults : Prop :=
  (∀ (sl : VSlot) (g : BitVec 4) (d a b c : BitVec 5) (t m : BitVec 3) (n : BitVec 1) (s : State), isFloatT t = true →
    let w := widthT t
    let fmt := (curCtx s).fmt
    let x (a : BitVec 5) (j : Nat) : FV := laneF fmt t (lane w (vsrc s sl.slot a).toNat j)
    let v := envOf fmt m.toNat
    let plain := envOf fmt 0
    let f := fmtOf t.toNat
    let lat := if t.toNat < 2 then 4 else 3
    let fma (t : BitVec 3) (j : Nat) : Nat :=
      let x (a : BitVec 5) : FV := laneF fmt t (lane (widthT t) (vsrc s sl.slot a).toNat j)
      fFmaV plain (fmtOf t.toNat) (n == 1) (x a) (x b) (x c)
    LandsLanes (.vadd sl g d a b t m) sl s lat d w (fun j => fAddV v f (x a j) (x b j)) ∧
    LandsLanes (.vsub sl g d a b t m) sl s lat d w (fun j => fAddV v f (x a j) (fNegV (x b j))) ∧
    LandsLanes (.vmul sl g d a b t m) sl s lat d w (fun j => fMulV v f (x a j) (x b j)) ∧
    LandsLanes (.vmin sl g d a b t m) sl s lat d w (fun j => fMinMax v f false (x a j) (x b j)) ∧
    LandsLanes (.vmax sl g d a b t m) sl s lat d w (fun j => fMinMax v f true (x a j) (x b j)) ∧
    LandsLanes (.vabs sl g d a t m) sl s lat d w (fun j => fPack plain f (fAbsV (x a j))) ∧
    LandsLanes (.vneg sl g d a t m) sl s lat d w (fun j => fPack plain f (fNegV (x a j))) ∧
    LandsLanes (.vfma_d sl g d a b c n) sl s 4 d 64 (fma 0) ∧ LandsLanes (.vfma_s sl g d a b c n) sl s 4 d 32 (fma 1) ∧
    LandsLanes (.vfma_h sl g d a b c n) sl s 3 d 16 (fma 2) ∧ LandsLanes (.vfma_b sl g d a b c n) sl s 3 d 16 (fma 3)) ∧
  (∀ (sl : VSlot) (g : BitVec 4) (d a b : BitVec 5) (t r : BitVec 3) (s : State),
    let w := widthT t
    let fmt := (curCtx s).fmt
    let x (j : Nat) : FV := laneF fmt t (lane w (vsrc s sl.slot a).toNat j)
    let y (j : Nat) : FV := laneF fmt t (lane w (vsrc s sl.slot b).toNat j)
    let v := envOf fmt r.toNat
    let f := fmtOf t.toNat
    let lat := if t = 0 then 14 else 10
    LandsLanes (.vdiv sl g d a b t r) sl s lat d w (fun j => fDivV v f (x j) (y j)) ∧
    LandsLanes (.vsqrt sl g d a t r) sl s lat d w (fun j => fSqrtV v f (x j)) ∧
    LandsLanes (.vrcp sl g d a t r) sl s lat d w (fun j => fDivV v f (.fin false 1 0) (x j)) ∧
    LandsLanes (.vrsq sl g d a t r) sl s lat d w (fun j => fRsqV v f (x j)) ∧
    LandsLanes (.vexp2 sl g d a t r) sl s 6 d w (fun j => fExp2V v f (x j)) ∧
    LandsLanes (.vlog2 sl g d a t r) sl s 6 d w (fun j => fLog2V v f (x j)))

/-- R160, R167, R168, R174, R175: VCMP writes one mask bit for each lane, or for each pair of 512; VSEL chooses lanes
by a mask; VSUMM, VCOUNT and the logic of masks. -/
def Obligations.MaskResults : Prop :=
  (∀ (sl : VSlot) (g : BitVec 4) (d a b : BitVec 5) (k t : BitVec 3) (u : BitVec 1) (c : BitVec 2) (s : State),
    let w := widthT t
    let fmt := (curCtx s).fmt
    let x (j : Nat) : Nat := lane w (vsrc s sl.slot a).toNat j
    let y (j : Nat) : Nat := lane w (vsrc s sl.slot b).toNat j
    let rd (z : Nat) : Int := if u = 1 then (z : Int) else toSigned w z
    let cond (j : Nat) : Prop :=
      if isFloatT t = true then fCond c.toNat (laneF fmt t (x j)) (laneF fmt t (y j)) = true
      else (c = 0 ∧ x j = y j) ∨ (c = 1 ∧ x j ≠ y j) ∨ (c = 2 ∧ rd (x j) < rd (y j)) ∨ (c = 3 ∧ rd (x j) ≤ rd (y j))
    let lat := if t.toNat < 2 then 4 else if isFloatT t = true then 3 else 2
    let m := maskOf (curCtx s) k.toNat
    (∃ v : Mask, Lands (.vcmp sl g k a b t u c) sl.slot s lat (.mask k.toNat v) ∧ ∀ j < 256,
      (v.getLsbD j = true ↔ if w = 8 then cond (2 * j) ∧ cond (2 * j + 1) else j < 4096 / w ∧ cond j)) ∧
    LandsLanes (.vsel sl g d a b t k) sl s 2 d w
      (fun j => if m.getLsbD (if w = 8 then j / 2 else j) = true then x j else y j)) ∧
  (∀ (sl : VSlot) (g : BitVec 4) (f k l m : BitVec 3) (d : BitVec 5) (s : State),
    let x := maskOf (curCtx s) k.toNat
    let y := maskOf (curCtx s) l.toNat
    (∃ v, Lands (.vsumm sl g f k) sl.slot s 3 (.flag f.toNat v) ∧ (v = true ↔ ∃ j, x.getLsbD j = true)) ∧
    Lands (.vcount sl g d k) sl.slot s 3 (.sreg d.toNat (BitVec.ofNat 64 ((List.range 256).countP fun j => x.getLsbD j))) ∧
    Lands (.kand sl g m k l) sl.slot s 1 (.mask m.toNat (x &&& y)) ∧
    Lands (.kor sl g m k l) sl.slot s 1 (.mask m.toNat (x ||| y)) ∧
    Lands (.kxor sl g m k l) sl.slot s 1 (.mask m.toNat (x ^^^ y)) ∧
    Lands (.knot sl g m k) sl.slot s 1 (.mask m.toNat (~~~x)))

/-- R63, R66, R169, R173: VCVT, VBCAST, VPERM, VMOV and XMOV. VCVT between integer types reads the source in its
reading, then wraps or clamps; lanes beyond the source's count are zero. -/
def Obligations.VectorMoves : Prop :=
  (∀ (sl : VSlot) (g : BitVec 4) (d a : BitVec 5) (x y : BitVec 1) (p t r : BitVec 3) (s : State),
    let x' (j : Nat) : Nat := lane (widthT p) (vsrc s sl.slot a).toNat j
    let w := widthT t
    let n := 4096 / widthT p
    let rd (w : Nat) (u : BitVec 1) (z : Nat) : Int := if u = 1 then (z : Int) else toSigned w z
    let lo : Int := if x = 1 then 0 else -(2 ^ (w - 1))
    let hi : Int := if x = 1 then 2 ^ w - 1 else 2 ^ (w - 1) - 1
    LandsLanes (.vcvt sl g d a x y p t r) sl s 3 d w (fun j => if j < n then convLane (curCtx s).fmt x y p t r (x' j) else 0) ∧
    (isFloatT p = false → isFloatT t = false →
      ∃ v : VReg, Lands (.vcvt sl g d a x y p t r) sl.slot s 3 (.vreg (vbase sl.slot + d.toNat) v) ∧
        ∀ j < 4096 / w, j < n →
          if r.getLsbD 0 = true then rd w x (lane w v.toNat j) = max lo (min hi (rd (widthT p) y (x' j)))
          else (lane w v.toNat j : Int) % 2 ^ w = rd (widthT p) y (x' j) % 2 ^ w)) ∧
  (∀ (sl : VSlot) (g : BitVec 4) (d a b : BitVec 5) (t : BitVec 3) (s : State),
    let w := widthT t
    let x := vsrc s sl.slot a
    let y := vsrc s sl.slot b
    LandsLanes (.vbcast sl g d a t) sl s 2 d w (fun _ => (sregOf (curCtx s) a.toNat).toNat) ∧
    LandsLanes (.vperm sl g d a b t) sl s 2 d w
      (fun j => if lane w y.toNat j < 4096 / w then lane w x.toNat (lane w y.toNat j) else 0) ∧
    Lands (.vmov sl g d a) sl.slot s 2 (.vreg (vbase sl.slot + d.toNat) x) ∧
    Lands (.xmov sl g d a) sl.slot s 2 (.vreg d.toNat x))

/-- R93, R171, R172: a reduction leaves the root of the pairwise tree, an integer one with every other lane zero;
VARGMX leaves the number of the winning lane: a NaN beats a number, a greater number a lesser one, the first of equals
the others. -/
def Obligations.VectorReductions : Prop :=
  (∀ (sl : VSlot) (g : BitVec 4) (d a : BitVec 5) (t m : BitVec 3) (s : State),
    let w := widthT t
    let fmt := (curCtx s).fmt
    let x (j : Nat) : Nat := lane w (vsrc s sl.slot a).toNat j
    let reduces (i : Instr) (f : Nat → Nat → Nat) : Prop :=
      ∃ (v : VReg) (level : Nat → Nat → Nat), Lands i sl.slot s 6 (.vreg (vbase sl.slot + d.toNat) v) ∧
        (∀ j, level 0 j = x j) ∧
        (∀ l j, j < 4096 / w / 2 ^ (l + 1) → level (l + 1) j = f (level l (2 * j)) (level l (2 * j + 1))) ∧
        (∀ l, 4096 / w = 2 ^ l → v = BitVec.ofNat 4096 (level l 0)) ∧ (isFloatT t = false → v.toNat < 2 ^ w)
    reduces (.vredadd sl g d a t m) (lane2 fmt t m fAddV fun p q => p + q) ∧
    reduces (.vredmax sl g d a t m) (laneMax fmt t m) ∧ reduces (.vredmin sl g d a t m) (laneMin fmt t m)) ∧
  (∀ (sl : VSlot) (g : BitVec 4) (d a : BitVec 5) (t m : BitVec 3) (s : State),
    let w := widthT t
    let fmt := (curCtx s).fmt
    let x (j : Nat) : Nat := lane w (vsrc s sl.slot a).toNat j
    let rd (z : Nat) : Int := if m.getLsbD 2 = true then (z : Int) else toSigned w z
    let beats (i j : Nat) : Prop :=
      if isFloatT t = true then
        fIsNan (laneF fmt t (x j)) = false ∧ (fIsNan (laneF fmt t (x i)) = true ∨ fLtV (laneF fmt t (x j)) (laneF fmt t (x i)) = true)
      else rd (x j) < rd (x i)
    ∃ i < 4096 / w, Lands (.vargmx sl g d a t m) sl.slot s 6 (.vreg (vbase sl.slot + d.toNat) (BitVec.ofNat 4096 i)) ∧
      (∀ j < 4096 / w, ¬beats j i) ∧ ∀ j < i, beats i j)

/-- R95, R96, R177, R178: the basin forms, with the value of a finite basin as an integer multiple of 2^-2176. -/
def Obligations.BasinResults : Prop :=
  ∀ (sl : VSlot) (g : BitVec 4) (d a b : BitVec 5) (f t r : BitVec 3) (n m c : BitVec 2) (s : State),
    let x := basinOf (curCtx s) n.toNat
    let y := basinOf (curCtx s) m.toNat
    let fmt := (curCtx s).fmt
    let dot := dotTerms fmt t (vsrc s sl.slot a) (vsrc s sl.slot b)
    let nan := x.st = 3 ∨ x.ov = true
    Lands (.bclr sl g n) sl.slot s 1 (.basinClear n.toNat) ∧
    Lands (.bacc sl g n a b t) sl.slot s 6 (.basinAdd n.toNat dot.1 dot.2 false) ∧
    Lands (.badd sl g n m) sl.slot s 6 (.basinAdd n.toNat (if y.st = 0 then y.val.toInt else 0) y.st y.ov) ∧
    (∃ z, Lands (.brnd sl g d n t r) sl.slot s 8 (.vreg (vbase sl.slot + d.toNat) (BitVec.ofNat 4096 z)) ∧
      (nan → z = fCanon (fmtOf t.toNat)) ∧ (¬nan → x.st = 1 → z = fInf (fmtOf t.toNat) false) ∧
      (¬nan → x.st = 2 → z = fInf (fmtOf t.toNat) true) ∧
      (¬nan → x.st = 0 → z = fRound (envOf fmt r.toNat) (fmtOf t.toNat) (x.val.toInt < 0) x.val.toInt.natAbs (-2176) false)) ∧
    (∃ v, Lands (.bsgn sl g f n c) sl.slot s 3 (.flag f.toNat v) ∧
      (nan → (v = true ↔ c = 3)) ∧ (¬nan → x.st = 1 → (v = true ↔ c = 0)) ∧ (¬nan → x.st = 2 → (v = true ↔ c = 1)) ∧
      (¬nan → x.st = 0 → (v = true ↔ (c = 0 ∧ 0 < x.val.toInt) ∨ (c = 1 ∧ x.val.toInt < 0) ∨ (c = 2 ∧ x.val.toInt = 0)))) ∧
    (∃ lo hi : VReg, Lands (.bmovb sl g d n 0) sl.slot s 4 (.vreg (vbase sl.slot + d.toNat) lo) ∧
      Lands (.bmovb sl g d n 1) sl.slot s 4 (.vreg (vbase sl.slot + d.toNat) hi) ∧
      lo = x.val.extractLsb' 0 4096 ∧ hi.extractLsb' 0 256 = x.val.extractLsb' 4096 256 ∧ hi.extractLsb' 256 2 = x.st ∧
      hi.getLsbD 258 = x.ov ∧ hi.extractLsb' 259 3837 = 0)

/-- R98, R99, R179-R181: VCBQ and VCBX go through the codebook table in force at issue; CBLD lands 16 lanes at
issue+3; VSNORM lands the quotients and, in k7, the lanes whose sum is a zero. -/
def Obligations.TableResults : Prop :=
  (∀ (sl : VSlot) (g : BitVec 4) (d a : BitVec 5) (t : BitVec 3) (s : State),
    let c := curCtx s
    let w := widthT t
    let entry (j : Nat) : FV := laneF c.fmt c.cbType (mapGet 0 c.cb j).toNat
    let x := vsrc s sl.slot a
    (∃ v : VReg, Lands (.vcbq sl g d a t) sl.slot s 4 (.vreg (vbase sl.slot + d.toNat) v) ∧
      v.toNat < 2 ^ (4 * (4096 / w)) ∧
      ∀ j < 4096 / w, lane 4 v.toNat j = quantIndex ((List.range 16).map entry) (laneF c.fmt t (lane w x.toNat j)) % 16) ∧
    LandsLanes (.vcbx sl g d a t) sl s 3 d w
      (fun j => fPack (envOf c.fmt 0) (fmtOf t.toNat) (entry (lane 4 x.toNat j))) ∧
    Lands (.cbld sl g a t) sl.slot s 3
      (.cb ((List.range 16).map fun j => BitVec.ofNat 64 (lane w x.toNat j)) t)) ∧
  (∀ (sl : VSlot) (g : BitVec 4) (d a b : BitVec 5) (t r : BitVec 3) (s : State), Clear (.vsnorm sl g d a b t r) sl.slot s →
    let w := widthT t
    let fmt := (curCtx s).fmt
    let x (j : Nat) : FV := laneF fmt t (lane w (vsrc s sl.slot a).toNat j)
    let y (j : Nat) : FV := laneF fmt t (lane w (vsrc s sl.slot b).toNat j)
    let zero (j : Nat) : Prop := ∃ n e, y j = .fin n 0 e
    let lat := if t = 0 then 14 else 10
    ∃ (v : VReg) (k : Mask),
      Yields (.vsnorm sl g d a b t r) sl.slot s [(lat, .vreg (vbase sl.slot + d.toNat) v), (lat, .mask 7 k)] ∧
      (∀ j < 4096 / w, (zero j → lane w v.toNat j = 0 ∧ k.getLsbD j = true) ∧
        (¬zero j → lane w v.toNat j = fDivV (envOf fmt r.toNat) (fmtOf t.toNat) (x j) (y j) % 2 ^ w ∧ k.getLsbD j = false)) ∧
      ∀ j, 4096 / w ≤ j → k.getLsbD j = false)

/-! ## Floating values -/

/-- R82-R85, R170: the canonical NaN of each format; invalid operations, infinities and zeros, the NaN that an operand
gives under each policy, and what overflow gives in each mode. -/
def Obligations.FloatSpecialValues : Prop :=
  (fCanon (fmtOf 0) = 0x7FF8000000000000 ∧ fCanon fp32 = 0x7FC00000 ∧ fCanon fp16 = 0x7E00 ∧ fCanon bf16 = 0x7FC0) ∧
  ∀ (v : FEnv) (x : FFmt) (n p : Bool) (m k : Nat) (e : Int),
    fAddV v x (.inf n) (.inf (!n)) = fCanon x ∧ fAddV v x (.inf n) (.inf n) = fInf x n ∧ fAddV v x (.inf n) (.fin p m e) = fInf x n ∧
    fAddV v x (.fin n 0 e) (.fin n 0 e) = fZero x n ∧ fAddV v x (.fin n m e) (.fin (!n) m e) = fZero x (decide (v.rnd = 2)) ∧
    fMulV v x (.inf n) (.fin p 0 e) = fCanon x ∧ fMulV v x (.fin p 0 e) (.inf n) = fCanon x ∧
    fMulV v x (.inf n) (.inf p) = fInf x (xor n p) ∧ fDivV v x (.fin n 0 e) (.fin p 0 e) = fCanon x ∧
    fDivV v x (.inf n) (.inf p) = fCanon x ∧ (m ≠ 0 → fDivV v x (.fin n m e) (.fin p 0 e) = fInf x (xor n p)) ∧
    fDivV v x (.fin n m e) (.inf p) = fZero x (xor n p) ∧ fSqrtV v x (.inf true) = fCanon x ∧ fSqrtV v x (.fin n 0 e) = fZero x n ∧
    (m ≠ 0 → fSqrtV v x (.fin true m e) = fCanon x ∧ fLog2V v x (.fin true m e) = fCanon x ∧ fRsqV v x (.fin true m e) = fCanon x) ∧
    fLog2V v x (.fin n 0 e) = fInf x true ∧ fRsqV v x (.fin n 0 e) = fInf x n ∧ fExp2V v x (.inf true) = fZero x false ∧
    fExp2V v x (.inf false) = fInf x false ∧
    (v.nan = false → fAddV v x (.nan n k) (.fin p m e) = fCanon x ∧ fAddV v x (.fin p m e) (.nan n k) = fCanon x) ∧
    (let quiet := fSign x n + x.top * 2 ^ x.f + (2 ^ (x.f - 1) ||| (k >>> (52 - x.f)))
     let given := if v.nan = true then quiet else fCanon x
     let notNan (a : FV) : Prop := ∀ j i, a ≠ .nan j i
     (∀ b, fAddV v x (.nan n k) b = given ∧ fMulV v x (.nan n k) b = given ∧ fDivV v x (.nan n k) b = given) ∧
     (∀ a, notNan a → fAddV v x a (.nan n k) = given ∧ fMulV v x a (.nan n k) = given ∧ fDivV v x a (.nan n k) = given) ∧
     fSqrtV v x (.nan n k) = given ∧ fLog2V v x (.nan n k) = given ∧ fRsqV v x (.nan n k) = given ∧ fExp2V v x (.nan n k) = given) ∧
    (let largest := fSign x n + (x.top - 1) * 2 ^ x.f + (2 ^ x.f - 1)
     fOver x 0 n = fInf x n ∧ fOver x 1 n = largest ∧ fOver x 2 n = (if n = true then fInf x n else largest) ∧
     fOver x 3 n = (if n = true then largest else fInf x n))

/-- R81, R85, R86: a value of a format, kept subnormals included, is its own rounding in every mode; rounding toward
zero gives a finite value of the same sign, no greater in magnitude than the exact one. -/
def Obligations.FloatRounding : Prop :=
  (∀ (t : BitVec 3) (v : FEnv) (b : Nat) (n : Bool) (m : Nat) (e : Int), isFloatT t = true → v.sub = 0 →
    b < 2 ^ widthT t → fUnpack (fmtOf t.toNat) b = .fin n m e → fRound v (fmtOf t.toNat) n m e false = b) ∧
  (∀ (t : BitVec 3) (v : FEnv) (n : Bool) (m : Nat) (e : Int), isFloatT t = true → v.rnd = 1 → m ≠ 0 →
    ∃ k f, fUnpack (fmtOf t.toNat) (fRound v (fmtOf t.toNat) n m e false) = .fin n k f ∧
      k * 2 ^ (f - min e f).toNat ≤ m * 2 ^ (e - min e f).toNat)

/-! ## Tiles and pipes -/

/-- R208, R209: TRROW and TRCOL land the moved elements, widened, and zero in the other lanes; TWROW lands bytes at
issue+3, which change the elements of its part and no other. -/
def Obligations.TileAccess : Prop :=
  (∀ (sl : VSlot) (g : BitVec 4) (d t : BitVec 5) (ix : BitVec 8) (y : BitVec 3) (s : State),
    let w := widthT y
    let lw := if w = 64 then 64 else 32
    let tile := (tileOf (curCore s) t.toNat).bytes
    let elem (f : Nat) : Nat := widenElem (envOf (curCtx s).fmt 0) y (tile.toNat / 2 ^ (w * f) % 2 ^ w)
    let n := if w = 64 then 64 else 128
    let rows := if w = 64 then 32 else if w = 32 then 64 else 128
    let col (r : Nat) : Nat :=
      if w = 8 then 128 * (r + if 128 ≤ ix.toNat then 128 else 0) + ix.toNat % 128 else 128 * r + ix.toNat
    LandsLanes (.trrow sl g d t ix y) sl s 3 d lw (fun e => if e < n then elem (n * ix.toNat + e) else 0) ∧
    LandsLanes (.trcol sl g d t ix y) sl s 4 d lw (fun e => if e < rows then elem (col e) else 0)) ∧
  (∀ (sl : VSlot) (g : BitVec 4) (t a : BitVec 5) (ix : BitVec 8) (y : BitVec 3) (s : State),
    let w := widthT y
    let n := if w = 64 then 64 else 128
    let lw := if w = 64 then 64 else 32
    let v := vsrc s sl.slot a
    rowIndexOk y ix = true →
    ∃ off bs, Lands (.twrow sl g t a ix y) sl.slot s 3 (.tile t.toNat off bs (16 * widthT y)) ∧
      ∀ (tile : Tile) (f : Nat), (f + 1) * w ≤ 262144 →
        tileElem (tileWrite tile off bs) w f =
          if n * ix.toNat ≤ f ∧ f < n * ix.toNat + n then
            narrowElem (envOf (curCtx s).fmt 0) y (lane lw v.toNat (f - n * ix.toNat)) % 2 ^ w
          else tileElem tile w f)

/-- R186, R259: PSEND takes an entry and lands its sample at issue+4; PTAKE removes the visible head, PLOOK keeps it;
a bound pipe is 0x23, a full or empty one 0x36 or 0x37 in pinned mode and a wait in elastic mode. V1 waits for V0's
operation of the bundle only where that names the same pipe, which is a reading (log 96, DEDUCED). -/
def Obligations.PipeResults : Prop :=
  (∀ (sl : VSlot) (g : BitVec 4) (d a : BitVec 5) (p : BitVec 6) (s : State),
    let q := 64 * (s.cur.core / 8) + p.toNat
    let y := pipeOf s q
    let dest := vbase sl.slot + d.toNat
    behindV0 s sl.slot (fun i => decide (pipeNamed i = some p)) = false →
    (y.entries.length + y.inflight < 16 → Acts (.psend sl g a p) sl.slot s
      (push (setPipe s q { y with inflight := y.inflight + 1 }) sl.slot 4 (.pipe q (vsrc s sl.slot a)))) ∧
    (∀ v rest, y.bound = none → y.entries = v :: rest →
      Acts (.ptake sl g d p) sl.slot s (push (setPipe s q { y with entries := rest }) sl.slot 2 (.vreg dest v)) ∧
      Lands (.plook sl g d p) sl.slot s 2 (.vreg dest v))) ∧
  (∀ (sl : VSlot) (g : BitVec 4) (d a : BitVec 5) (p : BitVec 6) (s : State),
    let y := pipeOf s (64 * (s.cur.core / 8) + p.toNat)
    let pinned := (curCore s).pinned
    let turn := behindV0 s sl.slot (fun i => decide (pipeNamed i = some p)) = false
    let slotWaits (i : Instr) : Prop := Clear i sl.slot s → exec i s = .next (waits s)
    let take : Instr := .ptake sl g d p
    let look : Instr := .plook sl g d p
    (y.bound ≠ none → Raises take sl.slot s 0x23 (p.setWidth 64) 0 0 ∧ Raises look sl.slot s 0x23 (p.setWidth 64) 0 0) ∧
    (¬turn → slotWaits (.psend sl g a p) ∧ (y.bound = none → slotWaits take ∧ slotWaits look)) ∧
    (turn → y.bound = none → y.entries = [] → pinned = true →
      Raises take sl.slot s 0x37 (p.setWidth 64) 0 0 ∧ Raises look sl.slot s 0x37 (p.setWidth 64) 0 0) ∧
    (turn → y.bound = none → y.entries = [] → pinned = false → slotWaits take ∧ slotWaits look) ∧
    (turn → 16 ≤ y.entries.length + y.inflight → pinned = true → Raises (.psend sl g a p) sl.slot s 0x36 (p.setWidth 64) 0 0) ∧
    (turn → 16 ≤ y.entries.length + y.inflight → pinned = false → slotWaits (.psend sl g a p)))

/-! ## Beats -/

/-- R92, R219-R221, R229, R238: a push beat takes one accumulation step in every active cell, with the operands as
they stand at issue; MPUSHD in the diagonal ones only; MPUSHG with the grown row of its grove, seed 0 and integer
operands being 0x06. That a beat acts on the array at issue is the model's (log 18). -/
def Obligations.PushBeats : Prop :=
  (∀ (g : BitVec 4) (a b : BitVec 5) (k : BitVec 7) (x y : BitVec 1) (m : BitVec 2) (s : State), MasksLegal s →
    let c := curCore s
    let f := (curCtx s).fmt
    let ts := waitBit x a ++ waitBit y b
    let eight := 2 ≤ fmtAtype f
    let tileA := (tileOf c a.toNat).bytes
    let tileB := (tileOf c b.toNat).bytes
    let opA (i : Nat) : List Nat :=
      if eight then [0, 1].map fun h => tileElem tileA 8 (if m = 1 then (2 * k.toNat + h) * 128 + i else i * 256 + 2 * k.toNat + h)
      else [tileElem tileA 16 (if m = 1 then k.toNat * 128 + i else i * 128 + k.toNat)]
    let opB (j : Nat) : List Nat :=
      if eight then [0, 1].map fun h => tileElem tileB 8 ((2 * k.toNat + h) * 128 + j) else [tileElem tileB 16 (k.toNat * 128 + j)]
    let pushes (i : Instr) (acts : Nat → Nat → Bool) : Prop := Clear i .M s → TagsPass s ts →
      ∃ t, exec i s = .next t ∧ t.cur.out = .issued ∧ TagsTaken s t ts ∧
        (ctxOf t s.cur.core s.cur.ctx).beatEnd = max (curCtx s).beatEnd (c.cyc + 256) ∧
        CellsBecome s t fun r j z w =>
          if r < c.rows ∧ j < c.cols ∧ acts r j = true then pushCell f (fmtAtype f) (fmtBtype f) z w (opA r) (opB j) else (z, w)
    pushes (.mpush g a b k x y m) (fun _ _ => true) ∧ pushes (.mpushd g a b k x y m) (fun r j => r == j)) ∧
  (∀ (g : BitVec 4) (a : BitVec 5) (n : BitVec 2) (k : BitVec 7) (x : BitVec 1) (m : BitVec 2) (s : State), MasksLegal s →
    let i : Instr := .mpushg g a n k x m
    let c := curCore s
    let f := (curCtx s).fmt
    let ts := waitBit x a
    let slot := groveOf c n.toNat
    let tileA := (tileOf c a.toNat).bytes
    let opA (r : Nat) : Nat := tileElem tileA 16 (if m = 1 then k.toNat * 128 + r else r * 128 + k.toNat)
    let opB (j : Nat) : Nat := growElem (basisRow slot.seed (rankOfCode slot.rank) k.toNat) fun l => coefElem slot.coef l j
    let ok := slot.seed ≠ 0 ∧ fmtAtype f < 2
    (ok → Clear i .M s → TagsPass s ts →
      ∃ t, exec i s = .next t ∧ t.cur.out = .issued ∧ TagsTaken s t ts ∧
        (ctxOf t s.cur.core s.cur.ctx).beatEnd = max (curCtx s).beatEnd (c.cyc + 256) ∧
        CellsBecome s t fun r j z w =>
          if r < c.rows ∧ j < c.cols then pushCell f (fmtAtype f) 0 z w [opA r] [opB j] else (z, w)) ∧
    (¬ok → ¬TagWaits s ts → RaisesOperand i .M s))

/-- R91, R218, R221, R222: MACC, MCLR, MMASK and MSHIFT act on the array at issue; MDRAIN puts the containers of an
active row in flight to its tile. That a beat acts on the array at issue is the model's (log 18). -/
def Obligations.OtherBeats : Prop :=
  (∀ (g : BitVec 4) (a : BitVec 5) (k r q : BitVec 7) (x : BitVec 1) (s : State), MasksLegal s →
    let c := curCore s
    let f := (curCtx s).fmt
    let tall := fmtAcc f = 1 ∨ fmtAcc f = 2
    let row := if tall then k.toNat else k.toNat % 64
    let elem (j : Nat) : Nat := tileElem (tileOf c a.toNat).bytes (if tall then 16 else 32) (row * 128 + j)
    let beats (i : Instr) (ts : List Nat) (rows cols : Nat) (cell : Nat → Nat → Nat → Bool → Nat × Bool) : Prop :=
      Clear i .M s → TagsPass s ts →
      ∃ t, exec i s = .next t ∧ t.cur.out = .issued ∧ TagsTaken s t ts ∧
        (ctxOf t s.cur.core s.cur.ctx).beatEnd = max (curCtx s).beatEnd (c.cyc + 256) ∧
        (coreOf t s.cur.core).rows = rows ∧ (coreOf t s.cur.core).cols = cols ∧ CellsBecome s t cell
    beats (.macc g a k x) (waitBit x a) c.rows c.cols
      (fun i j z w => if i = k.toNat ∧ i < c.rows ∧ j < c.cols then maccCell f z w (elem j) else (z, w)) ∧
    beats (.mclr g) [] c.rows c.cols (fun _ _ _ _ => (0, false)) ∧
    beats (.mmask g r q) [] (r.toNat + 1) (q.toNat + 1) (fun _ _ z w => (z, w)) ∧
    beats (.mshift g) [] c.rows c.cols (fun _ _ z w => (z, w))) ∧
  (∀ (g : BitVec 4) (t : BitVec 5) (k : BitVec 7) (m : BitVec 2) (s : State), Clear (.mdrain g t k m) .M s →
    let c := curCore s
    let f := (curCtx s).fmt
    let val (j : Nat) : Word32 := BitVec.ofNat 32 (fromContainer (envOf f 0) (fmtAcc f) (accCell c k.toNat j))
    let row := if fmtAcc f = 1 ∨ fmtAcc f = 2 then k.toNat else k.toNat % 64
    ∃ u, exec (.mdrain g t k m) s = .next u ∧ u.cur.out = .issued ∧
      (ctxOf u s.cur.core s.cur.ctx).beatEnd = max (curCtx s).beatEnd (c.cyc + 256) ∧
      (coreOf u s.cur.core).acc = c.acc ∧ (coreOf u s.cur.core).wrap = c.wrap ∧
      (c.rows ≤ k.toNat → (coreOf u s.cur.core).pend = c.pend) ∧
      (k.toNat < c.rows → ∃ wrapped poison : Bool,
        (wrapped = true ↔ ∃ j < 128, wrapCell c k.toNat j = true) ∧
        (poison = true ↔ ∃ j < 128, Place.acc (128 * k.toNat + j) ∈ c.poison) ∧
        (coreOf u s.cur.core).pend = c.pend ++ [{ inFlightFrom s .M 0 (130 + k.toNat)
          (.drain t.toNat row (BitVec.ofNat 2 (fmtAcc f)) m c.cols (k == 0) ((List.range 128).map val) wrapped f) with
          poison := poison }]))

/-- R232, R237, R239, R241, R242: MGLOAD lands a legal record in a grove slot at issue+4; MSRCH and MSPROJ queue a job
behind the searcher's last one with what it samples at issue; an illegal head or seed 0 is 0x06. -/
def Obligations.GroveBeats : Prop :=
  (∀ (g : BitVec 4) (t : BitVec 5) (n : BitVec 2) (x : BitVec 1) (s : State), Clear (.mgload g t n x) .M s →
    let i : Instr := .mgload g t n x
    let r := (tileOf (curCore s) t.toNat).bytes
    let seed := r.extractLsb' 0 64
    let rank := r.extractLsb' 64 2
    let ts := waitBit x t
    let ok := seed ≠ 0 ∧ r.extractLsb' 66 1982 = 0
    (ok → TagsPass s ts → ∃ u coef, exec i s = .next u ∧ u.cur.out = .issued ∧ TagsTaken s u ts ∧
      (coreOf u s.cur.core).pend = (curCore s).pend ++ [inFlightFrom s .M 0 4 (.grove n.toNat seed rank coef)] ∧
      ∀ j < 32, ∀ c < 128, coefElem coef j c =
        if j < 4 * 2 ^ rank.toNat then r.toNat / 2 ^ (2048 * (j + 1) + 16 * c) % 2 ^ 16 else 0) ∧
    (¬ok → ¬TagWaits s ts → exec i s = .next (encodingFault s .M 0x06 (encode i)))) ∧
  (∀ (g : BitVec 4) (t d : BitVec 5) (n : BitVec 2) (k e : BitVec 7) (x : BitVec 1) (s : State),
    let c := curCore s
    let start := max (c.cyc + 1) ((c.jobs.getLast?.map Job.finish).getD 0)
    let ts := waitBit x t
    let job (n count len : Nat) (dest : Option Nat) : Job :=
      { ctx := s.cur.ctx, handle := handleOf s.cur.core s.cur.ctx (curCtx s).epoch, pos := s.cur.pos, bundle := s.cur.addr,
        start := start, finish := start + len, target := (tileOf c t.toNat).bytes, seed := (groveOf c n).seed,
        rank := (groveOf c n).rank, count := count, dest := dest }
    let queues (i : Instr) (n count len : Nat) (dest : Option Nat) : Prop :=
      ((groveOf c n).seed ≠ 0 → Clear i .M s → TagsPass s ts →
        ∃ u, exec i s = .next u ∧ u.cur.out = .issued ∧ TagsTaken s u ts ∧
          (coreOf u s.cur.core).jobs = c.jobs ++ [job n count len dest] ∧
          (ctxOf u s.cur.core s.cur.ctx).beatEnd = max (curCtx s).beatEnd (start + len)) ∧
      ((groveOf c n).seed = 0 → ¬TagWaits s ts → RaisesOperand i .M s)
    queues (.msrch g t n k x) n.toNat (k.toNat + 1) (256 * (k.toNat + 1)) none ∧
    queues (.msproj g t d e x) e.toNat 0 256 (some d.toNat))

/-- R213, R214: a beat with a wait bit whose tile fails the check is 0x52 in pinned mode, the A tile's before the B
tile's; in elastic mode it waits while the tile is filling, and what it samples counts only when it issues. That the
record names the A tile where both tiles fail is the model's choice (log 109, DESIGN CHOICE). -/
def Obligations.WaitBitFaults : Prop :=
  ∀ (g : BitVec 4) (a b : BitVec 5) (n : BitVec 2) (k e : BitVec 7) (y : BitVec 1) (m : BitVec 2) (s : State),
    let t := tileOf (curCore s) a.toNat
    let u := tileOf (curCore s) b.toNat
    let detail (n : BitVec 5) (t : TileReg) : Word :=
      BitVec.ofNat 64 (n.toNat + 2 ^ 8 * t.tag.toNat + 2 ^ 16 * t.seq.toNat + 2 ^ 24 * t.exp.toNat)
    let d := detail a t
    let passes (t : TileReg) : Prop := t.tag = 2 ∧ t.seq = t.exp + 1
    let fails := ¬passes t
    let lateB (x : BitVec 1) (i : Instr) : Prop :=
      ((curCore s).pinned = true → x = 0 ∨ passes t → ¬passes u → Raises i .M s 0x52 (detail b u) 0 0) ∧
      ((curCore s).pinned = false → u.tag = 1 → Clear i .M s → exec i s = .next (waits s))
    let late (i : Instr) : Prop :=
      ((curCore s).pinned = true → fails → Raises i .M s 0x52 d 0 0) ∧
      ((curCore s).pinned = false → t.tag = 1 → Clear i .M s → exec i s = .next (waits s))
    let sampled (ok : Prop) (i : Instr) : Prop :=
      ((curCore s).pinned = true → ok → fails → Raises i .M s 0x52 d 0 0) ∧
      ((curCore s).pinned = false → t.tag = 1 → Clear i .M s → exec i s = .next (waits s))
    let grown (j : Nat) : Prop := (groveOf (curCore s) j).seed ≠ 0
    late (.mpush g a b k 1 y m) ∧ late (.mpushd g a b k 1 y m) ∧
    (∀ x, lateB x (.mpush g a b k x 1 m) ∧ lateB x (.mpushd g a b k x 1 m)) ∧ late (.macc g a k 1) ∧
    sampled (grown n.toNat ∧ fmtAtype (curCtx s).fmt < 2) (.mpushg g a n k 1 m) ∧
    sampled (t.bytes.extractLsb' 0 64 ≠ 0 ∧ t.bytes.extractLsb' 66 1982 = 0) (.mgload g a n 1) ∧
    sampled (grown n.toNat) (.msrch g a n k 1) ∧ sampled (grown e.toNat) (.msproj g a b e 1)

/-! ## Scratchpad accesses -/

/-- R210, R246, R249-R256: each access in the own scratchpad or a peer's is put in flight with the operands of issue;
an elastic TLROW or ATOM to a peer first notes its request and waits, and issues when the step of the peer's port in
which it would act is free and nothing of its context would be overtaken: that the release is timed so is a reading
(log 21, DEDUCED). A byte that a store has still to write raises its 0x34 at that release, in debug pending-bit mode
(R257). AUPD and AUPDS step an address register. -/
def Obligations.ScratchpadAccesses : Prop :=
  (∀ (sl : CSlot) (g : BitVec 4) (d a : BitVec 5) (w : BitVec 2) (o : BitVec 9) (s : State),
    let c := curCtx s
    let n := 2 ^ w.toNat
    let x := sregOf c a.toNat + o.signExtend 64 * BitVec.ofNat 64 n
    let y := sregOf c a.toNat + o.signExtend 64 * 512
    (AddressLegal s x n → BankFree s x →
      (NoPendingStore s x n → c.lqs.length < 32 → PutsAccess (.lda sl g a w o) sl.slot s
        (accessTo s sl.slot x (.loadS s.seq n)) (c.lqs ++ [{ id := s.seq }]) c.lqv) ∧
      PutsAccess (.st sl g d a w o) sl.slot s
        (accessTo s sl.slot x (.store ((List.range n).map fun i => (sregOf c d.toNat).extractLsb' (8 * i) 8))) c.lqs c.lqv) ∧
    (AddressLegal s y 512 → BankFree s y →
      (NoPendingStore s y 512 → c.lqv.length < 16 →
        PutsAccess (.vlda sl g a o) sl.slot s (accessTo s sl.slot y (.loadV s.seq)) c.lqs (c.lqv ++ [{ id := s.seq }])) ∧
      PutsAccess (.vst sl g d a o) sl.slot s
        (accessTo s sl.slot y (.store ((List.range 512).map fun i => (vregOf c d.toNat).extractLsb' (8 * i) 8))) c.lqs c.lqv)) ∧
  (∀ (sl : CSlot) (g : BitVec 4) (d t a b : BitVec 5) (n : BitVec 8) (o : BitVec 3) (u : BitVec 1) (w : BitVec 2) (s : State),
    let c := curCtx s
    let x := sregOf c a.toNat
    let k := 2 ^ w.toNat
    let timed := IsLocal s x ∨ (curCore s).pinned = true
    let line := (tileOf (curCore s) t.toNat).bytes
    (AddressLegal s x 128 → BankFree s x →
      (timed → NoPendingStore s x 128 →
        PutsAccess (.tlrow sl g t a n) sl.slot s (accessTo s sl.slot x (.tileLoad t.toNat n.toNat)) c.lqs c.lqv) ∧
      PutsAccess (.tsrow sl g t a n) sl.slot s
        (accessTo s sl.slot x (.store ((List.range 128).map fun i => line.extractLsb' (8 * (128 * n.toNat + i)) 8))) c.lqs c.lqv) ∧
    (AddressLegal s x k → BankFree s x → timed → NoPendingStore s x k →
      PutsAccess (.atom sl g d a b o u w) sl.slot s
        (accessTo s sl.slot x (.atom o (u == 1) k (sregOf c b.toNat) d.toNat)) c.lqs c.lqv)) ∧
  (∀ (sl : CSlot) (g : BitVec 4) (d t a b : BitVec 5) (n : BitVec 8) (o : BitVec 3) (u : BitVec 1) (w : BitVec 2) (s : State),
    let x := sregOf (curCtx s) a.toNat
    let mine (r : Access) : Prop := isRequest r = true ∧ r.ctx = s.cur.ctx ∧ r.slot = sl.slot.idx
    let same (r : Access) : Prop := r.pos = s.cur.pos ∧ r.target = 8 * (s.cur.core / 8) + (x.extractLsb' 19 3).toNat ∧
      r.off = (x.extractLsb' 0 19).toNat
    let step := releaseStep s
    let inOrder (r e : Access) : Prop := e.ctx = r.ctx → e.target = r.target → e.seq ≠ r.seq →
      (∃ h ≤ step, e.due = .step h) ∨ ((∀ h, e.due ≠ .step h) ∧ 8 * r.pos + r.slot < 8 * e.pos + e.slot)
    let free (r : Access) : Prop := (∀ e ∈ (curCore s).accs, inOrder r e) ∧
      ∀ v ∈ (coreOf s r.target).resv, ¬(v.peer = true ∧ v.bank = bankOf r.off ∧ v.step = step)
    let asks (i : Instr) (size lat : Nat) (kind : AccKind) : Prop :=
      AddressLegal s x size → ¬IsLocal s x → (curCore s).pinned = false → Clear i sl.slot s →
        ((∀ r ∈ (curCore s).accs, mine r → ¬same r) →
          ∃ t, exec i s = .next t ∧ t.cur.out = .waits ∧ accessTo s sl.slot x kind ∈ (coreOf t s.cur.core).accs ∧
            ∀ r ∈ (coreOf t s.cur.core).accs, mine r → r = accessTo s sl.slot x kind) ∧
        (∀ r ∈ (curCore s).accs, mine r → same r → (∀ q ∈ (curCore s).accs, mine q → q = r) →
          (r.land = none ∨ ¬free r → exec i s = .next (waits s)) ∧
          (r.land ≠ none → free r → NoPendingStore s x size → ∃ t y, exec i s = .next t ∧ t.cur.out = .issued ∧ y ∈ (coreOf t s.cur.core).accs ∧
            y = { accessTo s sl.slot x kind with due := .step step, late := false, land := some ((curCore s).cyc + lat) } ∧
            (∃ v ∈ (coreOf t y.target).resv, v.peer = true ∧ v.bank = bankOf y.off ∧ v.step = step) ∧
            ∀ q ∈ (coreOf t s.cur.core).accs, ¬mine q) ∧
          (∀ q, r.land ≠ none → free r → (curCore s).debug = true → (curCore s).accs = [r, q] → isWrite q = true →
            isRequest q = false → q.target = r.target → q.off < r.off + size → r.off < q.off + accBytes q →
              Raises i sl.slot s 0x34 (BitVec.ofNat 64 (7 + 2 ^ 8 * (max q.off r.off + 2 ^ 19 * (x.extractLsb' 19 3).toNat))) 0 0))
    asks (.tlrow sl g t a n) 128 8 (.tileLoad t.toNat n.toNat) ∧
    asks (.atom sl g d a b o u w) (2 ^ w.toNat) 7 (.atom o (u == 1) (2 ^ w.toNat) (sregOf (curCtx s) b.toNat) d.toNat)) ∧
  (∀ (sl : CSlot) (g : BitVec 4) (d a : BitVec 5) (i : BitVec 11) (s : State),
    let x := sregOf (curCtx s) d.toNat
    Lands (.aupd sl g d i) sl.slot s 1 (.sreg d.toNat (x + i.signExtend 64)) ∧
    Lands (.aupds sl g d a) sl.slot s 1 (.sreg d.toNat (x + sregOf (curCtx s) a.toNat)))

/-- R247, R249, R252, R254, R255, R257, R281, R342, R349: the checks of a scratchpad address in their order, those of
MWAIT too: high bits 0x33, alignment 0x06, a byte outside the gang's ranges 0x33; then a byte that a store in flight
has still to write 0x34, in debug pending-bit mode (for an elastic TLROW or ATOM to a peer at its release, as the
accesses state); then, for every access, a bank cycle that is taken 0x31; then a full queue 0x35; for MWAIT a poisoned
word 0x7D. That 0x34 comes after 0x33 and 0x06 and before 0x31 and 0x35, and for MWAIT before 0x7D, is the model's
choice (log 83, DESIGN CHOICE); that 0x31 comes before 0x35, and which step its detail names, is a reading (log 26,
DEDUCED). -/
def Obligations.ScratchpadFaults : Prop :=
  (∀ (sl : CSlot) (g : BitVec 4) (d t a b : BitVec 5) (n : BitVec 8) (o : BitVec 3) (u : BitVec 1) (w : BitVec 2) (f : BitVec 9)
    (s : State),
    let c := curCtx s
    let k := 2 ^ w.toNat
    let base := sregOf c a.toNat
    let refuses (sl : Slot) (i : Instr) (x : Word) (size : Nat) : Prop :=
      (2 ^ 22 ≤ x.toNat → Raises i sl s 0x33 x 0 0) ∧
      (x.toNat < 2 ^ 22 → x.toNat % size ≠ 0 → RaisesOperand i sl s) ∧
      (x.toNat < 2 ^ 22 → x.toNat % size = 0 → ¬AddressLegal s x size → Raises i sl s 0x33 x 0 0)
    let bad (i : Instr) (x : Word) (size : Nat) : Prop := refuses sl.slot i x size
    refuses .S (.mwait g a b) base 8 ∧
    bad (.lda sl g a w f) (base + f.signExtend 64 * BitVec.ofNat 64 k) k ∧ bad (.vlda sl g a f) (base + f.signExtend 64 * 512) 512 ∧
    bad (.st sl g d a w f) (base + f.signExtend 64 * BitVec.ofNat 64 k) k ∧
    bad (.vst sl g d a f) (base + f.signExtend 64 * 512) 512 ∧ bad (.tlrow sl g t a n) base 128 ∧
    bad (.tsrow sl g t a n) base 128 ∧ bad (.atom sl g d a b o u w) base k) ∧
  (∀ (sl : CSlot) (g : BitVec 4) (d a b : BitVec 5) (w : BitVec 2) (o : BitVec 9) (m : BitVec 8) (op : BitVec 3) (u : BitVec 1)
    (s : State),
    let c := curCtx s
    let n := 2 ^ w.toNat
    let x := sregOf c a.toNat + o.signExtend 64 * BitVec.ofNat 64 n
    let y := sregOf c a.toNat + o.signExtend 64 * 512
    let core (z : Word) : Nat := 8 * (s.cur.core / 8) + (z.extractLsb' 19 3).toNat
    (AddressLegal s x n → NoPendingStore s x n → BankFree s x → 32 ≤ c.lqs.length →
      Raises (.lda sl g a w o) sl.slot s 0x35 (BitVec.ofNat 64 (256 * c.lqs.length)) 0 0) ∧
    (AddressLegal s y 512 → NoPendingStore s y 512 → BankFree s y → 16 ≤ c.lqv.length →
      Raises (.vlda sl g a o) sl.slot s 0x35 (BitVec.ofNat 64 (1 + 256 * c.lqv.length)) 0 0) ∧
    (∀ z, ¬BankFree s z → ∃ r ∈ (coreOf s (core z)).resv,
      let taken (i : Instr) : Prop := Raises i sl.slot s 0x31
        (BitVec.ofNat 64 (core z + 2 ^ 8 * (z.extractLsb' 9 4).toNat + (if core z = s.cur.core then 0 else 2 ^ 12) +
          2 ^ 24 * (r.step % 2 ^ 40)))
        r.holder (BitVec.ofNat 64 (r.bundle % 2 ^ 18 + 2 ^ 18 * r.slot))
      (z = x → AddressLegal s z n → taken (.st sl g d a w o) ∧ (NoPendingStore s z n → taken (.lda sl g a w o))) ∧
      (z = y → AddressLegal s z 512 →
        taken (.vst sl g d a o) ∧ (NoPendingStore s z 512 → taken (.vlda sl g a o))) ∧
      (z = sregOf c a.toNat → AddressLegal s z 128 → taken (.tsrow sl g d a m) ∧
        (NoPendingStore s z 128 → taken (.tlrow sl g d a m))) ∧
      (z = sregOf c a.toNat → AddressLegal s z n → NoPendingStore s z n → taken (.atom sl g d a b op u w)))) ∧
  (∀ (sl : CSlot) (g : BitVec 4) (a b t : BitVec 5) (w : BitVec 2) (f : BitVec 9) (n : BitVec 8) (o : BitVec 3) (u : BitVec 1)
    (s : State) (r : Access),
    let base := sregOf (curCtx s) a.toNat
    let x := base + f.signExtend 64 * BitVec.ofNat 64 (2 ^ w.toNat)
    let y := base + f.signExtend 64 * 512
    let target (z : Word) : Nat := 8 * (s.cur.core / 8) + (z.extractLsb' 19 3).toNat
    let off (z : Word) : Nat := (z.extractLsb' 0 19).toNat
    let pending (sl : Slot) (i : Instr) (z : Word) (k : Nat) : Prop :=
      AddressLegal s z k → r.target = target z → r.off < off z + k → off z < r.off + accBytes r →
        Raises i sl s 0x34 (BitVec.ofNat 64 (7 + 2 ^ 8 * (max r.off (off z) + 2 ^ 19 * (z.extractLsb' 19 3).toNat))) 0 0
    ((curCore s).debug = true → (curCore s).accs = [r] → isWrite r = true → isRequest r = false →
      pending sl.slot (.lda sl g a w f) x (2 ^ w.toNat) ∧ pending sl.slot (.vlda sl g a f) y 512 ∧
      pending .S (.mwait g a b) base 8 ∧
      (IsLocal s base ∨ (curCore s).pinned = true → pending sl.slot (.tlrow sl g t a n) base 128 ∧
        pending sl.slot (.atom sl g t a b o u w) base (2 ^ w.toNat))) ∧
    (AddressLegal s base 8 → NoPendingStore s base 8 → Place.spad (off base / 8) ∈ (coreOf s (target base)).poison →
      Raises (.mwait g a b) .S s 0x7D 7 (BitVec.ofNat 64 (off base + 2 ^ 19 * (base.extractLsb' 19 3).toNat)) 0))

/-! ## Ferry commands -/

/-- R73, R269, R273, R274, R278, R285-R287, R301, R307, R310, R314, R315: each form hands its command, with its
operands as read at issue, to the ferry of its core; an address in a reserved space is 0x06, ahead of the 0x41 of a
full buffer, which is the model's order (log 79, DESIGN CHOICE). That C1's command waits in its slot until C0's of the
same bundle has gone is a reading of R269 (log 96, DEDUCED). -/
def Obligations.FerryCommands : Prop :=
  (∀ (sl : CSlot) (g : BitVec 4) (t a b e : BitVec 5) (x : BitVec 1) (s : State),
    let r (n : BitVec 5) : Word := sregOf (curCtx s) n.toNat
    let room := (ferryOf s (4 * (s.cur.core / 8) + s.cur.core % 8 / 2)).cmds.length < 64
    let okA := (r a).toNat < 2 ^ 62
    let okB := (r b).toNat < 2 ^ 62
    let flag := x == 1
    (room → okA → okB →
      GivesCommand (.fcopy sl g t a b e) sl s .copy (r t) (r a) (r b) e.toNat false ∧
      GivesCommand (.fquant sl g t a b e) sl s .quant (r t) (r a) (r b) e.toNat false ∧
      GivesCommand (.fdedup sl g t a b e x) sl s .dedup (r t) (r a) (r b) e.toNat flag ∧
      GivesCommand (.falloc sl g t a b e x) sl s .alloc (r t) (r a) (r b) e.toNat flag ∧
      GivesCommand (.ffree sl g t a b x) sl s .free (r t) (r a) (r b) 0 flag ∧
      GivesCommand (.fsum sl g t a b e) sl s .sum (r t) (r a) (r b) e.toNat false) ∧
    (room → okA →
      GivesCommand (.fshape sl g a e) sl s .shape 0 (r a) 0 e.toNat false ∧
      GivesCommand (.fstamp sl g a b) sl s .stamp 0 (r a) (r b) 0 false ∧
      GivesCommand (.fatom sl g t a b e x) sl s .atom (r t) (r a) (r b) e.toNat flag ∧
      GivesCommand (.fmtag sl g t a b) sl s .mtag (r t) (r a) (r b) 0 false ∧
      GivesCommand (.fkvmap sl g t a b x) sl s .kvmap (r t) (r a) (r b) 0 flag ∧
      GivesCommand (.fcard sl g t a) sl s .card (r t) (r a) 0 0 false)) ∧
  (∀ (sl : CSlot) (g : BitVec 4) (t a b e : BitVec 5) (x : BitVec 1) (s : State),
    let r (n : BitVec 5) : Word := sregOf (curCtx s) n.toNat
    let f := 4 * (s.cur.core / 8) + s.cur.core % 8 / 2
    let full := 64 ≤ (ferryOf s f).cmds.length
    let okA := (r a).toNat < 2 ^ 62
    let okB := (r b).toNat < 2 ^ 62
    let turn := behindC0 s sl.slot givesCmd = false
    let turned (i : Instr) (ok : Prop) : Prop :=
      (¬turn → Clear i sl.slot s → exec i s = .next (waits s)) ∧
      (turn → ¬ok → RaisesOperand i sl.slot s) ∧
      (turn → ok → full → ∃ d1, Raises i sl.slot s 0x41 (BitVec.ofNat 64 (f % 4)) d1 0 ∧ d1.extractLsb' 0 7 = 0)
    turned (.fcopy sl g t a b e) (okA ∧ okB) ∧ turned (.fquant sl g t a b e) (okA ∧ okB) ∧
    turned (.fdedup sl g t a b e x) (okA ∧ okB) ∧ turned (.falloc sl g t a b e x) (okA ∧ okB) ∧
    turned (.ffree sl g t a b x) (okA ∧ okB) ∧ turned (.fsum sl g t a b e) (okA ∧ okB) ∧ turned (.fshape sl g a e) okA ∧
    turned (.fstamp sl g a b) okA ∧ turned (.fatom sl g t a b e x) okA ∧ turned (.fmtag sl g t a b) okA ∧
    turned (.fkvmap sl g t a b x) okA ∧ turned (.fcard sl g t a) okA)

/-! ## Events -/

/-- R54, R116-R118, R125, R130, R148, R154, R323: an empty bundle moves every slot past it and its header acts; a
context whose count would exceed its bound takes 0x53 there instead; an idle core hands its sequencer to the ready
context of highest priority, then of the next number after the one that last issued, at once or with the relock that
its mode costs, counted from the step in which it became ready. That the relock counts from the step in which an end
or a reset took the core's context from it, if that is later, is the model's reading (log 90, DEDUCED from R116, R125
and R130). -/
def Obligations.SequencerEvents : Prop :=
  (∀ (s : State) (k x a : Nat) (h : Word32), StandsAt s k x a h →
    let c := ctxOf s k x
    (hMask h = 0 → h.toNat < 2 ^ 10 → c.pauseCount < c.pauseBound.toNat →
      (hE h = true → c.loops.head?.map LoopEntry.stop = some a) → (hY h = true → isDirty (coreOf s k) x = false) →
      ∃ t, exec (.emptyBundle k) s = .next t ∧ (ctxOf t k x).npos = c.npos + 1 ∧
        (ctxOf t k x).spos = List.replicate 6 (c.npos + 1) ∧ (ctxOf t k x).win = [] ∧ (ctxOf t k x).seqNext = a + 4 ∧
        (ctxOf t k x).loops = (if hE h = true then (loopEnd a c.loops).1 else c.loops) ∧
        (ctxOf t k x).loopNext = (if hE h = true then (loopEnd a c.loops).2 else none) ∧
        (ctxOf t k x).cycles = c.cycles + 1 ∧ (ctxOf t k x).fault = none) ∧
    (c.pauseBound.toNat ≤ c.pauseCount → isPaused s c = false →
      (∀ key g, c.gang = some key → gangOf s key = some g → g.handler.isSome = true) →
      ∃ t f, exec (.pauseOverdue k) s = .next t ∧ (ctxOf t k x).fault = some f ∧ (ctxOf t k x).life = .stopped ∧
        (f.cause, f.level, f.slots, f.bundle, f.pos) = (0x53, true, 0, a, c.npos) ∧ f.d0 = c.pauseBound.setWidth 64 ∧
        (ctxOf t k x).npos = c.npos ∧ (ctxOf t k x).spos = c.spos)) ∧
  (∀ (s : State) (k : Nat),
    let c := coreOf s k
    let ready (y : Nat) : Prop := y < 8 ∧ (ctxIn c y).life = .ready ∧ isStopping s (ctxIn c y) = false
    let before (y z : Nat) : Prop := (ctxIn c z).prio.toNat < (ctxIn c y).prio.toNat ∨
      ((ctxIn c z).prio = (ctxIn c y).prio ∧ (y + 7 - c.last) % 8 < (z + 7 - c.last) % 8)
    c.issuer = none → c.relock = none →
    ((∀ y, ¬ready y) → exec (.idleCoreChoose k) s = .next s) ∧
    ∀ y, ready y → (∀ z, ready z → z ≠ y → before y z) → ∃ t, exec (.idleCoreChoose k) s = .next t ∧
      if (ctxIn c y).pinCur = c.pinned then (coreOf t k).issuer = some y ∧ (coreOf t k).relock = none
      else (coreOf t k).issuer = none ∧ (coreOf t k).relock = some
        { ctx := y, pinned := (ctxIn c y).pinCur, since := max ((ctxIn c y).readySince.getD s.gauge) c.leftAt,
          step := max ((ctxIn c y).readySince.getD s.gauge) c.leftAt + if (ctxIn c y).pinCur = true then 16 else relockSteps s })

/-- R115, R122-R124, R263: at its start step a gang runs: its start contexts become ready, every epoch counts the
starts of its context since reset, and an idle core issues one of them in that step, in the mode that the context is
in; a spawned context or a handler becomes ready at its step, once no ferry writes the half that it starts in. The
moment at which the epochs count, and the step from which a start's bundles may have been fetched, are the model's
(logs 11, 88). -/
def Obligations.StartEvents : Prop :=
  (∀ (s : State) (key : Nat) (g : Gang), gangOf s key = some g → g.st = .loading → g.start ≤ s.gauge → HeldBy s key g →
    g.evict = false → g.ckpt = false → (∃ e ∈ g.entries, (ctxOf s e.core e.ctx).life = .toStart) →
    ∃ t, exec (.startStep key) s = .next t ∧ gangOf t key = some { g with st := .running } ∧
      ∀ e ∈ g.entries,
        let c := ctxOf s e.core e.ctx
        ctxOf t e.core e.ctx =
          { c with life := if c.life = .toStart then .ready else c.life, epoch := c.starts + 1, starts := c.starts + 1,
                   fetchSince := s.gauge } ∧
        (c.life = .toStart → (coreOf s e.core).issuer = none → (coreOf s e.core).relock = none →
          ∃ y, (coreOf t e.core).issuer = some y ∧ (ctxOf t e.core y).life = .ready ∧
            (coreOf t e.core).pinned = (ctxOf t e.core y).pinCur)) ∧
  (∀ (s : State) (k x n : Nat) (h : Bool),
    let c := ctxOf s k x
    let i : Instr := if h = true then .handlerStart k x else .spawnStart k x
    let free := regionOf c.seqNext = 2 ∨ halfWritten s k (decide (regionOf c.seqNext = 1)) = false
    c.life = .starting n h → isStopping s c = false →
      (n ≤ s.gauge → free → exec i s = .next (setCtx s k x { c with life := .ready, fetchSince := s.gauge })) ∧
      (s.gauge < n ∨ ¬free → exec i s = .next s))

/-- R106, R111-R115, R119, R127, R317, R361, R378: with no record to consume, the decision admits the eligible head of
highest effective priority, ties going round after the stream admitted last, a reserving head among them (log 69,
DEDUCED), and none at crit or before boot has made the device ready; an admitted launch starts at least 16 steps on,
with its contexts held and cleared, and a gang that was evicted comes back with its event bit set. A skipped record, a
card and a refused record are consumed, an unreadable ring stops its stream, and the oldest head that starves becomes
reserving, in the place of a younger one. When records are read and consumed, which head goes first beside a reserving
one, that clearing and loading are done at the decision, and that a readmitted context keeps its saved epoch and its
place the starts counted since are the model's (logs 11, 47, 49, 50, 51, 69, 87); so are the id 0 and status 0 of the
kind-3 record of a stopped stream (log 38, DEDUCED) and the step from which a readmitted context may fetch (log 88,
DESIGN CHOICE). -/
def Obligations.AdmissionEvents : Prop :=
  (∀ s : State, (∀ n < 16, noteHead s n = s ∧ (judge s n = .wait ∨ (judge s n).gang? ≠ none)) →
    let rank (n : Nat) (g : Gang) : Nat := (3 - effPrio s n g) * 16 + (n + 15 - s.lastAdmitted) % 16
    (s.crit = true ∨ s.ready = false ∨ (∀ n < 16, judge s n = .wait) → exec .admissionDecision s = .next s) ∧
    ∀ n g, n < 16 → s.crit = false → s.ready = true → (judge s n).gang? = some g →
      (∀ m h, m < 16 → (judge s m).gang? = some h → m ≠ n → rank n g < rank m h) →
      (∀ l, judge s n = .grants l → (l.gang.entries.map fun e => (e.core, e.ctx)).Nodup →
        ∃ t y, exec .admissionDecision s = .next t ∧ gangOf t s.gangKey = some y ∧
          y = { l.gang with start := y.start } ∧ s.gauge + 16 ≤ y.start ∧ t.gangKey = s.gangKey + 1 ∧ t.lastAdmitted = n ∧
          (streamOf t n).launches = (streamOf s n).launches + 1 ∧ (streamOf t n).head = nextIndex (streamOf s n) ∧
          ∀ i e, l.gang.entries[i]? = some e →
            let c := ctxOf t e.core e.ctx
            c.gang = some s.gangKey ∧ c.entry = i ∧ c.role = e.role ∧ c.life = (if e.role = 0 then .toStart else .idle) ∧
            c.epoch = (ctxOf s e.core e.ctx).epoch ∧ c.starts = (ctxOf s e.core e.ctx).starts ∧ c.seqNext = e.offset ∧ c.prio = l.gang.prio ∧ c.sregs = [] ∧ c.flags = 0 ∧
            c.vregs = [] ∧ c.masks = [] ∧ c.basins = [] ∧ c.fmt = 0 ∧ c.tick = 0 ∧ c.lqs = [] ∧ c.lqv = []) ∧
      (∀ v, judge s n = .readmit v → (v.ctxs.map fun e => (e.1, e.2.1)).Nodup →
        ∃ t, exec .admissionDecision s = .next t ∧ gangOf t v.key = some { v.gang with evict := false, ckpt := false } ∧
          t.lastAdmitted = n ∧ (streamOf t n).out = (streamOf s n).out.tail ∧
          ∀ e ∈ v.ctxs, ctxOf t e.1 e.2.1 =
            { e.2.2 with stEV := true, stallUntil := 0, fetchSince := s.gauge, starts := (ctxOf s e.1 e.2.1).starts })) ∧
  (∀ (s u : State) (n : Nat), n < 16 → (∀ m < n, consumeHead s m = s) → noteHead s n = s →
    (∀ m, n < m → m < 16 → consumeHead u m = u) → s.crit = true ∨ s.ready = false ∨ bestHead u = none →
    let st := streamOf s n
    let past (launch : Bool) : State :=
      advanceHead (if s.reserving = some n then { s with reserving := none, reserveOpen := [], reserveSamples := [] } else s) n launch
    (judge s n = .skip → u = advanceHead s n false → exec .admissionDecision s = .next u) ∧
    (∀ bs, judge s n = .card bs →
      u = { advanceHead s n false with
            cards := s.cards ++ [{ key := s.seq, bytes := bs, stream := n, ring := st.ring, asid := st.asid.toNat, attempt := 0,
                                   lastReset := none, st := .queued }],
            seq := s.seq + 1 } → exec .admissionDecision s = .next u) ∧
    (∀ launch kind id status, judge s n = .consume launch kind id status →
      u = complete (past launch) st.ring.toNat 
        { id := id, kind := kind, status := status, stream := n,
          dep := if launch = true then some (n, st.launches + 1) else none } → exec .admissionDecision s = .next u) ∧
    (judge s n = .stop → u = complete (setStream s n { st with err := true }) st.ring.toNat { id := 0, kind := 3, status := 0, stream := n } →
      exec .admissionDecision s = .next u)) ∧
  (∀ (s : State) (n : Nat) (g : Gang), oldestStarving s = some n → headGang s n = some g →
    (s.reserving = none ∨ ∃ r, s.reserving = some r ∧ r ≠ n ∧ (headGang s r = none ∨ headAge s r < headAge s n)) →
    ∃ t, exec (.headReserving n) s = .next t ∧ OnlyScheduling s t ∧ t.reserving = some n ∧
      (∀ key, key ∈ t.reserveOpen ↔ key ∈ allKeys g ∧ keyFree s key = true) ∧
      ∀ k ∈ coresOf g, mapGet 0 t.reserveSamples k = samplesFree s k)

/-- R127-R130: a waiting card is written into the mailbox of the chosen idle server, then its doorbell; a malformed
one completes with 0x75, one without a server with 0x78 after its error stamp. An acknowledged card completes, after
its stamp, once the server's earlier commands have performed. At its deadline every context of the gang on that core
is reset and restarts, and the card is queued again, or its error stamp and its completion record, both with 0x77, end
it. A completion record goes to the ring that the stream then has. A server's start in the next step, and what becomes
of cards and contexts at a reset, are readings (logs 36, 37, 53, 54, 82). -/
def Obligations.CardEvents : Prop :=
  ∀ (s : State) (key : Nat) (y : Card), cardAtKey s key = some y →
    let ends (u : State) (status : BitVec 7) : State :=
      dropCard (complete u (streamRing s y.stream) { id := cardId y, kind := 2, status := status, stream := y.stream }) y.key
    (∀ u k off (status : BitVec 7), cardStamp y ≠ 0 → locOf (cardStamp y).toNat = .spad k off → off + 8 ≤ 2 ^ 19 →
      (∀ w, Place.spad w ∉ (coreOf u k).poison) →
      (∀ i < 8, mapGet 0 (coreOf (writeCardStamp u y status) k).spad (off + i) =
        BitVec.ofNat 8 ((if i = 7 then (if status = 0 then 0 else 2 ^ 7) + status.toNat else
          ((cardId y).extractLsb' (8 * i) 8).toNat))) ∧ (writeCardStamp u y status).dram = u.dram) ∧
    (cardWaits s y = true →
      (cardBad y = true → exec (.cardDeliver key) s = .next (ends s 0x75)) ∧
      (cardBad y = false → serverExists s (cardClass y) = false →
        exec (.cardDeliver key) s = .next (ends (writeCardStamp s y 0x78) 0x78)) ∧
      (∀ gk g e, cardBad y = false → serverExists s (cardClass y) = true → chooseServer s y = some (gk, e) →
        gangOf s gk = some g → (∀ w, Place.spad w ∉ (coreOf s e.core).poison) → y.bytes.length = 64 →
        let c := ctxOf s e.core e.ctx
        ∃ t, exec (.cardDeliver key) s = .next t ∧
          (∀ i < 64, mapGet 0 (coreOf t e.core).spad (e.mailbox + i) =
            if i = 10 then BitVec.ofNat 8 y.attempt else (y.bytes[i]?).getD 0) ∧
          (∀ i < 8, mapGet 0 (coreOf t e.core).spad (e.mailbox + 64 + i) = (c.delivery + 1).extractLsb' (8 * i) 8) ∧
          (ctxOf t e.core e.ctx).delivery = c.delivery + 1 ∧
          t.cards = s.cards.map (fun z => if z.key = key then
            { y with gang := gk, st := .delivered e.core e.ctx s.gauge (c.delivery + 1) } else z) ∧
          (c.life = .idle → (ctxOf t e.core e.ctx).life = .waking (s.gauge + 1) ∧ (ctxOf t e.core e.ctx).liveHalf = c.liveHalf) ∧
          t.dram = s.dram)) ∧
    (∀ k x before, y.st = .acked k x before →
      (commandsBefore s y k x before = true → exec (.cardComplete key) s = .next s) ∧
      (commandsBefore s y k x before = false → exec (.cardComplete key) s = .next (ends (writeCardStamp s y 0) 0))) ∧
    (∀ k x g st q, y.st = .delivered k x st q → gangOf s y.gang = some g →
      (cardDue s y = false → exec (.cardWatchdog key) s = .next s) ∧
      (cardDue s y = true → HeldBy s y.gang g → ∃ t, exec (.cardWatchdog key) s = .next t ∧
        (y.attempt < cardReplays y → { y with attempt := y.attempt + 1, lastReset := some k, st := .queued } ∈ t.cards) ∧
        (cardReplays y ≤ y.attempt → (∀ z ∈ t.cards, z.key ≠ key) ∧
          ∃ u, u.cards = s.cards ∧ u.rings = s.rings ∧ u.streams = s.streams ∧ u.gauge = s.gauge ∧ t = ends (writeCardStamp u y 0x77) 0x77) ∧
        ∀ e ∈ g.entries, e.core = k →
          let c := ctxOf t k e.ctx
          c.life = .starting (s.gauge + 1) false ∧ c.stWD = true ∧ c.delivery = 0 ∧ c.seqNext = e.offset ∧ c.sregs = [] ∧
          c.lqs = [] ∧ c.lqv = [] ∧ c.fault = none ∧ c.epoch = (ctxOf s k e.ctx).starts + 1 ∧
          ∀ p ∈ (coreOf t k).pend, p.ctx = e.ctx → isRegisterEff p.eff = false))

/-- R121, R124, R125, R134, R340, R343, R352: once quiescent, a fault's record is written; its host becomes the idle
handler that the rule names, with the handle and the record's address, at least 64 steps after the fault, how many
more being a free choice (log 5), or the fault is queued; a record that cannot be written terminates the gang with
0x7C, but for one that canopy has terminated. An ended gang whose work is done leaves its completion record and is
gone, its checkpoints with it. Canopy's termination ends the gang with 0x7E and frees its contexts at once; the record
of a fault that had none yet follows. The termination at the fault, the handler's start step beyond the 64 steps, and
the counts and causes of an ended gang are readings (logs 5, 16, 41, 42, 44). -/
def Obligations.FaultAndGangEvents : Prop :=
  (∀ (s : State) (k x key : Nat) (f : FaultInfo) (g : Gang),
    let c := ctxOf s k x
    recordDue s k x = true → c.fault = some f → c.gang = some key → c.life = .stopped → gangOf s key = some g → HeldBy s key g →
    (∃ e ∈ g.entries, e.core = k ∧ e.ctx = x) → g.st = .running → (∀ o ∈ openRecords s, ¬(o.2.core = k ∧ o.2.ctx = x)) →
    let slot := g.faultarea + BitVec.ofNat 64 (64 * c.entry)
    (∀ h u, chooseHost s g k = some h → dvWrite s g.asid slot (faultBytes s k x { f with queued := false }) = some u →
      ∃ t, exec (.faultRecordWrite k x) s = .next t ∧ t.dram = u.dram ∧
        (ctxOf t k x).fault = some { f with recorded := true, queued := false, host := some (h.core, h.ctx) } ∧
        (let d := ctxOf t h.core h.ctx
         d.life = .starting (max (f.step + 64) (s.gauge + 1) + (draw u).1) true ∧ d.seqNext = g.handler.getD 0 ∧
         d.handlerFor = handleOf k x c.epoch ∧ d.faultrec = slot ∧ d.epoch = (ctxOf s h.core h.ctx).starts + 1 ∧ d.sregs = [])) ∧
    (∀ u, chooseHost s g k = none → (∃ e ∈ g.entries, (ctxOf s e.core e.ctx).life ≠ .stopped) →
      dvWrite s g.asid slot (faultBytes s k x { f with queued := true }) = some u →
      ∃ t y, exec (.faultRecordWrite k x) s = .next t ∧ t.dram = u.dram ∧
        (ctxOf t k x).fault = some { f with recorded := true, queued := true } ∧ gangOf t key = some y ∧
        ∀ i, i ∈ y.queue ↔ i = c.entry ∨ i ∈ g.queue) ∧
    (dvWrite s g.asid slot (faultBytes s k x { f with queued := (chooseHost s g k).isNone }) = none →
      ∃ t y, exec (.faultRecordWrite k x) s = .next t ∧ gangOf t key = some y ∧ y.st = .ending ∧ y.status = 0x7C ∧
        t.outbox.getLast? = some (.recordFailed key) ∧ (ctxOf t k x).gang = none)) ∧
  (∀ (s : State) (k x key : Nat) (o : OpenFault) (g : Gang),
    (openRecords s).find? (fun o => o.2.core = k && o.2.ctx = x) = some (key, o) → gangOf s key = some g →
    let rest : State := setGang s key { g with openFaults := g.openFaults.erase o }
    let written := dvWrite rest g.asid (g.faultarea + BitVec.ofNat 64 (64 * o.entry))
      (faultRecord s o.core o.handle o.nfault o.pending o.info)
    (∀ u, written = some u → exec (.faultRecordWrite k x) s = .next u) ∧
    (written = none → g.st = .ending → ∃ t, exec (.faultRecordWrite k x) s = .next t ∧
      t = { setGang s key { g with openFaults := g.openFaults.erase o, status := if g.status = 0x7E then 0x7E else 0x7C } with
            outbox := s.outbox ++ [.recordFailed key] })) ∧
  (∀ (s : State) (key : Nat) (g : Gang), gangOf s key = some g →
    (g.st = .ending → gangBusy s key g = true → exec (.completionRecordWrite key) s = .next s) ∧
    (g.st = .ending → gangBusy s key g = false →
      let u := complete (occWrite s g g.occEnd) (streamRing s g.stream)
        { id := g.id, kind := 1, status := gangStatus g, faults := g.faults, stream := g.stream, first := g.first,
          dep := some (g.stream, g.id.toNat % 2 ^ 56), admitted := true }
      exec (.completionRecordWrite key) s = .next
        { u with gangs := mapDrop s.gangs key, ckpts := u.ckpts.filter fun z => z.gang ≠ key }) ∧
    (g.st = .running → HeldBy s key g → ∃ t y, exec (.gangTerminate key) s = .next t ∧ gangOf t key = some y ∧
      y.st = .ending ∧ y.status = 0x7E ∧ y.queue = [] ∧
      ∀ e ∈ g.entries, (ctxOf t e.core e.ctx).gang = none ∧ (ctxOf t e.core e.ctx).life = .free ∧
        ∀ f, (ctxOf s e.core e.ctx).fault = some f → f.recorded = false →
          ∃ o ∈ y.openFaults, o.core = e.core ∧ o.ctx = e.ctx ∧ o.info = f))

/-- R119, R363, R364: requests mark the gangs that take them; once such a gang stands still it is saved, leaves its
cores and heads its stream, or its next checkpoint slot is written with the bytes of its address space on this device,
whole with its record, and it goes on. A failed device leaves the routes; a promoted spare that is booted takes its
chip number, and that chip's gangs come back from their last whole slots, their bytes through the tables that
heartwood has set up again (log 100, DEDUCED). That a save is one act and how gangs come back are the model's (logs
25, 51, 52). -/
def Obligations.SaveEvents : Prop :=
  (∀ (s : State) (key : Nat) (g : Gang), gangOf s key = some g → g.st ≠ .ending →
    exec (.evictionRequest key) s = .next (if g.savearea = 0 then s else setGang s key { g with evict := true })) ∧
  (∀ (s : State) (key : Nat) (g : Gang), gangOf s key = some g → g.st = .running →
    (exec (.checkpointRequest key) s = .next (if g.ckarea = 0 ∨ g.ckpt = true ∨ g.evict = true then s
      else setGang s key { g with ckpt := true, ckSince := s.gauge })) ∧
    (g.evict = true → gangStill s key g = false → exec (.evictionSave key) s = .next s) ∧
    (g.evict = true → gangStill s key g = true → HeldBy s key g → ∃ t, exec (.evictionSave key) s = .next t ∧
      gangOf t key = none ∧ (streamOf t g.stream).out = (streamOf s g.stream).out ++ [saveGang s key g] ∧
      (∀ e ∈ g.entries, (ctxOf t e.core e.ctx).gang = none ∧ (ctxOf t e.core e.ctx).life = .free ∧
        (ctxOf t e.core e.ctx).epoch = (ctxOf s e.core e.ctx).epoch ∧
        (ctxOf t e.core e.ctx).starts = (ctxOf s e.core e.ctx).starts)) ∧
    (g.ckpt = true → gangStill s key g = false → exec (.checkpointComplete key) s = .next s) ∧
    (g.ckpt = true → gangStill s key g = true → ∃ t y, exec (.checkpointComplete key) s = .next t ∧ gangOf t key = some y ∧
      y = { g with ckpt := false, ckDone := g.ckDone + 1, ckSealed := y.ckSealed } ∧ t.cores = s.cores ∧
      (∀ b, b ∈ y.ckSealed ↔ b ∈ asidBuffers s g.asid ∧ hImm (headerOf s g.asid b) = true) ∧
      ∃ z ∈ t.ckpts, z.gang = key ∧ z.chip = s.chip ∧ z.slot = g.ckDone % 2 ∧ z.saved = saveGang s key y ∧
        (∀ p, p ∈ z.pools ↔ p ∈ s.pools ∧ p.1 / 2 ^ 64 = g.asid) ∧
        (∀ b m, b < 2 ^ 20 → ((b, m) ∈ z.reencoded ↔ (bufKey g.asid b, m) ∈ s.newEnc)) ∧
        (∀ b l, b ∈ asidBuffers s g.asid → b ∉ g.ckSealed → leavesHere s g.asid b = [l] → ∃ c, (b, c) ∈ z.buffers ∧
          ∀ i < l.count * 4096, mapGet 0 c.bytes (l.va + i) = mapGet 0 s.dram (l.frame * 4096 + i)) ∧
        (∀ b c w, s.ckpts = [w] → w.gang = key → w.buffers = [(b, c)] → b ∈ asidBuffers s g.asid → b ∈ g.ckSealed → (b, c) ∈ z.buffers) ∧
        (∀ b ∈ s.blocks, b.2.owner = g.asid → chipOf b.2.frame = s.chip.toNat → b.2.frame % 4096 = 0 → ∃ c, (b.1, c) ∈ z.blocks ∧
          ∀ i < 4096, mapGet 0 c.bytes i = mapGet 0 s.dram (b.2.frame + i)) ∧
        let r := ringOf s (streamRing s g.stream)
        (z.whole = true ↔ ringFull r = false ∧ r.held = []))) ∧
  (∀ (s : State) (chip : Nat), chip < 432 → ∃ t, exec (.deviceFailureRecovery chip false) s = .next t ∧
    (chip ≠ s.chip.toNat → noRoute t chip = true) ∧ t.cores = s.cores ∧ t.dram = s.dram) ∧
  (∀ (s : State) (chip : Nat), s.ready = false → exec (.deviceFailureRecovery chip true) s = .next s) ∧
  (∀ (s : State) (chip : Nat) (z : Ckpt), chip < 432 → s.ready = true → s.ckpts = [z] → gangOf s z.gang = none →
    (∀ e ∈ s.streams, ∀ v ∈ e.2.out, v.key ≠ z.gang) → ∃ t, exec (.deviceFailureRecovery chip true) s = .next t ∧
      t.chip.toNat = chip ∧ chip ∉ t.quarantine ∧ (z.whole = false ∨ z.chip.toNat ≠ chip → t.streams = s.streams) ∧
      (z.whole = true → z.chip.toNat = chip →
        (streamOf t z.saved.gang.stream).out = (streamOf s z.saved.gang.stream).out ++ [{ z.saved with since := s.gauge }] ∧
        (∀ b m, z.reencoded = [(b, m)] → mapGet [] t.newEnc (bufKey z.saved.gang.asid b) = m) ∧
        ∀ b c l, z.buffers = [(b, c)] → z.blocks = [] → Memory.wf c.bytes = true →
          leavesHere { s with chip := BitVec.ofNat 9 chip } z.saved.gang.asid b = [l] →
          ∀ i < l.count * 4096, mapGet 0 t.dram (l.frame * 4096 + i) = mapGet 0 c.bytes (l.va + i)))

/-- R104, R134, R135, R354, R356: a record is written at the producer index of a ring with room, and held by a full
one; the time trigger raises the interrupt; the host's consumer index lets held records out in order; err and en are
the host's to clear or set, and ov the owner's to clear, whose refusal to anyone else sets the device's err. The
arithmetic of the indices is a reading (log 38), and so is that a device without an owner refuses the clearing of ov
to everyone (log 55, DEDUCED). -/
def Obligations.RingEvents : Prop :=
  (∀ (s : State) (n : Nat) (c : Completion),
    let r := ringOf s n
    let size := 2 ^ r.size.toNat
    let bytes := completionBytes s.gauge c
    let place := s.chip.toNat * 2 ^ 39 + (r.base.toNat + 32 * (r.prod.toNat % size)) % 2 ^ 39
    (size ≤ (r.prod - r.cons).toNat ∨ r.held ≠ [] →
      complete s n c = setRing s n { r with ov := true, held := r.held ++ [c] }) ∧
    ((r.prod - r.cons).toNat < size → r.held = [] → ∃ t, complete s n c = t ∧ (ringOf t n).prod = r.prod + 1 ∧
      (ringOf t n).held = [] ∧ t.done = s.done ++ (c.dep.map fun d => (d.1, d.2, c.status)).toList ∧ ((ringOf t n).ov = true ↔ r.ov = true ∨ size ≤ (r.prod + 1 - r.cons).toNat) ∧
      (∀ a, mapGet 0 t.dram a = if place ≤ a ∧ a < place + 32 then (bytes[a - place]?).getD 0 else mapGet 0 s.dram a) ∧
      ((r.inten = false → t.outbox = s.outbox) ∧
       (r.inten = true → r.count = 1 → t.outbox = s.outbox ++ [.msix r.port r.vector] ∧ (ringOf t n).unsignalled = 0)))) ∧
  (∀ (s : State) (n : Nat),
    let r := ringOf s n
    let fires := r.inten = true ∧ r.time ≠ 0 ∧ 0 < r.unsignalled ∧ r.oldest + r.time.toNat ≤ s.gauge
    (¬fires → exec (.eventRingTimeTrigger n) s = .next s) ∧
    (fires → exec (.eventRingTimeTrigger n) s = .next
      { setRing s n { r with unsignalled := 0 } with outbox := s.outbox ++ [.msix r.port r.vector] }) ∧
    (∀ v, r.held = [] → exec (.econsWrite n v) s = .next (setRing s n { r with cons := v })) ∧
    (∀ v b, r.held = [b] → (r.prod - v).toNat < 2 ^ r.size.toNat → ∃ t, exec (.econsWrite n v) s = .next t ∧
      (ringOf t n).cons = v ∧ (ringOf t n).held = [] ∧ (ringOf t n).prod = r.prod + 1 ∧
      t.done = s.done ++ (b.dep.map fun d => (d.1, d.2, b.status)).toList) ∧
    (∀ port ≤ 1, exec (.eventRingOvClear port n) s = .next
      (if s.owner.toNat = port + 1 then setRing s n { r with ov := false } else { s with merr := true })) ∧
    exec (.qctlErrClear n) s = .next (setStream s n { streamOf s n with err := false }) ∧
    ∀ en, exec (.qctlEnable n en) s = .next (setStream s n { streamOf s n with en := en }))

/-- R104, R135, R320-R322, R354-R356, R361, R362: who may write which management register and what each write does,
none in standby; claiming, releasing and losing ownership; what a droop report adds to a core's droop word, its
stretched cycles and its dropped steps. A nonzero reserved bit refuses a write with 0x06. That a refused write tells
its port, that reports wait for one elastic cycle each, and that a stream gets no ASID without a root are readings
(logs 55, 59, 63, DEDUCED); that an ECTL write which sets inten judges the count trigger at once is the model's choice
(log 106, DESIGN CHOICE). -/
def Obligations.ManagementEvents : Prop :=
  ∀ (s : State) (port : Nat),
    let owns := port ≤ 1 ∧ s.owner.toNat = port + 1
    let checked (u : State) : State := if owns then u else if port ≤ 1 then { s with merr := true } else s
    let host (u : State) : State := if port ≤ 1 then u else s
    let ranger (u : State) : State := if 2 ≤ port then u else s
    let claimed : State := if port ≤ 1 ∧ s.owner = 0 then { s with owner := BitVec.ofNat 2 (port + 1) } else s
    let released : State := if owns then { s with owner := 0 } else s
    let writes (off : Nat) (v : Word) (u : State) : Prop := s.standby = false → exec (.registerWrite port off v) s = .next u
    let told : State := { s with outbox := s.outbox ++ [.hostRefused port 0x06] }
    exec (.mownClaim port) s = .next claimed ∧ exec (.mownRelease port) s = .next released ∧
    exec (.mownErrorClear port) s = .next (checked { s with merr := false }) ∧
    (exec (.hostLinkDown port) s = .next
      { s with hostLinks := mapSet 0 s.hostLinks port 0, owner := if owns then 0 else s.owner }) ∧
    (∀ off v, s.standby = true → exec (.registerWrite port off v) s = .next s) ∧
    (∀ off v, off % 8 ≠ 0 ∨ 0x7000 ≤ off ∨ off = 0 → writes off v s) ∧
    (∀ v : Word, (v.getLsbD 63 = true → writes 0x8 v (host (checked { s with merr := false }))) ∧
      (v = 0 → writes 0x8 v (host released)) ∧ (v.toNat = port + 1 → writes 0x8 v (host claimed))) ∧
    (∀ v, writes 0x10 v (ranger { s with aging := v })) ∧
    (∀ n < 16, ∀ v : Word,
      let st := streamOf s n
      writes (0x1000 + 0x40 * n) v (host (setStream s n { st with base := v })) ∧
      writes (0x1008 + 0x40 * n) v (host (setStream s n { st with tail := v })) ∧
      writes (0x1010 + 0x40 * n) v s ∧
      writes (0x1018 + 0x40 * n) v (host (if v.toNat < 2 ^ 11 then
          setStream s n { st with en := v.getLsbD 0, ring := v.extractLsb' 1 4, size := v.extractLsb' 5 5,
                                  err := st.err && !v.getLsbD 10 }
        else told)) ∧
      writes (0x1020 + 0x40 * n) v (ranger (if v.toNat < 2 ^ 16 then
          (if (rootOf s v.toNat).isSome = true then setStream s n { st with asid := v.extractLsb' 0 16 }
           else { s with outbox := s.outbox ++ [.refusedChange] })
        else told))) ∧
    (∀ n < 16, ∀ v : Word,
      let r := ringOf s n
      writes (0x2000 + 0x40 * n) v (checked (setRing s n { r with base := v })) ∧ writes (0x2008 + 0x40 * n) v s ∧
      (r.held = [] → writes (0x2010 + 0x40 * n) v (host (setRing s n { r with cons := v }))) ∧
      (r.held = [] → v.getLsbD 14 = false → writes (0x2018 + 0x40 * n) v (checked (setRing s n
        { r with size := v.extractLsb' 0 5, count := v.extractLsb' 5 8, ov := r.ov && !v.getLsbD 13, inten := false,
                 port := v.getLsbD 15, time := v.extractLsb' 16 32, vector := v.extractLsb' 48 16 }))) ∧
      (let count := v.extractLsb' 5 8
       let put : Ring := { r with size := v.extractLsb' 0 5, count := count, ov := r.ov && !v.getLsbD 13, inten := true,
                                  port := v.getLsbD 15, time := v.extractLsb' 16 32, vector := v.extractLsb' 48 16 }
       r.held = [] → v.getLsbD 14 = true → writes (0x2018 + 0x40 * n) v (checked
         (if 0 < r.unsignalled ∧ (count = 0 ∧ put.time = 0 ∨ count ≠ 0 ∧ count.toNat ≤ r.unsignalled) then
            { setRing s n { put with unsignalled := 0 } with outbox := s.outbox ++ [.msix put.port put.vector] }
          else setRing s n put)))) ∧
    (∀ k < 256, ∀ (v : Word) (bits : BitVec 16),
      let c := coreOf s k
      let cleared (b : BitVec 16) : State := checked (setCore s k { c with trip := c.trip &&& ~~~b, peak := 0 })
      writes (0x4000 + 8 * k) v (if v.toNat < 2 ^ 59 then cleared (v.extractLsb' 0 16) else checked told) ∧
      writes (0x5000 + 8 * k) v (ranger (if v.toNat < 2 then setCore s k { c with debug := v.getLsbD 0 } else told)) ∧
      exec (.tripClear port k bits) s = .next (cleared bits) ∧ exec (.peakClear port k) s = .next (cleared 0)) ∧
    (∀ v : Word, writes 0x6000 v (checked (if v.toNat < 2 ^ 30 then
      { s with hot := s.hot && !v.getLsbD 28, crit := s.crit && !v.getLsbD 29 } else told))) ∧
    ∀ (k : Nat) (levels : BitVec 48),
      let c := coreOf s k
      let lev (i : Nat) : Nat := min 4 (levels.extractLsb' (3 * i) 3).toNat
      ∃ t m, exec (.droopReport k levels) s = .next t ∧ (∀ i < 16, lev i ≤ m) ∧ (∃ i < 16, lev i = m) ∧
        (∀ i < 16, (coreOf t k).trip.getLsbD i = (c.trip.getLsbD i || decide (0 < lev i))) ∧
        (coreOf t k).peak.toNat = max c.peak.toNat m ∧
        (c.pinned = true → (coreOf t k).dropAt = (if m = 4 then c.dropAt ++ [s.gauge + 1] else c.dropAt) ∧
          (coreOf t k).levels = c.levels ∧ (coreOf t k).stretched = c.stretched) ∧
        (c.pinned = false → (coreOf t k).dropAt = c.dropAt ∧ (coreOf t k).levels = c.levels ++ [m] ∧
          (coreOf t k).stretched.toNat = min (2 ^ 32 - 1) (c.stretched.toNat + if m = 0 then 0 else 1))

/-- R318, R353, R357: a gauge that cannot hold its bound, or, once the device has joined its domain, a flit more than
8 away, sets unsync and tells canopy once, and never moves the count; a link that fails loses its up bit and its
routes, and its retries are counted, one that trains gains the bit with its peer's number and the route to it; a host
port trains to the highest generation that both ends support, and with none its link is down. What counts as 8 apart
modulo 2^64, the number of flits retried and a route at once to a trained peer are readings (log 57). -/
def Obligations.LinkEvents : Prop :=
  ∀ (s : State) (port : Nat),
    let link := mapGet 0 s.links port
    let lost (u : State) : State := if u.unsync = true then u else { u with unsync := true, outbox := u.outbox ++ [.unsync] }
    exec .gaugeUnsync s = .next (lost s) ∧
    (∀ g : Word,
      let d := (s.gauge + 2 ^ 64 - g.toNat) % 2 ^ 64
      let seen : State := { s with refGauge := some g.toNat }
      (link.getLsbD 0 = true → s.ready = false → exec (.sizenFlit port g) s = .next seen) ∧
      (link.getLsbD 0 = false → exec (.sizenFlit port g) s = .next s) ∧
      (link.getLsbD 0 = true → (d ≤ 8 ∨ 2 ^ 64 - 8 ≤ d) → exec (.sizenFlit port g) s = .next seen) ∧
      (link.getLsbD 0 = true → s.ready = true → 8 < d → d < 2 ^ 64 - 8 → exec (.sizenFlit port g) s = .next (lost seen))) ∧
    (∃ t, exec (.linkFail port) s = .next t ∧
      t = { (draw s).2 with links := t.links, routes := t.routes, outbox := s.outbox ++ [.linkDown port] } ∧
      (∀ p, p ≠ port → mapGet 0 t.links p = mapGet 0 s.links p) ∧ (mapGet 0 t.links port).getLsbD 0 = false ∧
      (mapGet 0 t.links port).extractLsb' 1 9 = link.extractLsb' 1 9 ∧
      ((mapGet 0 t.links port).extractLsb' 10 22).toNat = min ((link.extractLsb' 10 22).toNat + (draw s).1) (2 ^ 22 - 1) ∧
      ∀ r, r ∈ t.routes ↔ r ∈ s.routes ∧ r.1 ≠ port) ∧
    (∀ peer < 512, ∃ t, exec (.sizenLinkTrained port peer) s = .next t ∧ t = { s with links := t.links, routes := t.routes } ∧
      (∀ r, r ∈ t.routes ↔ r ∈ s.routes ∨ r = (port, peer)) ∧
      (∀ p, p ≠ port → mapGet 0 t.links p = mapGet 0 s.links p) ∧ (mapGet 0 t.links port).getLsbD 0 = true ∧
      ((mapGet 0 t.links port).extractLsb' 1 9).toNat = peer ∧
      (mapGet 0 t.links port).extractLsb' 10 22 = link.extractLsb' 10 22) ∧
    ∀ near far : List HostGen, ∃ t, exec (.hostPortTraining port near far) s = .next t ∧
      t = { s with hostLinks := t.hostLinks, owner := t.owner } ∧ (∀ p, p ≠ port → mapGet 0 t.hostLinks p = mapGet 0 s.hostLinks p) ∧
      ((∀ g ∈ near, g ∉ far) → mapGet 0 t.hostLinks port = 0 ∧
        t.owner = if port ≤ 1 ∧ s.owner.toNat = port + 1 then 0 else s.owner) ∧
      ∀ g ∈ near, g ∈ far → (∀ h ∈ near, h ∈ far → h.rank ≤ g.rank) → mapGet 0 t.hostLinks port = g.rank + 1 ∧ t.owner = s.owner

/-- R317, R358, R359, R361, R362, R364: boot, retries and wake begin while no gang is admitted and read the process
monitor; boot goes through its stages, loads the domain's gauge (which waits until no gang is admitted), chip number
and routes and starts canopy when the image passes its checks, and otherwise counts a failure, the eighth of which
holds the rangers; a monitor report sets hot and crit and lowers the clock; an attestation answers with the digest of
the running image. The clock's steps, the length of a stage, the digest over the header and what standby keeps are the
model's (logs 6, 56, 58); so is that the slots of checkpoints and the count of gangs outlive power-up and standby (log
100, DEDUCED from R364). -/
def Obligations.PowerEvents : Prop :=
  ∀ (s : State) (img : Image) (domain : Option Domain),
    let boots (u : State) (stage : BitVec 3) : State :=
      if noGangs u = true then
        { (draw u).2 with stage := stage, boot := some { img := img, domain := domain }, ready := false, standby := false,
                          proc := BitVec.ofNat 8 (draw u).1 }
      else u
    let off : State := { State.reset with
      identity := s.identity, inputs := s.inputs, tape := s.tape, draws := s.draws, outbox := s.outbox, ckpts := s.ckpts, gangKey := s.gangKey }
    exec (.powerUp img domain) s = .next (boots off 1) ∧ noGangs off = true ∧
    (s.bootHeld = true ∨ s.ready = true ∨ s.bootFails = 0 ∨ s.boot ≠ none → exec (.bootRetry img domain) s = .next s) ∧
    (s.bootHeld = false → s.ready = false → s.bootFails ≠ 0 → s.boot = none →
      exec (.bootRetry img domain) s = .next (boots s 1)) ∧
    (∀ d w, s.boot = some { img := img, domain := domain } → draw s = (d, w) →
      let failed : State :=
        { w with stage := 1, boot := none, bootFails := s.bootFails + 1, bootHeld := decide (8 ≤ s.bootFails + 1),
                 outbox := if s.bootFails = 7 then s.outbox ++ [.bootFailed] else s.outbox }
      let header := img.magic = 0x4C59 ∧ img.length ≤ 64 * 2 ^ 20 ∧ s.identity.minVersion ≤ img.version
      let signature := img.key.length = 1312 ∧ img.sig.length = 2420 ∧ bytesToNat (sha3 img.key) = s.identity.keyDigest ∧
        Config.mldsaVerify (imageDigest img) (bytesToNat img.key) (bytesToNat img.sig) = true
      (d % 2 = 1 → bootStep s = w) ∧
      (d % 2 = 0 →
        (s.stage = 1 → bootStep s = { w with stage := 2 }) ∧
        (s.stage = 2 → (header → bootStep s = { w with stage := 3 }) ∧ (¬header → bootStep s = failed)) ∧
        (s.stage = 3 → (signature → bootStep s = { w with stage := 4 }) ∧ (¬signature → bootStep s = failed)) ∧
        (s.stage = 4 → noGangs s = false → bootStep s = w) ∧
        (s.stage = 4 → noGangs s = true → bootStep s =
          { w with gauge := (domain.map fun d => d.gauge.toNat).getD 0, chip := BitVec.ofNat 9 ((domain.map Domain.chip).getD 0),
                   routes := (domain.map Domain.routes).getD [], stage := 5, ready := true, image := some img, bootFails := 0,
                   boot := none }))) ∧
    (noGangs s = false → exec .standbyEnter s = .next s) ∧
    (noGangs s = true → exec .standbyEnter s = .next
      { off with standby := true, image := s.image, dram := s.dram, badSectors := s.badSectors, roots := s.roots, tables := s.tables,
                 leafs := s.leafs, buffers := s.buffers, newEnc := s.newEnc, kv := s.kv, blocks := s.blocks, pools := s.pools }) ∧
    (s.standby = false ∨ s.image = none → exec (.standbyWake domain) s = .next s) ∧
    (s.standby = true → s.image = some img → exec (.standbyWake domain) s = .next (boots s 2)) ∧
    (∀ (temp : BitVec 8) (vmin : BitVec 12) (watts : Nat),
      let hot := 95 ≤ temp.toNat
      let read : State :=
        { s with temp := temp, vmin := vmin, hot := s.hot || decide hot, crit := s.crit || decide (110 ≤ temp.toNat),
                 mhz := if (2000 < watts ∨ hot) ∧ 50 ≤ s.mhz then s.mhz - 25 else s.mhz }
      (read.crit = false → exec (.thermalMonitor temp vmin watts) s = .next read) ∧
      (read.crit = true → s.gangs = [] → exec (.thermalMonitor temp vmin watts) s = .next read) ∧
      (∀ key g, read.crit = true → s.gangs = [(key, g)] → g.st = .running →
        ∃ t y, exec (.thermalMonitor temp vmin watts) s = .next t ∧ gangOf t key = some y ∧ y.st = .ending ∧ y.status = 0x7E)) ∧
    (∀ nonce : List Byte,
      let d := imageDigest img
      (s.ready = false ∨ s.image = none ∨ 32 < nonce.length → exec (.attestationRequest nonce) s = .next s) ∧
      (s.ready = true → s.image = some img → nonce.length ≤ 32 → exec (.attestationRequest nonce) s = .next
        { s with outbox := s.outbox ++ [.attestation d s.identity.serial nonce
                   (Config.mldsaSign s.identity.attestKey (attestMessage d s.identity.serial nonce))] }))

/-- R291-R294, R297, R299, R300, R303, R304, R312, R313, R349, R353, R360: what heartwood and canopy change in tables
and memory and when they refuse, a migration and its copy, one requantised block, stored data that goes bad, and a
host's own loads and stores. The conditions of a refusal, a key-value entry with a bit of 51:40 among them, the copy
in one act, that new routes lift a quarantine, when a corrected error is counted, the answers to a host and that it
sees the logical bytes of lossless lines are the model's (logs 32, 45, 57, 59, 60, 61, 65, 97). -/
def Obligations.TableEvents : Prop :=
  (∀ s : State,
    let refused : State := { s with outbox := s.outbox ++ [.refusedChange] }
    let changes (c : TableChange) (u : State) : Prop := exec (.heartwoodTableChange c) s = .next u
    let reservedHeader (h : BitVec 512) : Prop := h.extractLsb' 323 189 ≠ 0 ∨ 6 ≤ hFmt h ∨ hBase h % 4096 ≠ 0 ∨
      hSizeB h % 4096 ≠ 0 ∨ (hFmt h = 5 ∧ hXp h ≠ 3)
    (∀ n asid,
      let rooted := asid < 2 ^ 16 ∧ rootOf s asid ≠ none
      (rooted → changes (.streamAsid n asid) (setStream s n { streamOf s n with asid := BitVec.ofNat 16 asid })) ∧
      (¬rooted → changes (.streamAsid n asid) refused)) ∧
    (∀ tbl, changes (.routes tbl) { s with routes := tbl, quarantine := s.quarantine.filter fun c => !tbl.any fun r => r.2 = c }) ∧
    (∀ port lo hi, changes (.window port lo hi) { s with windows := s.windows ++ [(port, lo, hi)] }) ∧
    (∀ asid addr,
      let free := addr % 4096 = 0 ∧ (∀ l ∈ s.leafs, l.asid ≠ asid ∧ overlaps l (addr / 4096) 2 = false) ∧
        (∀ b ∈ s.blocks, b.2.frame / 4096 < addr / 4096 ∨ addr / 4096 + 2 ≤ b.2.frame / 4096) ∧
        (∀ r ∈ s.tables, r.asid ≠ asid → r.frame + 2 ≤ addr / 4096 ∨ addr / 4096 + 2 ≤ r.frame) ∧
        frameAwaited s none (addr / 4096) 2 = false
      (¬free → changes (.root asid addr) refused) ∧
      (free → ∃ t, changes (.root asid addr) t ∧ rootOf t asid = some addr ∧ t.leafs = s.leafs ∧
        (∀ r, r ∈ t.tables ↔ (r ∈ s.tables ∧ r.asid ≠ asid) ∨ r = { frame := addr / 4096, asid := asid, va := 0, level := 1 }) ∧
        (∀ a, mapGet 0 t.dram a = if addr ≤ a ∧ a < addr + 8192 then 0 else mapGet 0 s.dram a) ∧
        ∀ f, ∀ e ∈ (ferryOf t f).tlb, e.asid ≠ asid)) ∧
    (∀ asid va level (val : BitVec 128) place l, entryAddr s asid va level = some place → leafOf asid va level val.toNat = some l →
      let free := (∀ m ∈ s.leafs, underEntry asid va level m = true → busyOf s asid m.bid = 0) ∧
        hOwnerB (headerOf s asid l.bid) = asid ∧ frameTaken s asid l.frame l.count = false ∧
        tableAt (tablesBut s asid va level) l.frame l.count = false
      (¬free → changes (.entry asid va level val) refused) ∧
      (free → ∃ t, changes (.entry asid va level val) t ∧ l ∈ t.leafs ∧ t.tables = tablesBut s asid va level ∧ readNat t.dram place 16 = val.toNat ∧
        (∀ a, a < place ∨ place + 16 ≤ a → mapGet 0 t.dram a = mapGet 0 s.dram a) ∧
        ∀ m ∈ t.leafs, underEntry asid va level m = true → m = l)) ∧
    (∀ asid va level (val : BitVec 128) place r, entryAddr s asid va level = some place → tableOf asid va level place val.toNat = some r →
      let free := (∀ m ∈ s.leafs, underEntry asid va level m = true → busyOf s asid m.bid = 0) ∧
        tableRoom s (tablesBut s asid va level) r.frame = true
      (¬free → changes (.entry asid va level val) refused) ∧
      (free → ∃ t, changes (.entry asid va level val) t ∧ t.tables = tablesBut s asid va level ++ [r] ∧
        readNat t.dram place 16 = val.toNat ∧ (∀ m ∈ t.leafs, m ∈ s.leafs ∧ underEntry asid va level m = false) ∧
        ∀ a, a < place ∨ place + 16 ≤ a →
          mapGet 0 t.dram a = if r.frame * 4096 ≤ a ∧ a < r.frame * 4096 + 8192 then 0 else mapGet 0 s.dram a)) ∧
    (∀ asid va level (val : BitVec 128) place, entryAddr s asid va level = some place → val.getLsbD 0 = true →
      val.extractLsb' 1 2 ≠ 3 → 432 ≤ (val.extractLsb' 48 9).toNat → changes (.entry asid va level val) refused) ∧
    (∀ asid bid (val : BitVec 512),
      let old := headerOf s asid bid
      let h : BitVec 512 := hSet (hSet val 128 64 0) 111 1 (if hMig old = true then 1 else 0)
      let bound := ∃ l ∈ s.leafs, l.asid = asid ∧ l.bid = bid
      let bad := (hImm old = true ∧ hImm h = false) ∨ busyOf s asid bid ≠ 0 ∨ rangeTaken s asid bid h = true ∨
        (bound ∧ hOwnerB h ≠ asid) ∨ reservedHeader h ∨ rebindOk s asid old h = false
      (bad → changes (.header asid bid val) refused) ∧
      (¬bad → hRqmap old = 0 ∨ hRqmap h = hRqmap old → changes (.header asid bid val) (setHeader s asid bid h))) ∧
    (∀ asid page (val : Word),
      let bad := val.extractLsb' 40 12 ≠ 0 ∨ (kvValid val = true ∧ kvGranted s asid val = none)
      (bad → changes (.kvEntry asid page val) refused) ∧ (¬bad → changes (.kvEntry asid page val) (bindPage s asid page val))) ∧
    (∀ chip block (val : BitVec 512),
      let key := chip * 2 ^ 40 + block
      let h := hSet (hSet val 128 64 0) 111 1 0
      let bad := (∃ b, blockOf s key = some b ∧ (b.dref ≠ 0 ∨ (hImm b.hdr = true ∧ hImm h = false))) ∨ busyOf s (2 ^ 16) key ≠ 0 ∨
        reservedHeader h ∨ hSizeB h ≠ 4096 ∨ hFmt h ≠ 0 ∨ hAux h % 4096 ≠ 0 ∨
        (∃ l ∈ s.leafs, l.asid ≠ hOwnerB h ∧ overlaps l (hAux h / 4096) 1 = true) ∨ frameAwaited s none (hAux h / 4096) 1 = true ∨
        tableAt s.tables (hAux h / 4096) 1 = true ∨ ∃ e ∈ s.blocks, e.1 ≠ key ∧ e.2.frame = hAux h
      (bad → changes (.block chip block val) refused) ∧
      (¬bad → changes (.block chip block val) (setBlock s key { hdr := h, fp := none })))) ∧
  (∀ (s : State) (asid bid : Nat) (frames : List Nat),
    let h := headerOf s asid bid
    let ls := leavesOf s asid bid
    let apart (f n f' n' : Nat) : Prop := f + n ≤ f' ∨ f' + n' ≤ f
    let fits := hPin h = false ∧ hMig h = false ∧ ls.length = frames.length ∧ ls ≠ [] ∧
      ∀ p ∈ List.zip ls frames, p.2 % p.1.count = 0 ∧ chipOf (p.2 * 4096) < 432 ∧
        (∀ l ∈ s.leafs, overlaps l p.2 p.1.count = false) ∧
        (∀ b ∈ s.blocks, b.2.frame / 4096 < p.2 ∨ p.2 + p.1.count ≤ b.2.frame / 4096) ∧
        (∀ r ∈ s.tables, apart r.frame 2 p.2 p.1.count) ∧
        (∀ m ∈ s.migrations, m.asid ≠ asid ∨ m.bid ≠ bid → ∀ q ∈ List.zip (leavesOf s m.asid m.bid) m.frames,
          apart q.2 q.1.count p.2 p.1.count) ∧
        ∀ q ∈ List.zip ls frames, q.1 ≠ p.1 → apart q.2 q.1.count p.2 p.1.count
    (¬fits → exec (.migrationStart asid bid frames) s = .next { s with outbox := s.outbox ++ [.refusedChange] }) ∧
    (fits → exec (.migrationStart asid bid frames) s = .next
      { setHeader s asid bid (hSet h 111 1 1) with migrations := s.migrations ++ [{ asid := asid, bid := bid, frames := frames }] }) ∧
    (∀ m, s.migrations.find? (fun m => m.asid = asid && m.bid = bid) = some m →
      (busyOf s asid bid ≠ 0 → exec (.migrationCopy asid bid) s = .next s) ∧
      (∀ chunk, busyOf s asid bid = 0 → badChunk s h ls m.frames = some chunk → ∃ t, exec (.migrationCopy asid bid) s = .next t ∧
        t.dram = s.dram ∧ t.leafs = s.leafs ∧ headerOf t asid bid = hSet h 111 1 0 ∧
        Out.migrationFailed asid bid chunk ∈ t.outbox) ∧
      (∀ l frame place, Memory.wf s.dram = true → busyOf s asid bid = 0 → badChunk s h ls m.frames = none → ls = [l] → m.frames = [frame] →
        entryAddr s l.asid l.va l.level = some place →
        place + 16 ≤ frame * 4096 ∨ (frame + l.count) * 4096 ≤ place →
        ∃ t, exec (.migrationCopy asid bid) s = .next t ∧ headerOf t asid bid = hSet h 111 1 0 ∧
          (∀ i < l.count * 4096, mapGet 0 t.dram (frame * 4096 + i) = mapGet 0 s.dram (l.frame * 4096 + i)) ∧
          readNat t.dram place 16 =
            setField (setField (readNat s.dram place 16) 12 27 (frame % 2 ^ 27)) 48 9 (chipOf (frame * 4096)))) ∧
    (∀ block f bs b d w u, mayRequant h block = true → blockFormat s asid h block = .ok (f, false) →
      logicalBlock s asid h block = .ok bs → auxRead s asid (hRqmap h + block / 4) 1 = .ok b →
      draw s = (d, w) →
      auxWrite (writeNew w (bufKey asid bid) (hRqfmt h) block (d % 0x7F80) bs).1 asid (hRqmap h + block / 4)
        (natToBytes 1 (setField (bytesToNat b) (2 * (block % 4)) 2 1)) = .ok u →
      exec (.requantBlock asid bid block) s = .next u) ∧
    (∀ block, mayRequant h block = false → exec (.requantBlock asid bid block) s = .next s)) ∧
  (∀ (s : State) (chip sector core : Nat) (place : Place),
    (exec (.memoryPoison chip (.corrected sector)) s = .next { s with corrected := s.corrected + 1 }) ∧
    (exec (.coreStorageError core (.corrected place)) s = .next { s with corrected := s.corrected + 1 }) ∧
    (∃ t, exec (.memoryPoison chip (.uncorrectable sector)) s = .next t ∧
      t = { s with badSectors := t.badSectors, outbox := s.outbox ++ [.poisoned none chip (32 * sector)] } ∧
      ∀ x, x ∈ t.badSectors ↔ x ∈ s.badSectors ∨ x = (chip * 2 ^ 39 + 32 * sector) / 32) ∧
    (∃ t, exec (.coreStorageError core (.uncorrectable place)) s = .next t ∧
      t = { s with cores := t.cores, outbox := s.outbox ++ [.poisoned (some place) s.chip.toNat core] } ∧
      let c := coreOf s core
      let d := coreOf t core
      let acts (n : Nat) (b : Beat) : Prop := c.cyc < b.cyc + 2 + n / 128 + n % 128
      let added : Prop := d = { c with poison := d.poison } ∧ ∀ x, x ∈ d.poison ↔ x ∈ c.poison ∨ x = place
      let entry (n : Nat) (q r : List LqEntry) : Prop := ∀ i, r[i]? = (q[i]?).map fun e =>
        if i = n ∧ e.val.isSome = true then { e with poison := true } else e
      match place with
      | .acc n => ((∀ b ∈ c.beats, ¬acts n b) → added) ∧
        (∀ b, c.beats = [b] → acts n b → b.kind = .clear → d = c) ∧
        (∀ b m wraps bad, c.beats = [b] → acts n b → b.kind = .drain m (n / 128) wraps bad → n % 128 < bad.length →
          d.beats = [{ b with kind := .drain m (n / 128) wraps (bad.set (n % 128) true) }] ∧ Place.acc n ∈ d.poison ∧
          ∀ (i : Nat) (p : Pend), c.pend[i]? = some p → p.seq = m → (match p.eff with | .drain .. => True | _ => False) →
            d.pend[i]? = some { p with poison := true })
      | .lqs x n => entry n (ctxIn c x).lqs (ctxIn d x).lqs ∧ d = putCtx c x { ctxIn c x with lqs := (ctxIn d x).lqs }
      | .lqv x n => entry n (ctxIn c x).lqv (ctxIn d x).lqv ∧ d = putCtx c x { ctxIn c x with lqv := (ctxIn d x).lqv }
      | _ => added)) ∧
  (∀ (s : State) (port addr n : Nat) (bs : List Byte),
    let phys := s.chip.toNat * 2 ^ 39 + addr
    let answers (store : Option (List Byte)) (o : Out) : Prop :=
      exec (.cxlMemAccess port addr n store) s = .next { s with outbox := s.outbox ++ [o] }
    (windowHolds s port addr n = false → answers none (.hostRefused port 0x42)) ∧
    (windowHolds s port addr bs.length = false → answers (some bs) (.hostRefused port 0x42)) ∧
    (windowHolds s port addr n = true →
      ((∀ i < n, hostLine s (phys + i) = none) →
        ((∃ i < n, sectorBad s (phys + i) = true) → answers none (.hostRefused port 0x43)) ∧
        ((∀ i < n, sectorBad s (phys + i) = false) →
          answers none (.hostRead port ((List.range n).map fun i => mapGet 0 s.dram (phys + i))))) ∧
      (∀ l, 0 < n → (∀ i < n, hostLine s (phys + i) = some l) →
        (∀ bytes, readCoded s l.asid l.bid l.page l.hdr l.va = .ok bytes →
          answers none (.hostRead port ((List.range n).map fun i => (bytes[phys + i - l.phys]?).getD 0))) ∧
        (∀ e, readCoded s l.asid l.bid l.page l.hdr l.va = .error e → answers none (.hostRefused port e)))) ∧
    (windowHolds s port addr bs.length = true → holdsSealed s phys bs.length = true → answers (some bs) (.hostRefused port 0x45)) ∧
    (windowHolds s port addr bs.length = true → holdsSealed s phys bs.length = false →
      ((∀ i < bs.length, hostLine s (phys + i) = none) → (∀ i < bs.length, sectorBad s (phys + i) = false) →
        ∃ t, exec (.cxlMemAccess port addr n (some bs)) s = .next t ∧ t.outbox = s.outbox ∧
          ∀ a, mapGet 0 t.dram a = if phys ≤ a ∧ a < phys + bs.length then (bs[a - phys]?).getD 0 else mapGet 0 s.dram a) ∧
      (∀ l u err, 0 < bs.length → (∀ i < bs.length, hostLine s (phys + i) = some l) →
        writeCoded s l.asid l.bid l.page l.hdr 0 (fun _ => false) l.va (bs.mapIdx fun i b => (phys + i - l.phys, b)) = .ok (u, err) →
        exec (.cxlMemAccess port addr n (some bs)) s = .next (touchBlocks u phys bs.length))))

/-- R249, R264, R271-R273, R275-R278, R282, R283, R287, R301, R307, R311, R315, R328: a ferry issues the earliest
command that may issue, the one that entered first among equals, which takes its shape or ends with 0x06; a stream's
command reads or writes the words that a free choice takes, and its last ones end it; a page that arrives lets its
command go on, and one that never will ends it with 0x42; a stamp is written once its batch has completed; a counted
line is written at its step, or missed with 0x51 where its source is late or its port taken; a tag change is applied
once its buffer is free; a shared block that a command is about to write is copied into an idle one. Free choices
stand for the delays and orders that the spec leaves open, the order of causes at an address is a reading, and which
command takes a freed stream and that canopy waits for the chunks under way before it copies a shared block are the
model's (logs 4, 5, 33, 39, 40, 74, 85, 94). -/
def Obligations.FerryEvents : Prop :=
  ∀ (s : State) (f : Nat),
    let fe := ferryOf s f
    let sameStores (t u : State) : Prop := t.dram = u.dram ∧ ∀ k, (coreOf t k).spad = (coreOf u k).spad ∧ (coreOf t k).isp = (coreOf u k).isp
    let goesOn (t : State) (id : Nat) : Prop := ∃ e ∈ (ferryOf t f).cmds, e.id = id ∧ (e.st = .issued ∨ ∃ m < 4, e.st = .stream m)
    (issuable s f = [] → exec (.ferryIssue f) s = .next (giveStreams s f)) ∧
    (∀ c ∈ issuable s f, (∀ b ∈ issuable s f, b ≠ c → c.issueStep < b.issueStep ∨ (c.issueStep = b.issueStep ∧ c.order < b.order)) →
      let h := mapGet 0 (ctxOf s c.core c.ctx).shapes c.e
      let shape := if hasShape c.kind = true then h else 0
      let answers := (c.kind = .alloc ∨ c.kind = .free) ∧ resultOk c.b.toNat = true
      (issueIllegal c h = true → ¬answers → ∃ t, exec (.ferryIssue f) s = .next t ∧ CommandGone t f c.id) ∧
      (issueIllegal c h = true → answers → ∃ t, exec (.ferryIssue f) s = .next t ∧
        ∃ d ∈ (ferryOf t f).cmds, d.id = c.id ∧ ∃ w, d.ending = some (0x06, w)) ∧
      (issueIllegal c h = false → ∃ t, exec (.ferryIssue f) s = .next t ∧ ∃ d ∈ (ferryOf t f).cmds, d.id = c.id ∧ d.shape = shape ∧
        (d.st = .counted ↔ isCounted { c with shape := shape } = true) ∧ (d.st = .counted ∨ d.st = .issued ∨ ∃ n < 4, d.st = .stream n))) ∧
    (∀ n c d w, fe.cmds.find? (fun c => c.st = .stream n) = some c → mayPerform s c = true → draw s = (d, w) →
      (d % 2 = 1 → exec (.ferryChunk f n) s = .next (giveStreams w f)) ∧
      (d % 2 = 0 → c.ending = none →
        (∀ m bs, c.kind = .shape → smallRead w f c true c.a.toNat 32 = (m, .ok bs) →
          shapeLegal (BitVec.ofNat 256 (bytesToNat bs)) = true → ∃ t, exec (.ferryChunk f n) s = .next t ∧ CommandGone t f c.id ∧
            mapGet 0 (ctxOf t c.core c.ctx).shapes c.e = BitVec.ofNat 256 (bytesToNat bs)) ∧
        (∀ m bs, c.kind = .card → smallRead w f c true c.a.toNat 64 = (m, .ok bs) →
          ∃ t y, exec (.ferryChunk f n) s = .next t ∧ CommandGone t f c.id ∧ t.cards = s.cards ++ [y] ∧ y.bytes = bs ∧
            y.st = .queued ∧ y.stream = ((gangOf s c.gang).map Gang.stream).getD 0) ∧
        (∀ va, c.kind = .kvmap → c.started = false → locOf c.a.toNat = .dev va → chunksThrough w (cmdAsid w c) (va / 4096) c.id = [] →
          (kvValid c.b = true → blockGranted w (cmdAsid w c) c.b = true) → ownerAway w c.b = false →
          ownerAway w (kvOf w (cmdAsid w c) (kvPage va)) = false →
          ∃ t, exec (.ferryChunk f n) s = .next t ∧ CommandGone t f c.id ∧ kvOf t (cmdAsid s c) (kvPage va) = c.b) ∧
        (∀ va, c.kind = .kvmap → c.started = false → locOf c.a.toNat = .dev va →
          (kvValid c.b = true ∧ blockGranted w (cmdAsid w c) c.b = false) ∨ ownerAway w c.b = true ∨
            ownerAway w (kvOf w (cmdAsid w c) (kvPage va)) = true →
          ∃ t, exec (.ferryChunk f n) s = .next t ∧ CommandGone t f c.id ∧ t.kv = s.kv ∧ t.blocks = s.blocks) ∧
        (∀ pick rest c', hasShape c.kind = true → c.started = true → c.toRead ≠ [] → pickWords w (d / 2) c.toRead = (pick, rest) →
          readUnits w pick c = .ok c' → exec (.ferryChunk f n) s = .next
            (giveStreams (usePorts (usePorts (putCmd w f { c' with toRead := rest }) f pick) f (smallWords c)) f)) ∧
        (∀ u pick, c.kind = .copy → c.started = true → c.toRead = [] → c.toWrite ≠ [] → sharedWrite w c = none →
          pickWrites w c (d / 2) = (pick, []) →
          writeChunk c pick w = .ok u → blockLen c ≤ 4096 * (c.chunk + 1) →
          ∃ t, exec (.ferryChunk f n) s = .next t ∧ CommandGone t f c.id ∧ sameStores t u))) ∧
    (∀ id c, cmdOf s f id = some c →
      (∀ eddy a n, c.st = .parked (some eddy) false a n →
        let answers := (c.kind = .sum ∨ c.kind = .alloc ∨ c.kind = .free) ∧ c.ending = none
        (∃ t, exec (.pageArrive f id true) s = .next t ∧ goesOn t id) ∧
        (¬answers → ∃ t, exec (.pageArrive f id false) s = .next t ∧ CommandGone t f id) ∧
        (answers → ∃ t, exec (.pageArrive f id false) s = .next t ∧ ∃ d ∈ (ferryOf t f).cmds, d.id = id ∧
          ∃ w, d.ending = some (0x42, w))) ∧
      (c.kind = .stamp →
        (stampDue fe c = false → exec (.stampWrite f id) s = .next s) ∧
        (∀ m u, stampDue fe c = true → mayPerform s c = true → smallWrite s f c c.a.toNat (stampBytes fe c) = (m, .ok u) →
          ∃ t, exec (.stampWrite f id) s = .next t ∧ CommandGone t f id ∧ sameStores t u ∧
            ∀ x ∈ (ferryOf t f).fails, ¬(x.core = c.core ∧ x.ctx = c.ctx ∧ x.batch = c.batch))) ∧
      (∀ d w, c.st = .counted → draw s = (d, w) →
        (∀ u, lineStep c = s.gauge → lineRead c = true → mayPerform s c = true → lineClash s c = false →
          writeCounted w f c = .ok u → ∃ t, exec (.countedLine f id) s = .next t ∧ sameStores t u ∧
            (blockLen c ≤ 512 * (c.line + 1) → CommandGone t f id) ∧
            (512 * (c.line + 1) < blockLen c → ∃ e ∈ (ferryOf t f).cmds, e.id = id ∧ e.line = c.line + 1)) ∧
        (∀ st u, lineStep c = s.gauge → lineRead c = true → mayPerform s c = true → lineClash s c = false →
          writeCounted w f c = .error (st, u) →
          ∃ t, exec (.countedLine f id) s = .next t ∧ CommandGone t f id ∧ sameStores t u) ∧
        (lineClash s c = true ↔ ∃ b ∈ lineBanks s c, ∃ e ∈ s.ferries, (s.gauge, b) ∈ e.2.banks) ∧
        (lineStep c = s.gauge → lineRead c = true → lineClash s c = true →
          ∃ t, exec (.countedLine f id) s = .next t ∧ CommandGone t f id ∧ sameStores t s) ∧
        (lineStep c = s.gauge → lineRead c = false ∨ mayPerform s c = false →
          ∃ t, exec (.countedLine f id) s = .next t ∧ CommandGone t f id ∧ sameStores t s) ∧
        (lineStep c = s.gauge + 1 → mayPerform s c = true → exec (.countedLine f id) s = .next (readAhead w f c 0)) ∧
        (lineStep c < s.gauge → ∃ t, exec (.countedLine f id) s = .next t ∧ CommandGone t f id ∧ sameStores t s)) ∧
      (∀ va bid h n, c.kind = .mtag → c.st = .stream n → locOf c.a.toNat = .dev va → isKv va = false →
        bufferAt s (cmdAsid s c) va = some (bid, h) → hOwnerB h = cmdAsid s c →
        (hMig h = true ∨ busyOf s (cmdAsid s c) bid ≠ 0 → exec (.fmtagApply f id) s = .next s) ∧
        (hMig h = false → busyOf s (cmdAsid s c) bid = 0 → ∃ t, exec (.fmtagApply f id) s = .next t ∧ CommandGone t f id ∧
          (tagIllegal h c.b = true → headerOf t (cmdAsid s c) bid = headerOf s (cmdAsid s c) bid) ∧
          (tagIllegal h c.b = false → headerOf t (cmdAsid s c) bid = tagApplied h c.b))) ∧
      (∀ eddy va n x blk, c.st = .parked eddy true va n → kvResolve s (cmdAsid s c) va = some (x, blk) → 2 ≤ blk.dref →
        noRoute s (x / 2 ^ 40) = false → noRoute s (chipOf blk.frame) = false → chunksThrough s (cmdAsid s c) (va / 4096) c.id ≠ [] →
          exec (.cowService f id) s = .next { s with inputs := s.inputs ++ [(s.gauge + 1, .cowService f c.id)] }) ∧
      (∀ eddy va n x blk y dst d w, c.st = .parked eddy true va n → kvResolve s (cmdAsid s c) va = some (x, blk) → 2 ≤ blk.dref →
        noRoute s (x / 2 ^ 40) = false → noRoute s (chipOf blk.frame) = false → noRoute w (chipOf dst.frame) = false →
        chunksThrough s (cmdAsid s c) (va / 4096) c.id = [] → draw s = (d, w) → Memory.wf s.dram = true →
        (let idle := s.blocks.filter fun e => e.1 / 2 ^ 40 = x / 2 ^ 40 && e.2.owner = cmdAsid s c && e.2.dref = 0
         idle[d % idle.length]?) = some (y, dst) → dst.frame + 4096 ≤ blk.frame ∨ blk.frame + 4096 ≤ dst.frame →
        ∃ t, exec (.cowService f id) s = .next t ∧ goesOn t id ∧
          (∀ i < 4096, mapGet 0 t.dram (dst.frame + i) = mapGet 0 s.dram (blk.frame + i)) ∧
          (∀ i < 4096, mapGet 0 t.dram (blk.frame + i) = mapGet 0 s.dram (blk.frame + i)) ∧
          (kvOf t (cmdAsid s c) (kvPage va)).toNat % 2 ^ 40 = y % 2 ^ 40))

/-- R239, R249, R253, R255, R261, R262: a search job that ends puts its result in flight, but for one of a kernel that
has retired; an arrival is counted, and the last one of a generation readies every context that waits; a peer port
gives a waiting access its first free step, or releases a request. A free choice says when a request arrives (logs 5,
21). -/
def Obligations.CoreEvents : Prop :=
  (∀ (s : State) (k : Nat),
    let c := coreOf s k
    (∀ j ∈ c.jobs, c.cyc < j.finish) → ∃ t, exec (.searchJobEnd k) s = .next t ∧ coreOf t k = c) ∧
  (∀ (s : State) (k : Nat) (j : Job) (js : List Job),
    let c := coreOf s k
    let ends (e : Eff) : Prop := ∃ t p, exec (.searchJobEnd k) s = .next t ∧ coreOf t k = { c with jobs := js, pend := c.pend ++ [p] } ∧
      p.due = j.finish ∧ p.ctx = j.ctx ∧ p.pos = j.pos ∧ p.eff = e ∧ p.poison = false
    c.jobs = j :: js → j.finish ≤ c.cyc → (∀ i ∈ js, c.cyc < i.finish) →
      (j.dest = none → j.ctx < 8 → j.mute = false → ends (.search (searchResult j).1 (searchResult j).2)) ∧
      (j.dest = none → 8 ≤ j.ctx ∨ j.mute = true → ∃ t, exec (.searchJobEnd k) s = .next t ∧ coreOf t k = { c with jobs := js }) ∧
      (∀ d, j.dest = some d → ends (.tile d 0 (recordBytes j.seed j.rank (projCoef j.seed (rankOfCode j.rank) j.target)) 256))) ∧
  (∀ (s : State) (k n : Nat),
    let f := confOf s (512 * k + n)
    (arrivalsAt (coreOf s k) n = [] → exec (.arriveCount k n) s = .next s) ∧
    (arrivalsAt (coreOf s k) n ≠ [] → ∃ t, exec (.arriveCount k n) s = .next t ∧
      (arrivalsAt (coreOf t k) n).length + 1 ≤ (arrivalsAt (coreOf s k) n).length ∧
      (f.a + 1 ≠ f.n → confOf t (512 * k + n) = { f with a := f.a + 1 } ∧ ∀ x, ctxOf t k x = ctxOf s k x) ∧
      (f.a + 1 = f.n → confOf t (512 * k + n) = { f with a := 0, g := f.g + 1 } ∧
        ∀ x < 8, if (ctxOf s k x).life = .parked (.conf n) then (ctxOf t k x).life = .ready ∧ armedAt (ctxOf t k x) n = false
          else ctxOf t k x = ctxOf s k x))) ∧
  (∀ (s : State) (k : Nat) (a : Access) (d : Nat) (w : State),
    let c := coreOf s k
    let target := coreOf s a.target
    let free (g : Nat) : Prop := ∀ r ∈ target.resv, ¬(r.peer = true ∧ r.bank = bankOf a.off ∧ r.step = g)
    c.accs.find? (fun b => b.seq = a.seq && b.due = .grant && b.land.isNone) = some a → draw s = (d, w) →
    (d ≠ 0 → c.pinned = false → exec (.peerGrant k a.seq) s = .next w) ∧
    (d = 0 ∨ c.pinned = true → earlierAccs c a = [] →
      (isRequest a = true → ∃ t, exec (.peerGrant k a.seq) s = .next t ∧
        (coreOf t k).accs = c.accs.map fun b => if b.seq = a.seq then { b with land := some c.cyc } else b) ∧
      (isRequest a = false → ∃ t g, exec (.peerGrant k a.seq) s = .next t ∧ s.gauge ≤ g ∧ free g ∧
        (∀ h, s.gauge ≤ h → h < g → ¬free h) ∧
        (coreOf t k).accs = (c.accs.map fun b => if b.seq = a.seq then { b with due := .step g } else b) ∧
        ∃ r ∈ (coreOf t a.target).resv, r.peer = true ∧ r.bank = bankOf a.off ∧ r.step = g)))

/-! ## Words and steps -/

/-- R59, R61, R69-R72: the word of every well-formed slot instruction, with every operand at every value that it
admits, decodes to that instruction in its slot. -/
def Obligations.EncodedInstructionDecodes : Prop :=
  ∀ (i : Instr) (sl : Slot), slotOf i = some sl → i.wf = true → (∀ x w, i ≠ .illegalOpcode x w) → decodeSlot sl (encode i) = .ok i

/-- R59, R61, R62, R69-R72: a word that a slot decodes is the word of a well-formed instruction of that slot: no bit
of it is dropped, and no two words decode to one instruction. -/
def Obligations.DecodedWordEncodes : Prop :=
  ∀ (sl : Slot) (w : Word32) (i : Instr), decodeSlot sl w = .ok i → encode i = w ∧ i.wf = true ∧ slotOf i = some sl

/-- R74: an opcode value is refused exactly where the map of its slot misses it, and then faults the slot with 0x01.
-/
def Obligations.MissingOpcodesFault : Prop :=
  ∀ (sl : Slot) (w : Word32) (s : State),
    (isMissing sl (w.extractLsb' 25 7).toNat = true ↔ decodeSlot sl w = .error .illegalOpcode) ∧
    (isMissing sl (w.extractLsb' 25 7).toNat = true →
      runWord sl w s = quietFault (if guardPass (curCtx s) (w.extractLsb' 21 4) = true then busySlot s sl else s) sl 0x01
        (s.cur.hdr ++ w) (s.cur.lit.setWidth 64) 0)

/-- R56, R59, R62, R76, R151: guard 1000 is 0x04; then a literal that the bundle does not carry 0x05; then a nonzero
bit that the form does not use, or a field of an instruction with a reserved value, 0x06; each with the word, header
and literal as details. Ahead of that 0x06 a BRI or RET whose guard passes raises 0x09 for a target that is not a
multiple of 4, or 0x7B for one outside the instruction scratchpad, with the target as its detail (R151's order; log
77). -/
def Obligations.IllegalWordsFault : Prop :=
  ∀ (sl : Slot) (w : Word32) (s : State),
    let faults (cause : BitVec 7) : Prop :=
      runWord sl w s = quietFault (if guardPass (curCtx s) (w.extractLsb' 21 4) = true then busySlot s sl else s) sl cause
        (s.cur.hdr ++ w) (s.cur.lit.setWidth 64) 0
    let op := (w.extractLsb' 25 7).toNat
    let a := sregOf (curCtx s) (if op = 0x42 then (w.extractLsb' 11 5).toNat else 31)
    let jumps : Prop := sl = .S ∧ (op = 0x42 ∨ op = 0x43) ∧ guardPass (curCtx s) (w.extractLsb' 21 4) = true
    isMissing sl (w.extractLsb' 25 7).toNat = false →
      (w.extractLsb' 21 4 = 8 → faults 0x04) ∧
      (∀ z i, w.extractLsb' 21 4 ≠ 8 → rawDecode sl w = some (z, i) →
        (literalNeed i ≠ 0 → literalNeed i ≠ hKind s.cur.hdr → faults 0x05) ∧
        (literalNeed i = 0 ∨ literalNeed i = hKind s.cur.hdr → w &&& z ≠ 0 ∨ i.wf = false →
          (jumps → a.toNat % 4 ≠ 0 → runWord sl w s = slotFault s sl 0x09 a 0 0) ∧
          (jumps → a.toNat % 4 = 0 → 0x22000 ≤ a.toNat → runWord sl w s = slotFault s sl 0x7B a 0 0) ∧
          (¬jumps ∨ (a.toNat % 4 = 0 ∧ a.toNat < 0x22000) → faults 0x06))) ∧
      (w.extractLsb' 25 7 = 0 → w.extractLsb' 21 4 ≠ 8 → w.extractLsb' 0 21 ≠ 0 → faults 0x06)

/-- R60: a guard reads its flag as it stands in the issue cycle, and a slot whose flag, XORed with bit 24, is 0 has no
effect: it only counts as issued. -/
def Obligations.GuardedSlotHasNoEffect : Prop :=
  ∀ (i : Instr) (sl : Slot) (s : State), slotOf i = some sl → i.wf = true → (∀ x w, i ≠ .illegalOpcode x w) →
    literalNeed i = 0 ∨ literalNeed i = hKind s.cur.hdr →
    xor (flagOf (curCtx s) ((guardField i).extractLsb' 0 3).toNat) ((guardField i).getLsbD 3) = false →
    exec i s = .next { s with cur := { s.cur with out := .issued } }

/-- R59-R72: words written out from the encodings of the spec stand for their instructions. -/
def Obligations.SpecWordsDecode : Prop :=
  decodeSlot .S 0x02041800 = .ok (.add 0 4 3 0) ∧ decodeSlot .S 0x40031801 = .ok (.addi 0 3 3 1) ∧
  decodeSlot .S 0x8A003004 = .ok (.loopi 0 3 4) ∧ decodeSlot .S 0xCA002001 = .ok (.fresume 0 4 1) ∧
  decodeSlot .V0 0x020110C8 = .ok (.vadd .v0 0 1 2 3 1 0) ∧ decodeSlot .V1 0x40022144 = .ok (.vfma_d .v1 0 2 4 5 2 0) ∧
  decodeSlot .M 0x02000810 = .ok (.mpush 0 0 1 1 0 0 0) ∧ decodeSlot .M 0x14053800 = .ok (.msproj 0 5 7 0 0) ∧
  decodeSlot .C0 0x08044E02 = .ok (.st .c0 0 4 9 3 2) ∧ decodeSlot .C1 0x0E034903 = .ok (.atom .c1 0 3 9 4 0 0 3)

/-- R74, R76: a step at an event is that event; a slot's word that decodes runs its instruction; and the sequencer's
step on a bundle of one slot runs that instruction where the slot stands, keeps what it does, and then moves every
slot past the bundle and counts the cycle. The acts of a step and their order are the model's (logs 4, 10). -/
def Obligations.StepRunsDecodedInstruction : Prop :=
  (∀ (s : State) (i : Instr) (rest : List Act), s.agenda = .ev i :: rest → step s = exec i { s with agenda := rest }) ∧
  (∀ (sl : Slot) (w : Word32) (i : Instr) (s t : State), decodeSlot sl w = .ok i → exec i s = .next t → runWord sl w s = t) ∧
  (∀ (s : State) (k x a : Nat) (h lit : Word32) (sl : Slot) (w : Word32) (i : Instr) (rest : List Act) (v : State),
    let s0 : State := { s with agenda := rest }
    let c := ctxOf s k x
    let words := a + 4 + (if hKind h = 0 then 0 else 4)
    let u := standing s0 k x a h lit sl w
    s.agenda = .issue k :: rest → StandsAt s k x a h → hMask h = 2 ^ sl.idx → hY h = false → hP h = false → hE h = false →
    (if hKind h = 0 then lit = 0 else lit = headerAt (coreOf s k) (a + 4)) → headerAt (coreOf s k) words = w →
    bundleCause false a h lit [(sl.idx, w)] = none → c.pauseCount < c.pauseBound.toNat → decodeSlot sl w = .ok i →
    (∀ g sc, i ≠ .fence g sc) → exec i u = .next v → v.cur = { u.cur with out := .issued } → v.gangs = s.gangs →
    (coreOf v k).issuer = some x → (coreOf v k).cyc = (coreOf s k).cyc → (ctxOf v k x).life = .ready → (ctxOf v k x).fault = none →
    (ctxOf v k x).gang = c.gang → (ctxOf v k x).slipStall = 0 →
    (ctxOf v k x).spos = (ctxOf u k x).spos → (ctxOf v k x).win = (ctxOf u k x).win → (ctxOf v k x).npos = c.npos + 1 →
    ∃ t, step s = .next t ∧ (ctxOf t k x).spos = List.replicate 6 (c.npos + 1) ∧ (ctxOf t k x).win = [] ∧
      (ctxOf t k x).npos = c.npos + 1 ∧ (ctxOf t k x).seqNext = (ctxOf v k x).seqNext ∧ (ctxOf t k x).targets = (ctxOf v k x).targets ∧
      (ctxOf t k x).cycles = (ctxOf v k x).cycles + 1 ∧ SameRegisters (ctxOf v k x) (ctxOf t k x) ∧
      (coreOf t k).pend = (coreOf v k).pend ∧ (coreOf t k).accs = (coreOf v k).accs ∧ (coreOf t k).issuer = some x ∧
      SameBytes v t ∧ t.ferries = v.ferries ∧ t.agenda = v.agenda)

/-- Every step of the device answers a next state: the model neither stops nor refuses, whatever the state. What the
outside does is an event of its own (log 10). -/
def Obligations.EveryStepAnswers : Prop :=
  ∀ s : State, StepAnswers s

/-! ## Invariants and frames -/

/-- R218 and the canonical form of memory: a step from any state whose stores are in canonical form and whose masks
have from 1 to 128 rows and columns leaves such a state. That an unlisted byte reads 0 is the model's (log 2). -/
def Obligations.StepKeepsInvariant : Prop :=
  ∀ s t : State, MemoryCanonical s → MasksLegal s → step s = .next t → MemoryCanonical t ∧ MasksLegal t

/-- R218: the state after reset has its stores in canonical form, and its masks at 128 x 128; its gauge is 0 and no
gang, core or command is under way. The canonical form is the model's (log 2). -/
def Obligations.ResetState : Prop :=
  MemoryCanonical State.reset ∧ MasksLegal State.reset ∧ (∀ k, (coreOf State.reset k).rows = 128 ∧ (coreOf State.reset k).cols = 128) ∧
  State.reset.gauge = 0 ∧ State.reset.gangs = [] ∧ State.reset.cores = [] ∧ State.reset.ferries = []

/-- R15, R120, R122, R126, R250, R344: no instruction of a slot changes a byte of device memory or of a scratchpad at
its issue; none but SPAWN and FRESUME changes a register, flag, mask, basin or format then, in any context, and these
two only those of the context that their index or handle names. Stores and results are in flight. -/
def Obligations.SlotsKeepState : Prop :=
  (∀ (i : Instr) (s t : State), slotOf i ≠ none → exec i s = .next t → SameBytes s t) ∧
  ((∀ (i : Instr) (s t : State), slotOf i ≠ none → (∀ g d a b, i ≠ .spawn g d a b) → (∀ g a x, i ≠ .fresume g a x) →
    exec i s = .next t → ∀ k x, SameRegisters (ctxOf s k x) (ctxOf t k x)) ∧
  (∀ (g : BitVec 4) (d a b : BitVec 5) (s t : State) (k x : Nat), exec (.spawn g d a b) s = .next t →
    (∀ key y e, (curCtx s).gang = some key → gangOf s key = some y →
      y.entries[(sregOf (curCtx s) a.toNat).toNat]? = some e → ¬(e.core = k ∧ e.ctx = x)) →
    SameRegisters (ctxOf s k x) (ctxOf t k x)) ∧
  (∀ (g : BitVec 4) (a : BitVec 5) (how : BitVec 11) (s t : State) (k x : Nat), exec (.fresume g a how) s = .next t →
    let h := sregOf (curCtx s) a.toNat
    ((h.extractLsb' 3 8).toNat ≠ k ∨ (h.extractLsb' 0 3).toNat ≠ x) → SameRegisters (ctxOf s k x) (ctxOf t k x)))

/-- R15, R60, R77: an instruction that only computes changes, at its issue, nothing but results in flight and what
every issue may change. -/
def Obligations.ComputeFrames : Prop :=
  ∀ (i : Instr) (s t : State), isCompute i = true → exec i s = .next t → ComputeFrame s t

/-- R120, R122, R126, R129, R132, R147, R150, R152, R189, R222, R250, R259, R260, R262, R269, R348: the frames of the
other instructions at issue: control flow changes the sequencing of its context; waits and arrivals its arming; beats
the array, the expected tags and the searcher's queue, and no tile's bytes; a scratchpad access its queues, the
accesses in flight and the bank cycles held; a command its ferry and its batch; LQPOP and SQPOP their queue; PSEND and
PTAKE their pipe; TICK its clock, its context's signals and the pipes of these; CTLWR the phase of its counts and,
acknowledging, its card; RETIRE its results in flight; SPAWN the context that its index names; FRESUME the one that
its handle names, and, retiring it, what that context had in flight and those that it served. -/
def Obligations.OtherFrames : Prop :=
  ∀ (i : Instr) (s t : State), exec i s = .next t →
    let k := s.cur.core
    let x := s.cur.ctx
    let c := curCtx s
    let d := ctxOf t k x
    let u := coreOf t k
    (isControl i = true → OnlyIssuer s t ∧ u = { curCore s with ctxs := u.ctxs, pend := u.pend } ∧
      d = { issueOf c d with loops := d.loops, seqNext := d.seqNext, targets := d.targets, bubbles := d.bubbles,
                             liveHalf := d.liveHalf, fetchSince := d.fetchSince, stallUntil := d.stallUntil }) ∧
    (isMeeting i = true → OnlyIssuer s t ∧ u = { curCore s with ctxs := u.ctxs, pend := u.pend } ∧
      d = { issueOf c d with armed := d.armed, ticket := d.ticket }) ∧
    (isBeat i = true → OnlyIssuer s t ∧
      u = { curCore s with ctxs := u.ctxs, pend := u.pend, acc := u.acc, wrap := u.wrap, rows := u.rows, cols := u.cols,
                           poison := u.poison, tiles := u.tiles, jobs := u.jobs, beats := u.beats } ∧
      (∀ n, tileOf u n = { tileOf (curCore s) n with exp := (tileOf u n).exp }) ∧ d = { issueOf c d with beatEnd := d.beatEnd }) ∧
    (isAccess i = true → t = { s with cores := t.cores, cur := t.cur, seq := t.seq } ∧ OtherCtxs s t ∧
      (∀ n, n ≠ k → coreOf t n = { coreOf s n with resv := (coreOf t n).resv }) ∧
      u = { curCore s with ctxs := u.ctxs, accs := u.accs, resv := u.resv } ∧ d = { issueOf c d with lqs := d.lqs }) ∧
    (isCommand i = true → t = { s with cores := t.cores, cur := t.cur, seq := t.seq, ferries := t.ferries } ∧ OtherCores s t ∧
      OtherCtxs s t ∧ u = { curCore s with ctxs := u.ctxs } ∧ d = { issueOf c d with batch := d.batch, batchIdx := d.batchIdx } ∧
      ∀ f, f ≠ 4 * (k / 8) + k % 8 / 2 → ferryOf t f = ferryOf s f) ∧
    (∀ g n, i = .lqpop g n → OnlyIssuer s t ∧ u = { curCore s with ctxs := u.ctxs, pend := u.pend } ∧
      d = { issueOf c d with lqs := d.lqs }) ∧
    (∀ g n, i = .sqpop g n → OnlyIssuer s t ∧ u = { curCore s with ctxs := u.ctxs, pend := u.pend } ∧
      d = { issueOf c d with statq := d.statq, statNew := d.statNew }) ∧
    (∀ sl g a p, i = .psend sl g a p ∨ i = .ptake sl g a p →
      t = { s with cores := t.cores, cur := t.cur, seq := t.seq, pipes := t.pipes } ∧ OtherCores s t ∧ OtherCtxs s t ∧
      u = { curCore s with ctxs := u.ctxs, pend := u.pend } ∧ d = issueOf c d ∧
      ∀ q, q ≠ 64 * (k / 8) + p.toNat → pipeOf t q = pipeOf s q) ∧
    (∀ g, i = .tick g → ((curCore s).sigs.map Prod.fst).Nodup →
      t = { s with cores := t.cores, cur := t.cur, pipes := t.pipes } ∧ OtherCores s t ∧ OtherCtxs s t ∧
      u = { curCore s with ctxs := u.ctxs, sigs := u.sigs, poison := u.poison } ∧
      d = { issueOf c d with tick := d.tick, statNew := d.statNew } ∧
      (∀ n y, sigOf (curCore s).sigs n = some y → y.owner ≠ x → sigOf u.sigs n = some y) ∧
      ∀ q, (∀ e ∈ (curCore s).sigs, e.2.owner = x → ∀ p, e.2.piped = some p → 64 * (k / 8) + p ≠ q) → pipeOf t q = pipeOf s q) ∧
    (∀ g a n, i = .ctlwr g a n → t = { s with cores := t.cores, cur := t.cur, seq := t.seq, cards := t.cards } ∧ OtherCores s t ∧
      OtherCtxs s t ∧ u = { curCore s with ctxs := u.ctxs, pend := u.pend } ∧ d = { issueOf c d with occPhase := d.occPhase } ∧
      (n ≠ 10 → t.cards = s.cards)) ∧
    (∀ g, i = .retire g → OnlyIssuer s t ∧ u = { curCore s with ctxs := u.ctxs, pend := u.pend } ∧ d = issueOf c d) ∧
    (∀ g n a b, i = .spawn g n a b →
      let named (j y : Nat) : Prop := ∃ key gang e, c.gang = some key ∧ gangOf s key = some gang ∧
        gang.entries[(sregOf c a.toNat).toNat]? = some e ∧ e.core = j ∧ e.ctx = y
      t = { s with cores := t.cores, cur := t.cur, seq := t.seq, tape := t.tape, draws := t.draws } ∧
      (∀ j, coreOf t j = { coreOf s j with ctxs := (coreOf t j).ctxs, pend := (coreOf t j).pend, poison := (coreOf t j).poison }) ∧
      (∀ j, j ≠ k → (coreOf t j).pend = (coreOf s j).pend) ∧ (∀ j, ∀ p ∈ (coreOf t j).poison, p ∈ (coreOf s j).poison) ∧
      ∀ j y, ¬named j y → if j = k ∧ y = x then d = issueOf c d else ctxOf t j y = ctxOf s j y) ∧
    (∀ g a how, i = .fresume g a how →
      let h := sregOf c a.toNat
      let named (j y : Nat) : Prop := (h.extractLsb' 3 8).toNat = j ∧ (h.extractLsb' 0 3).toNat = y
      t = { s with cores := t.cores, cur := t.cur, seq := t.seq, gangs := t.gangs } ∧
      (∀ j, coreOf t j = { coreOf s j with ctxs := (coreOf t j).ctxs, pend := (coreOf t j).pend, accs := (coreOf t j).accs,
                                           jobs := (coreOf t j).jobs }) ∧
      (∀ key y, gangOf s key = some y → ∃ z, gangOf t key = some z ∧ z = { y with queue := z.queue, unserved := z.unserved }) ∧
      (how.toNat ≤ 1 → (∀ j, (coreOf t j).accs = (coreOf s j).accs ∧ (coreOf t j).jobs = (coreOf s j).jobs) ∧
        ∀ j y, ¬named j y → if j = k ∧ y = x then d = issueOf c d else ctxOf t j y = ctxOf s j y) ∧
      ∀ j y, ¬named j y → (∀ f, (ctxOf s j y).fault = some f → f.host = none) →
        if j = k ∧ y = x then d = issueOf c d else ctxOf t j y = ctxOf s j y)

/-! ## Faults and landings -/

/-- R17: of the results of one cycle that name one scalar register, flag, vector register or mask of a context, the
one of the later bundle remains, and within a bundle the one of the later slot. -/
def Obligations.LastResultRemains : Prop :=
  ∀ (s : State) (k : Nat) (p : Pend), p ∈ (coreOf s k).pend → p.due ≤ (coreOf s k).cyc → p.poison = false → p.slot < 6 →
    placeOf p.eff ≠ none → (∀ n v, p.eff = .flag n v → n < 8) →
    (∀ q ∈ (coreOf s k).pend, q.due ≤ (coreOf s k).cyc → q.ctx = p.ctx → placeOf q.eff = placeOf p.eff → q ≠ p →
      q.slot < 6 ∧ (q.pos < p.pos ∨ (q.pos = p.pos ∧ q.slot < p.slot))) →
    holdsEff (ctxOf (landAll s k) k p.ctx) p.eff

/-- R15, R91, R95, R99, R102, R132, R137, R138, R176, R185, R222, R349: what each result does when it lands: it writes
its own place and no other register, tile, slot, signal, pipe or context; s0 and f0 keep theirs, a basin takes its
exact term or the state that two give, a cleared signal is as declared, a drained row leaves its values, its status
bits and its records, and a poisoned result, or an .add drain that meets a poisoned word, writes nothing and poisons
its place, the words of its tile or row, or its queue entry. That an .add drain reads its destination as it lands is
the model's choice (log 84). -/
def Obligations.LandingResults : Prop :=
  (∀ (s : State) (k : Nat) (p : Pend), p.poison = false →
    let x := p.ctx
    let c := ctxOf s k x
    let t := landEff s k p
    let d := ctxOf t k x
    let u := coreOf t k
    let alone (n : Nat) : Prop := (coreOf s k).pinned = true ∨ ∀ e ∈ (coreOf s k).ferried, e.1 ≠ n
    (∀ n v, p.eff = .sreg n v → ∀ m, sregOf d m = if m = n ∧ n ≠ 0 then v else sregOf c m) ∧
    (∀ n v, n < 8 → p.eff = .flag n v → ∀ m < 8, flagOf d m = if m = n ∧ n ≠ 0 then v else flagOf c m) ∧
    (∀ n v, p.eff = .vreg n v → ∀ m, vregOf d m = if m = n then v else vregOf c m) ∧
    (∀ n v, p.eff = .mask n v → ∀ m, maskOf d m = if m = n then v else maskOf c m) ∧
    (∀ v, p.eff = .fmt v → d = { c with fmt := v }) ∧
    (∀ es y, p.eff = .cb es y → d.cbType = y ∧
      ∀ j, mapGet 0 d.cb j = if j < es.length then (es[j]?).getD 0 else mapGet 0 c.cb j) ∧
    (∀ v, p.eff = .ctl 4 v → d = { c with prio := v.setWidth 2 }) ∧ (∀ v, p.eff = .ctl 5 v → d = { c with pinReq := v.getLsbD 0 }) ∧
    (∀ v, p.eff = .ctl 6 v → d = { c with pauseBound := v.setWidth 32 }) ∧
    (∀ v, p.eff = .ctl 7 v → d = { c with stRS := c.stRS && !v.getLsbD 0, stEV := c.stEV && !v.getLsbD 1,
                                          stWD := c.stWD && !v.getLsbD 2 }) ∧
    (∀ v, p.eff = .ctl 10 v → d = { c with cardack := v }) ∧ (∀ v, p.eff = .ctl 11 v → d = { c with phase := v.setWidth 4 }) ∧
    (∀ n v, 16 ≤ n → n ≤ 23 → p.eff = .ctl n v → d = { c with args := d.args } ∧
      ∀ j, mapGet 0 d.args j = if j = n - 16 then v else mapGet 0 c.args j) ∧
    (∀ n, p.eff = .basinClear n → (∀ m, basinOf d m = if m = n then {} else basinOf c m) ∧
      ∀ q, q ∈ u.pend ↔ q ∈ (coreOf s k).pend ∧ ¬(q.ctx = x ∧ q.seq < p.seq ∧ ∃ term st ov, q.eff = .basinAdd n term st ov)) ∧
    (∀ n term st ov, p.eff = .basinAdd n term st ov → Place.basin x n ∉ (coreOf s k).poison →
      let b := basinOf c n
      let z := basinOf d n
      let sum := b.val.toInt + term
      let fits := -(2 ^ 4351) ≤ sum ∧ sum < 2 ^ 4351
      (∀ m, m ≠ n → basinOf d m = basinOf c m) ∧
      (b.st = 0 → st = 0 → z.st = 0 ∧ (fits → z.val.toInt = sum)) ∧
      (b.st = 0 → (z.ov = true ↔ b.ov = true ∨ ov = true ∨ ¬fits)) ∧ (b.st ≠ 0 → z.ov = (b.ov || ov)) ∧
      (b.st = 3 ∨ st = 3 → z.st = 3) ∧ (b.st ≠ 3 → st ≠ 3 → b.st ≠ 0 → st ≠ 0 → b.st ≠ st → z.st = 3) ∧
      (b.st ≠ 3 → st = 0 ∨ st = b.st → z.st = b.st) ∧ (b.st = 0 → z.st = st)) ∧
    (∀ n v g, p.eff = .sigFeed n v → sigOf (coreOf s k).sigs n = some g → g.owner = x →
      sigOf u.sigs n = some { g with next := v, nw := true }) ∧
    (∀ n g, p.eff = .sigClear n → sigOf (coreOf s k).sigs n = some g →
      sigOf u.sigs n = some { g with lags := [], nw := false, next := 0, starved := false, adv := 0 }) ∧
    (∀ n v, p.eff = .seed n v → groveOf u n = { groveOf (coreOf s k) n with seed := v }) ∧
    (∀ n seed rank coef, p.eff = .grove n seed rank coef →
      groveOf u n = { groveOf (coreOf s k) n with seed := seed, rank := rank, coef := coef }) ∧
    (∀ v r, p.eff = .search v r → d = { c with bestseed := v, resid := r }) ∧
    (∀ q v, p.eff = .pipe q v → (pipeOf s q).freshStep ≠ s.gauge ∨ (∀ j ∈ (pipeOf s q).fresh, j ≤ k) →
      (pipeOf t q).entries = (pipeOf s q).entries ++ [v] ∧
      (pipeOf t q).inflight = (pipeOf s q).inflight - 1) ∧
    (∀ n v, p.eff = .lqs n v →
      d = { c with lqs := c.lqs.map fun e => if e.id = n then { e with val := some (v.setWidth 4096), poison := false } else e }) ∧
    (∀ n v, p.eff = .lqv n v →
      d = { c with lqv := c.lqv.map fun e => if e.id = n then { e with val := some v, poison := false } else e }) ∧
    (∀ n after, p.eff = .arrive n after →
      let f := confOf s (512 * k + n)
      (f.a + 1 ≠ f.n → confOf t (512 * k + n) = { f with a := f.a + 1 } ∧ ∀ y, ctxOf t k y = ctxOf s k y) ∧
      (f.a + 1 = f.n → confOf t (512 * k + n) = { f with a := 0, g := f.g + 1 } ∧
        ∀ y < 8, if (ctxOf s k y).life = .parked (.conf n) then (ctxOf t k y).life = .ready ∧ armedAt (ctxOf t k y) n = false
          else ctxOf t k y = ctxOf s k y)) ∧
    (∀ j y, p.eff = .wake j y → ctxOf t j y = { ctxOf s j y with
      life := if (ctxOf s j y).life = .resuming then .ready else (ctxOf s j y).life }) ∧
    (∀ n off bs row, p.eff = .tile n off bs row → alone n → off + bs.length ≤ 32768 →
      let old := tileOf (coreOf s k) n
      let new := tileOf u n
      new = { old with bytes := new.bytes } ∧
      ∀ i < 32768, new.bytes.extractLsb' (8 * i) 8 =
        if off ≤ i ∧ i < off + bs.length then (bs[i - off]?).getD 0 else old.bytes.extractLsb' (8 * i) 8) ∧
    (∀ n row acc mode cols first vals wrap fmt, p.eff = .drain n row acc mode cols first vals wrap fmt → alone n →
      let a := fmtAcc fmt
      let w := if a = 0 ∨ a = 3 then 32 else 16
      let clean : Prop := ∀ q, 8 * q < 16 * w * row + w / 8 * cols → 16 * w * row < 8 * q + 8 → Place.tile n q ∉ (coreOf s k).poison
      acc = BitVec.ofNat 2 a → vals.length = 128 → 1 ≤ cols → cols ≤ 128 → (row + 1) * 128 * w ≤ 262144 →
      let tile := tileOf (coreOf s k) n
      let old (j : Nat) : Nat := tileElem tile.bytes w (128 * row + j)
      let v (j : Nat) : Nat := ((vals[j]?).getD 0).toNat
      let sum (j : Nat) : Int := toSigned 32 (old j) + toSigned 32 (v j)
      let out (j : Nat) : Prop := sum j < -(2 ^ 31) ∨ 2 ^ 31 ≤ sum j
      let nan (z : Nat) : Prop := fIsNan (accVal a z) = true
      let beats (i j : Nat) : Prop := ¬nan (v j) ∧ (nan (v i) ∨ fLtV (accVal a (v j)) (accVal a (v i)) = true)
      let becomes (m : Nat) (val : Nat → Nat) (wrapped : Prop) : Prop :=
        let new := tileOf u n
        let kept (i : Nat) : Prop := (first = false ∨ mode = 1) ∧ tile.stat.getLsbD i = true
        ∃ bN bI bW : Bool, new = { tile with bytes := new.bytes, stat := new.stat } ∧
          (∀ j < m, tileElem new.bytes w (128 * row + j) = val j % 2 ^ w) ∧
          (∀ f, (f + 1) * w ≤ 262144 → f < 128 * row ∨ 128 * row + m ≤ f → tileElem new.bytes w f = tileElem tile.bytes w f) ∧
          (bN = true ↔ a ≠ 3 ∧ ∃ j < m, fIsNan (fUnpack (accFmt a) (val j)) = true) ∧
          (bI = true ↔ a ≠ 3 ∧ ∃ j < m, ∃ g, fUnpack (accFmt a) (val j) = .inf g) ∧ (bW = true ↔ wrap = true ∨ wrapped) ∧
          (new.stat.getLsbD 0 = true ↔ bN = true ∨ kept 0) ∧ (new.stat.getLsbD 1 = true ↔ bI = true ∨ kept 1) ∧
          (new.stat.getLsbD 2 = true ↔ bW = true ∨ kept 2) ∧
          (x < 8 → d.statNew = c.statNew ++ (([(bN, 1), (bI, 2), (bW, 3)].filter fun e : Bool × Nat => e.1).map fun e =>
            (s.gauge, statRecord e.2 p.bundle (n + 32 * row))))
      (mode = 0 → becomes cols v False) ∧
      (mode = 1 → clean → a = 3 → ∃ z : Nat → Nat, becomes cols z (∃ j < cols, out j) ∧ ∀ j < cols,
        if fmtIsat fmt = true then toSigned 32 (z j) = max (-(2 ^ 31)) (min (2 ^ 31 - 1) (sum j))
        else (toSigned 32 (z j) - sum j) % 2 ^ 32 = 0) ∧
      (mode = 1 → clean → a ≠ 3 → becomes cols
        (fun j => fAddV (envOf fmt 0) (accFmt a) (fInput (envOf fmt 0) (accFmt a) (old j)) (fUnpack (accFmt a) (v j))) False) ∧
      (mode = 2 → ∃ i < cols, (∀ j < cols, ¬beats j i) ∧ (∀ j < i, beats i j) ∧
        becomes 128 (fun j => if j = 0 then (if a = 3 then i else fOfInt envPlain (accFmt a) i) else if j = 1 then v i else 0) False)) ∧
    d = landedIn p.eff c d ∧ (∀ j y, j ≠ k ∨ y ≠ x → ctxOf t j y = landedOther p.eff (ctxOf s j y) (ctxOf t j y)) ∧
    (∀ j, j ≠ k → coreOf t j = { coreOf s j with ctxs := (coreOf t j).ctxs }) ∧
    u = { coreOf s k with ctxs := u.ctxs, poison := u.poison, pend := u.pend, sigs := u.sigs, tiles := u.tiles, groves := u.groves } ∧
    (∀ n, (∀ off bs row, p.eff ≠ .tile n off bs row) → (∀ row acc mode cols first vals wrap fmt,
      p.eff ≠ .drain n row acc mode cols first vals wrap fmt) → tileOf u n = tileOf (coreOf s k) n) ∧
    (∀ n, (∀ v, p.eff ≠ .seed n v) → (∀ seed rank coef, p.eff ≠ .grove n seed rank coef) → groveOf u n = groveOf (coreOf s k) n) ∧
    (∀ n, (∀ v, p.eff ≠ .sigFeed n v) → p.eff ≠ .sigClear n → sigOf u.sigs n = sigOf (coreOf s k).sigs n) ∧
    ((∀ n, p.eff ≠ .basinClear n) → u.pend = (coreOf s k).pend) ∧
    (∀ q, (∀ v, p.eff ≠ .pipe q v) → pipeOf t q = pipeOf s q) ∧
    (∀ q, (∀ n after, p.eff = .arrive n after → q ≠ 512 * k + n) → confOf t q = confOf s q) ∧
    t = { s with cores := t.cores, pipes := t.pipes, confs := t.confs, tape := t.tape, draws := t.draws } ∧ SameBytes s t) ∧
  (∀ (s : State) (k : Nat) (p : Pend), p.poison = true →
    let x := p.ctx
    let t := landEff s k p
    let poisons (a : Place) : Prop := a ∈ (coreOf t k).poison ∧ ctxOf t k x = ctxOf s k x ∧ SameBytes s t
    let alone (n : Nat) : Prop := (coreOf s k).pinned = true ∨ ∀ e ∈ (coreOf s k).ferried, e.1 ≠ n
    let spoils (n lo hi : Nat) : Prop := (∀ w, 8 * w < hi → lo < 8 * w + 8 → Place.tile n w ∈ (coreOf t k).poison) ∧ SameBytes s t ∧
      ∀ m, tileOf (coreOf t k) m = { tileOf (coreOf s k) m with stat := (tileOf (coreOf t k) m).stat }
    (∀ n v, n ≠ 0 → p.eff = .sreg n v → poisons (.sreg x n)) ∧ (∀ n v, p.eff = .flag n v → poisons (.flag x n)) ∧
    (∀ n v, p.eff = .vreg n v → poisons (.vreg x n)) ∧ (∀ n v, p.eff = .mask n v → poisons (.mask x n)) ∧
    (∀ n term st ov, p.eff = .basinAdd n term st ov → poisons (.basin x n)) ∧
    (∀ n off bs row, p.eff = .tile n off bs row → alone n → spoils n off (off + bs.length) ∧ ctxOf t k x = ctxOf s k x ∧
      ∀ m, (tileOf (coreOf t k) m).stat = (tileOf (coreOf s k) m).stat) ∧
    (∀ n v, p.eff = .lqs n v → SameBytes s t ∧ ctxOf t k x = { ctxOf s k x with
      lqs := (ctxOf s k x).lqs.map fun e => if e.id = n then { e with val := some (v.setWidth 4096), poison := true } else e }) ∧
    (∀ n v, p.eff = .lqv n v → SameBytes s t ∧ ctxOf t k x = { ctxOf s k x with
      lqv := (ctxOf s k x).lqv.map fun e => if e.id = n then { e with val := some v, poison := true } else e })) ∧
  (∀ (s : State) (k : Nat) (p : Pend) (n row : Nat) (acc mode : BitVec 2) (cols : Nat) (first : Bool) (vals : List Word32) (wrap : Bool)
    (fmt : Word),
    let x := p.ctx
    let t := landEff s k p
    let size := if acc = 0 ∨ acc = 3 then 512 else 256
    let met : Prop := mode = 1 ∧ ∃ q, 8 * q < row * size + size / 128 * cols ∧ row * size < 8 * q + 8 ∧ Place.tile n q ∈ (coreOf s k).poison
    p.eff = .drain n row acc mode cols first vals wrap fmt → p.poison = true ∨ met →
      let old := (tileOf (coreOf s k) n).stat
      let new := (tileOf (coreOf t k) n).stat
      let kept (i : Nat) : Prop := (first = false ∨ mode = 1) ∧ old.getLsbD i = true
      (∀ w, 8 * w < (row + 1) * size → row * size < 8 * w + 8 → Place.tile n w ∈ (coreOf t k).poison) ∧ SameBytes s t ∧
      (∀ m, tileOf (coreOf t k) m = { tileOf (coreOf s k) m with stat := (tileOf (coreOf t k) m).stat }) ∧
      (∀ m, m ≠ n → tileOf (coreOf t k) m = tileOf (coreOf s k) m) ∧
      (new.getLsbD 0 = true ↔ kept 0) ∧ (new.getLsbD 1 = true ↔ kept 1) ∧ (new.getLsbD 2 = true ↔ wrap = true ∨ kept 2) ∧
      (x < 8 → (ctxOf t k x).statNew = (ctxOf s k x).statNew ++
        if wrap = true then [(s.gauge, statRecord 3 p.bundle (n + 32 * row))] else []))

/-- R210, R250, R253-R255: a store performs on exactly its bytes, and an ATOM on exactly its operand, with each of its
operations, whose old value goes in flight to its register; a load puts its bytes in flight to its queue entry, late
by a free number of cycles where an elastic core has loaded from a peer, and a TLROW its line to its tile; no other
byte changes. -/
def Obligations.AccessesPerform : Prop :=
  ∀ (s : State) (k : Nat) (a : Access), (∀ w, Place.spad w ∉ (coreOf s a.target).poison) →
    let old (b : Nat) : Byte := mapGet 0 (coreOf s a.target).spad b
    let num (n : Nat) : Nat := readNat (coreOf s a.target).spad a.off n
    let otherwise (t : State) : Prop := t.dram = s.dram ∧ (∀ j, (coreOf t j).isp = (coreOf s j).isp) ∧
      ∀ j, j ≠ a.target → (coreOf t j).spad = (coreOf s j).spad
    let delivers (late : Nat) (lat : Nat) (e : Eff) : Prop :=
      ∃ r, (coreOf (performRead s k a) k).pend = (coreOf s k).pend ++ [r] ∧ r.due = a.land.getD ((coreOf s k).cyc + lat + late) ∧
        r.ctx = a.ctx ∧ r.eff = e ∧ r.poison = false ∧ SameBytes s (performRead s k a)
    let delay := if a.late = true then (draw s).1 else 0
    (∀ bs, a.kind = .store bs → otherwise (performWrite s k a) ∧ ∀ b,
      mapGet 0 (coreOf (performWrite s k a) a.target).spad b = if a.off ≤ b ∧ b < a.off + bs.length then (bs[b - a.off]?).getD 0 else old b) ∧
    (∀ op uns n x d, a.kind = .atom op uns n x d → 1 ≤ n → n ≤ 8 →
      let t := performWrite s k a
      let y := x.toNat % 2 ^ (8 * n)
      let rd (z : Nat) : Int := if uns = true then (z : Int) else toSigned (8 * n) z
      let leaves (z : Nat) : Prop := readNat (coreOf t a.target).spad a.off n = z
      otherwise t ∧
      (∀ b, b < a.off ∨ a.off + n ≤ b → mapGet 0 (coreOf t a.target).spad b = old b) ∧
      (op = 0 → leaves ((num n + x.toNat) % 2 ^ (8 * n))) ∧ (op = 1 → leaves (num n &&& y)) ∧ (op = 2 → leaves (num n ||| y)) ∧
      (op = 3 → leaves (num n ^^^ y)) ∧ (op = 4 → leaves (if rd y < rd (num n) then y else num n)) ∧
      (op = 5 → leaves (if rd (num n) < rd y then y else num n)) ∧ (op = 6 → leaves y) ∧
      ∃ r ∈ (coreOf t k).pend, r.due = a.land.getD ((coreOf s k).cyc + 4) ∧ r.ctx = a.ctx ∧ r.eff = .sreg d (BitVec.ofNat 64 (num n)) ∧ r.poison = false) ∧
    (∀ id n, a.kind = .loadS id n → delivers delay 4 (.lqs id (BitVec.ofNat 64 (num n)))) ∧
    (∀ id, a.kind = .loadV id → delivers delay 4 (.lqv id (BitVec.ofNat 4096 (num 512)))) ∧
    (∀ n line, a.kind = .tileLoad n line →
      delivers 0 5 (.tile n (128 * line) ((List.range 128).map fun i => mapGet 0 (coreOf s a.target).spad (a.off + i)) 128))
end

