-- ==== Sys2Proof/Laws/Store.lean ====
section
/-! SUPPORT. Sparse stores: a read after a write, and the canonical form that every operation keeps. -/
namespace Sys2Proof.Machine

variable {α : Type}

theorem mapGet_mapDrop (d : α) (m : SMap α) (n j : Nat) :
    mapGet d (mapDrop m n) j = if j = n then d else mapGet d m j := by
  induction m with
  | nil => simp [mapDrop, mapGet]
  | cons e m ih =>
    obtain ⟨k, v⟩ := e
    by_cases hk : k = n
    · simp only [mapDrop, hk, if_true, ih, mapGet]
      by_cases hj : j = n
      · simp [hj]
      · simp [hj, Ne.symm hj]
    · simp only [mapDrop, hk, if_false, mapGet, ih]
      by_cases hj : j = n
      · subst hj; simp [hk]
      · simp [hj]

theorem mapGet_mapPut (d : α) (m : SMap α) (n : Nat) (x : α) (j : Nat) :
    mapGet d (mapPut m n x) j = if j = n then x else mapGet d m j := by
  induction m with
  | nil => simp only [mapPut, mapGet]; by_cases h : n = j <;> simp [h, eq_comm]
  | cons e m ih =>
    obtain ⟨k, v⟩ := e
    simp only [mapPut]
    by_cases hk : k = n
    · subst hk
      by_cases hj : j = k <;> simp [mapGet, hj, eq_comm]
    · by_cases hlt : n < k
      · by_cases hj : j = n
        · simp [hk, hlt, mapGet, hj]
        · simp [hk, hlt, mapGet, hj, Ne.symm hj]
      · simp only [hk, hlt, if_false, mapGet, ih]
        by_cases hj : j = n
        · subst hj; simp [hk]
        · simp [hj]

/-- A read after a write, whatever the store. -/
theorem mapGet_mapSet [DecidableEq α] (d : α) (m : SMap α) (n : Nat) (x : α) (j : Nat) :
    mapGet d (mapSet d m n x) j = if j = n then x else mapGet d m j := by
  unfold mapSet
  by_cases hx : x = d
  · simp [hx, mapGet_mapDrop]
  · simp [hx, mapGet_mapPut]

@[simp] theorem mapGet_mapSet_same [DecidableEq α] (d : α) (m : SMap α) (n : Nat) (x : α) :
    mapGet d (mapSet d m n x) n = x := by simp [mapGet_mapSet]

theorem mapGet_mapSet_ne [DecidableEq α] (d : α) (m : SMap α) {n j : Nat} (x : α) (h : j ≠ n) :
    mapGet d (mapSet d m n x) j = mapGet d m j := by simp [mapGet_mapSet, h]

/-! ## The canonical form -/

/-- The canonical form as two facts about a list. -/
theorem mapWf_iff [DecidableEq α] (d : α) (m : SMap α) :
    mapWf d m = true ↔ (m.Pairwise fun a b => a.1 < b.1) ∧ ∀ e ∈ m, e.2 ≠ d := by
  induction m with
  | nil => simp [mapWf]
  | cons e m ih =>
    obtain ⟨k, v⟩ := e
    cases m with
    | nil => simp [mapWf]
    | cons e' m =>
      obtain ⟨k', v'⟩ := e'
      simp only [mapWf, Bool.and_eq_true, decide_eq_true_eq, ih, List.pairwise_cons, List.mem_cons]
      constructor
      · rintro ⟨⟨hv, hk⟩, ⟨⟨h1, h2⟩, h3⟩⟩
        refine ⟨⟨?_, h1, h2⟩, ?_⟩
        · rintro a (rfl | ha)
          · exact hk
          · exact Nat.lt_trans hk (h1 a ha)
        · rintro a (rfl | ha)
          · exact hv
          · exact h3 a ha
      · rintro ⟨⟨h0, h1, h2⟩, h3⟩
        exact ⟨⟨h3 (k, v) (Or.inl rfl), h0 (k', v') (Or.inl rfl)⟩, ⟨h1, h2⟩, fun a ha => h3 a (Or.inr ha)⟩

theorem mem_mapDrop (m : SMap α) (n : Nat) (e : Nat × α) (h : e ∈ mapDrop m n) : e ∈ m ∧ e.1 ≠ n := by
  induction m with
  | nil => simp [mapDrop] at h
  | cons a m ih =>
    obtain ⟨k, v⟩ := a
    simp only [mapDrop] at h
    by_cases hk : k = n
    · simp only [hk, if_true] at h
      exact ⟨List.mem_cons_of_mem _ (ih h).1, (ih h).2⟩
    · simp only [hk, if_false, List.mem_cons] at h
      rcases h with rfl | h
      · exact ⟨List.mem_cons_self, hk⟩
      · exact ⟨List.mem_cons_of_mem _ (ih h).1, (ih h).2⟩

theorem mem_mapPut (m : SMap α) (n : Nat) (x : α) (e : Nat × α) (h : e ∈ mapPut m n x) : e = (n, x) ∨ e ∈ m := by
  induction m with
  | nil => simpa [mapPut] using h
  | cons a m ih =>
    obtain ⟨k, v⟩ := a
    simp only [mapPut] at h
    by_cases hk : k = n
    · simp only [hk, if_true, List.mem_cons] at h
      rcases h with rfl | h
      · exact .inl rfl
      · exact .inr (List.mem_cons_of_mem _ h)
    · by_cases hlt : n < k
      · simp only [hk, hlt, if_true, if_false, List.mem_cons] at h
        rcases h with rfl | rfl | h
        · exact .inl rfl
        · exact .inr List.mem_cons_self
        · exact .inr (List.mem_cons_of_mem _ h)
      · simp only [hk, hlt, if_false, List.mem_cons] at h
        rcases h with rfl | h
        · exact .inr List.mem_cons_self
        · rcases ih h with rfl | h
          · exact .inl rfl
          · exact .inr (List.mem_cons_of_mem _ h)

theorem pairwise_mapDrop (m : SMap α) (n : Nat) (h : m.Pairwise fun a b => a.1 < b.1) :
    (mapDrop m n).Pairwise fun a b => a.1 < b.1 := by
  induction m with
  | nil => simp [mapDrop]
  | cons a m ih =>
    obtain ⟨k, v⟩ := a
    rw [List.pairwise_cons] at h
    simp only [mapDrop]
    by_cases hk : k = n
    · simpa [hk] using ih h.2
    · simp only [hk, if_false, List.pairwise_cons]
      exact ⟨fun e he => h.1 e (mem_mapDrop m n e he).1, ih h.2⟩

theorem pairwise_mapPut (m : SMap α) (n : Nat) (x : α) (h : m.Pairwise fun a b => a.1 < b.1) :
    (mapPut m n x).Pairwise fun a b => a.1 < b.1 := by
  induction m with
  | nil => simp [mapPut]
  | cons a m ih =>
    obtain ⟨k, v⟩ := a
    rw [List.pairwise_cons] at h
    simp only [mapPut]
    by_cases hk : k = n
    · subst hk
      simp only [if_true, List.pairwise_cons]
      exact ⟨h.1, h.2⟩
    · by_cases hlt : n < k
      · simp only [hk, hlt, if_true, if_false, List.pairwise_cons, List.mem_cons]
        refine ⟨?_, h.1, h.2⟩
        rintro e (rfl | he)
        · exact hlt
        · exact Nat.lt_trans hlt (h.1 e he)
      · simp only [hk, hlt, if_false, List.pairwise_cons]
        refine ⟨?_, ih h.2⟩
        intro e he
        rcases mem_mapPut m n x e he with rfl | he
        · exact Nat.lt_of_le_of_ne (Nat.le_of_not_lt hlt) hk
        · exact h.1 e he

/-- A write keeps the canonical form. -/
theorem mapWf_mapSet [DecidableEq α] (d : α) (m : SMap α) (n : Nat) (x : α) (h : mapWf d m = true) :
    mapWf d (mapSet d m n x) = true := by
  rw [mapWf_iff] at h ⊢
  unfold mapSet
  by_cases hx : x = d
  · simp only [hx, if_true]
    exact ⟨pairwise_mapDrop m n h.1, fun e he => h.2 e (mem_mapDrop m n e he).1⟩
  · simp only [hx, if_false]
    refine ⟨pairwise_mapPut m n x h.1, ?_⟩
    intro e he
    rcases mem_mapPut m n x e he with rfl | he
    · exact hx
    · exact h.2 e he

theorem mapWf_filter [DecidableEq α] (d : α) (m : SMap α) (p : Nat × α → Bool) (h : mapWf d m = true) :
    mapWf d (m.filter p) = true := by
  rw [mapWf_iff] at h ⊢
  exact ⟨h.1.filter p, fun e he => h.2 e (List.mem_filter.mp he).1⟩

theorem mapWf_mapClearRange [DecidableEq α] (d : α) (m : SMap α) (lo n : Nat) (h : mapWf d m = true) :
    mapWf d (mapClearRange m lo n) = true := mapWf_filter d m _ h

theorem mapWf_mapRange [DecidableEq α] (d : α) (m : SMap α) (lo n : Nat) (h : mapWf d m = true) :
    mapWf d (mapRange m lo n) = true := mapWf_filter d m _ h

/-- A run of writes keeps the canonical form. -/
theorem mapWf_foldl_mapSet {β : Type} [DecidableEq α] (d : α) (key : β → Nat) (val : β → α) (xs : List β) (m : SMap α)
    (h : mapWf d m = true) : mapWf d (xs.foldl (fun m e => mapSet d m (key e) (val e)) m) = true := by
  induction xs generalizing m with
  | nil => exact h
  | cons x xs ih => exact ih _ (mapWf_mapSet d m _ _ h)

theorem mapWf_writeBytes (m : SMap Byte) (a : Nat) (bs : List Byte) (h : mapWf 0 m = true) :
    mapWf 0 (writeBytes m a bs) = true := by
  induction bs generalizing m a with
  | nil => exact h
  | cons b bs ih => exact ih _ _ (mapWf_mapSet 0 m a b h)

/-! ## Bytes -/

/-- A byte read after bytes are written: the byte written there, or the byte that stood there. -/
theorem mapGet_writeBytes (m : SMap Byte) (a : Nat) (bs : List Byte) (j : Nat) :
    mapGet 0 (writeBytes m a bs) j = if a ≤ j ∧ j < a + bs.length then (bs[j - a]?).getD 0 else mapGet 0 m j := by
  induction bs generalizing m a with
  | nil => simp [writeBytes] <;> omega
  | cons b bs ih =>
    rw [writeBytes, ih, mapGet_mapSet]
    by_cases h1 : j = a
    · subst h1
      rw [if_neg (by omega), if_pos (by simp)]
      simp
    · by_cases h2 : a + 1 ≤ j ∧ j < a + 1 + bs.length
      · have h3 : a ≤ j ∧ j < a + (b :: bs).length := by simp; omega
        have h4 : j - a = (j - (a + 1)) + 1 := by omega
        rw [if_pos h2, if_pos h3, h4, List.getElem?_cons_succ]
      · have h3 : ¬(a ≤ j ∧ j < a + (b :: bs).length) := by simp; omega
        rw [if_neg h2, if_neg h3, if_neg h1]

end Sys2Proof.Machine
end

