-- ==== Sys2Proof/Laws/State.lean ====
section
/-! SUPPORT. One lemma for each field of each named update of the state, and the accessors after it. -/
namespace Sys2Proof.Machine

/-! ## setCore -/

@[simp] theorem setCore_gauge (s : State) (k : Nat) (c : CoreSt) : (setCore s k c).gauge = s.gauge := rfl
@[simp] theorem setCore_agenda (s : State) (k : Nat) (c : CoreSt) : (setCore s k c).agenda = s.agenda := rfl
@[simp] theorem setCore_inputs (s : State) (k : Nat) (c : CoreSt) : (setCore s k c).inputs = s.inputs := rfl
@[simp] theorem setCore_tape (s : State) (k : Nat) (c : CoreSt) : (setCore s k c).tape = s.tape := rfl
@[simp] theorem setCore_draws (s : State) (k : Nat) (c : CoreSt) : (setCore s k c).draws = s.draws := rfl
@[simp] theorem setCore_outbox (s : State) (k : Nat) (c : CoreSt) : (setCore s k c).outbox = s.outbox := rfl
@[simp] theorem setCore_seq (s : State) (k : Nat) (c : CoreSt) : (setCore s k c).seq = s.seq := rfl
@[simp] theorem setCore_cur (s : State) (k : Nat) (c : CoreSt) : (setCore s k c).cur = s.cur := rfl
@[simp] theorem setCore_pipes (s : State) (k : Nat) (c : CoreSt) : (setCore s k c).pipes = s.pipes := rfl
@[simp] theorem setCore_confs (s : State) (k : Nat) (c : CoreSt) : (setCore s k c).confs = s.confs := rfl
@[simp] theorem setCore_ferries (s : State) (k : Nat) (c : CoreSt) : (setCore s k c).ferries = s.ferries := rfl
@[simp] theorem setCore_streams (s : State) (k : Nat) (c : CoreSt) : (setCore s k c).streams = s.streams := rfl
@[simp] theorem setCore_rings (s : State) (k : Nat) (c : CoreSt) : (setCore s k c).rings = s.rings := rfl
@[simp] theorem setCore_gangs (s : State) (k : Nat) (c : CoreSt) : (setCore s k c).gangs = s.gangs := rfl
@[simp] theorem setCore_gangKey (s : State) (k : Nat) (c : CoreSt) : (setCore s k c).gangKey = s.gangKey := rfl
@[simp] theorem setCore_done (s : State) (k : Nat) (c : CoreSt) : (setCore s k c).done = s.done := rfl
@[simp] theorem setCore_cards (s : State) (k : Nat) (c : CoreSt) : (setCore s k c).cards = s.cards := rfl
@[simp] theorem setCore_lastAdmitted (s : State) (k : Nat) (c : CoreSt) : (setCore s k c).lastAdmitted = s.lastAdmitted := rfl
@[simp] theorem setCore_reserving (s : State) (k : Nat) (c : CoreSt) : (setCore s k c).reserving = s.reserving := rfl
@[simp] theorem setCore_reserveOpen (s : State) (k : Nat) (c : CoreSt) : (setCore s k c).reserveOpen = s.reserveOpen := rfl
@[simp] theorem setCore_reserveSamples (s : State) (k : Nat) (c : CoreSt) : (setCore s k c).reserveSamples = s.reserveSamples := rfl
@[simp] theorem setCore_aging (s : State) (k : Nat) (c : CoreSt) : (setCore s k c).aging = s.aging := rfl
@[simp] theorem setCore_ckpts (s : State) (k : Nat) (c : CoreSt) : (setCore s k c).ckpts = s.ckpts := rfl
@[simp] theorem setCore_dram (s : State) (k : Nat) (c : CoreSt) : (setCore s k c).dram = s.dram := rfl
@[simp] theorem setCore_badSectors (s : State) (k : Nat) (c : CoreSt) : (setCore s k c).badSectors = s.badSectors := rfl
@[simp] theorem setCore_corrected (s : State) (k : Nat) (c : CoreSt) : (setCore s k c).corrected = s.corrected := rfl
@[simp] theorem setCore_roots (s : State) (k : Nat) (c : CoreSt) : (setCore s k c).roots = s.roots := rfl
@[simp] theorem setCore_tables (s : State) (k : Nat) (c : CoreSt) : (setCore s k c).tables = s.tables := rfl
@[simp] theorem setCore_leafs (s : State) (k : Nat) (c : CoreSt) : (setCore s k c).leafs = s.leafs := rfl
@[simp] theorem setCore_buffers (s : State) (k : Nat) (c : CoreSt) : (setCore s k c).buffers = s.buffers := rfl
@[simp] theorem setCore_newEnc (s : State) (k : Nat) (c : CoreSt) : (setCore s k c).newEnc = s.newEnc := rfl
@[simp] theorem setCore_kv (s : State) (k : Nat) (c : CoreSt) : (setCore s k c).kv = s.kv := rfl
@[simp] theorem setCore_blocks (s : State) (k : Nat) (c : CoreSt) : (setCore s k c).blocks = s.blocks := rfl
@[simp] theorem setCore_pools (s : State) (k : Nat) (c : CoreSt) : (setCore s k c).pools = s.pools := rfl
@[simp] theorem setCore_migrations (s : State) (k : Nat) (c : CoreSt) : (setCore s k c).migrations = s.migrations := rfl
@[simp] theorem setCore_windows (s : State) (k : Nat) (c : CoreSt) : (setCore s k c).windows = s.windows := rfl
@[simp] theorem setCore_ready (s : State) (k : Nat) (c : CoreSt) : (setCore s k c).ready = s.ready := rfl
@[simp] theorem setCore_unsync (s : State) (k : Nat) (c : CoreSt) : (setCore s k c).unsync = s.unsync := rfl
@[simp] theorem setCore_owner (s : State) (k : Nat) (c : CoreSt) : (setCore s k c).owner = s.owner := rfl
@[simp] theorem setCore_stage (s : State) (k : Nat) (c : CoreSt) : (setCore s k c).stage = s.stage := rfl
@[simp] theorem setCore_merr (s : State) (k : Nat) (c : CoreSt) : (setCore s k c).merr = s.merr := rfl
@[simp] theorem setCore_chip (s : State) (k : Nat) (c : CoreSt) : (setCore s k c).chip = s.chip := rfl
@[simp] theorem setCore_temp (s : State) (k : Nat) (c : CoreSt) : (setCore s k c).temp = s.temp := rfl
@[simp] theorem setCore_vmin (s : State) (k : Nat) (c : CoreSt) : (setCore s k c).vmin = s.vmin := rfl
@[simp] theorem setCore_proc (s : State) (k : Nat) (c : CoreSt) : (setCore s k c).proc = s.proc := rfl
@[simp] theorem setCore_hot (s : State) (k : Nat) (c : CoreSt) : (setCore s k c).hot = s.hot := rfl
@[simp] theorem setCore_crit (s : State) (k : Nat) (c : CoreSt) : (setCore s k c).crit = s.crit := rfl
@[simp] theorem setCore_mhz (s : State) (k : Nat) (c : CoreSt) : (setCore s k c).mhz = s.mhz := rfl
@[simp] theorem setCore_links (s : State) (k : Nat) (c : CoreSt) : (setCore s k c).links = s.links := rfl
@[simp] theorem setCore_routes (s : State) (k : Nat) (c : CoreSt) : (setCore s k c).routes = s.routes := rfl
@[simp] theorem setCore_hostLinks (s : State) (k : Nat) (c : CoreSt) : (setCore s k c).hostLinks = s.hostLinks := rfl
@[simp] theorem setCore_quarantine (s : State) (k : Nat) (c : CoreSt) : (setCore s k c).quarantine = s.quarantine := rfl
@[simp] theorem setCore_refGauge (s : State) (k : Nat) (c : CoreSt) : (setCore s k c).refGauge = s.refGauge := rfl
@[simp] theorem setCore_bootFails (s : State) (k : Nat) (c : CoreSt) : (setCore s k c).bootFails = s.bootFails := rfl
@[simp] theorem setCore_boot (s : State) (k : Nat) (c : CoreSt) : (setCore s k c).boot = s.boot := rfl
@[simp] theorem setCore_bootHeld (s : State) (k : Nat) (c : CoreSt) : (setCore s k c).bootHeld = s.bootHeld := rfl
@[simp] theorem setCore_image (s : State) (k : Nat) (c : CoreSt) : (setCore s k c).image = s.image := rfl
@[simp] theorem setCore_identity (s : State) (k : Nat) (c : CoreSt) : (setCore s k c).identity = s.identity := rfl
@[simp] theorem setCore_standby (s : State) (k : Nat) (c : CoreSt) : (setCore s k c).standby = s.standby := rfl

/-! ## modCore -/

@[simp] theorem modCore_gauge (s : State) (k : Nat) (f : CoreSt → CoreSt) : (modCore s k f).gauge = s.gauge := rfl
@[simp] theorem modCore_agenda (s : State) (k : Nat) (f : CoreSt → CoreSt) : (modCore s k f).agenda = s.agenda := rfl
@[simp] theorem modCore_inputs (s : State) (k : Nat) (f : CoreSt → CoreSt) : (modCore s k f).inputs = s.inputs := rfl
@[simp] theorem modCore_tape (s : State) (k : Nat) (f : CoreSt → CoreSt) : (modCore s k f).tape = s.tape := rfl
@[simp] theorem modCore_draws (s : State) (k : Nat) (f : CoreSt → CoreSt) : (modCore s k f).draws = s.draws := rfl
@[simp] theorem modCore_outbox (s : State) (k : Nat) (f : CoreSt → CoreSt) : (modCore s k f).outbox = s.outbox := rfl
@[simp] theorem modCore_seq (s : State) (k : Nat) (f : CoreSt → CoreSt) : (modCore s k f).seq = s.seq := rfl
@[simp] theorem modCore_cur (s : State) (k : Nat) (f : CoreSt → CoreSt) : (modCore s k f).cur = s.cur := rfl
@[simp] theorem modCore_pipes (s : State) (k : Nat) (f : CoreSt → CoreSt) : (modCore s k f).pipes = s.pipes := rfl
@[simp] theorem modCore_confs (s : State) (k : Nat) (f : CoreSt → CoreSt) : (modCore s k f).confs = s.confs := rfl
@[simp] theorem modCore_ferries (s : State) (k : Nat) (f : CoreSt → CoreSt) : (modCore s k f).ferries = s.ferries := rfl
@[simp] theorem modCore_streams (s : State) (k : Nat) (f : CoreSt → CoreSt) : (modCore s k f).streams = s.streams := rfl
@[simp] theorem modCore_rings (s : State) (k : Nat) (f : CoreSt → CoreSt) : (modCore s k f).rings = s.rings := rfl
@[simp] theorem modCore_gangs (s : State) (k : Nat) (f : CoreSt → CoreSt) : (modCore s k f).gangs = s.gangs := rfl
@[simp] theorem modCore_gangKey (s : State) (k : Nat) (f : CoreSt → CoreSt) : (modCore s k f).gangKey = s.gangKey := rfl
@[simp] theorem modCore_done (s : State) (k : Nat) (f : CoreSt → CoreSt) : (modCore s k f).done = s.done := rfl
@[simp] theorem modCore_cards (s : State) (k : Nat) (f : CoreSt → CoreSt) : (modCore s k f).cards = s.cards := rfl
@[simp] theorem modCore_lastAdmitted (s : State) (k : Nat) (f : CoreSt → CoreSt) : (modCore s k f).lastAdmitted = s.lastAdmitted := rfl
@[simp] theorem modCore_reserving (s : State) (k : Nat) (f : CoreSt → CoreSt) : (modCore s k f).reserving = s.reserving := rfl
@[simp] theorem modCore_reserveOpen (s : State) (k : Nat) (f : CoreSt → CoreSt) : (modCore s k f).reserveOpen = s.reserveOpen := rfl
@[simp] theorem modCore_reserveSamples (s : State) (k : Nat) (f : CoreSt → CoreSt) : (modCore s k f).reserveSamples = s.reserveSamples := rfl
@[simp] theorem modCore_aging (s : State) (k : Nat) (f : CoreSt → CoreSt) : (modCore s k f).aging = s.aging := rfl
@[simp] theorem modCore_ckpts (s : State) (k : Nat) (f : CoreSt → CoreSt) : (modCore s k f).ckpts = s.ckpts := rfl
@[simp] theorem modCore_dram (s : State) (k : Nat) (f : CoreSt → CoreSt) : (modCore s k f).dram = s.dram := rfl
@[simp] theorem modCore_badSectors (s : State) (k : Nat) (f : CoreSt → CoreSt) : (modCore s k f).badSectors = s.badSectors := rfl
@[simp] theorem modCore_corrected (s : State) (k : Nat) (f : CoreSt → CoreSt) : (modCore s k f).corrected = s.corrected := rfl
@[simp] theorem modCore_roots (s : State) (k : Nat) (f : CoreSt → CoreSt) : (modCore s k f).roots = s.roots := rfl
@[simp] theorem modCore_tables (s : State) (k : Nat) (f : CoreSt → CoreSt) : (modCore s k f).tables = s.tables := rfl
@[simp] theorem modCore_leafs (s : State) (k : Nat) (f : CoreSt → CoreSt) : (modCore s k f).leafs = s.leafs := rfl
@[simp] theorem modCore_buffers (s : State) (k : Nat) (f : CoreSt → CoreSt) : (modCore s k f).buffers = s.buffers := rfl
@[simp] theorem modCore_newEnc (s : State) (k : Nat) (f : CoreSt → CoreSt) : (modCore s k f).newEnc = s.newEnc := rfl
@[simp] theorem modCore_kv (s : State) (k : Nat) (f : CoreSt → CoreSt) : (modCore s k f).kv = s.kv := rfl
@[simp] theorem modCore_blocks (s : State) (k : Nat) (f : CoreSt → CoreSt) : (modCore s k f).blocks = s.blocks := rfl
@[simp] theorem modCore_pools (s : State) (k : Nat) (f : CoreSt → CoreSt) : (modCore s k f).pools = s.pools := rfl
@[simp] theorem modCore_migrations (s : State) (k : Nat) (f : CoreSt → CoreSt) : (modCore s k f).migrations = s.migrations := rfl
@[simp] theorem modCore_windows (s : State) (k : Nat) (f : CoreSt → CoreSt) : (modCore s k f).windows = s.windows := rfl
@[simp] theorem modCore_ready (s : State) (k : Nat) (f : CoreSt → CoreSt) : (modCore s k f).ready = s.ready := rfl
@[simp] theorem modCore_unsync (s : State) (k : Nat) (f : CoreSt → CoreSt) : (modCore s k f).unsync = s.unsync := rfl
@[simp] theorem modCore_owner (s : State) (k : Nat) (f : CoreSt → CoreSt) : (modCore s k f).owner = s.owner := rfl
@[simp] theorem modCore_stage (s : State) (k : Nat) (f : CoreSt → CoreSt) : (modCore s k f).stage = s.stage := rfl
@[simp] theorem modCore_merr (s : State) (k : Nat) (f : CoreSt → CoreSt) : (modCore s k f).merr = s.merr := rfl
@[simp] theorem modCore_chip (s : State) (k : Nat) (f : CoreSt → CoreSt) : (modCore s k f).chip = s.chip := rfl
@[simp] theorem modCore_temp (s : State) (k : Nat) (f : CoreSt → CoreSt) : (modCore s k f).temp = s.temp := rfl
@[simp] theorem modCore_vmin (s : State) (k : Nat) (f : CoreSt → CoreSt) : (modCore s k f).vmin = s.vmin := rfl
@[simp] theorem modCore_proc (s : State) (k : Nat) (f : CoreSt → CoreSt) : (modCore s k f).proc = s.proc := rfl
@[simp] theorem modCore_hot (s : State) (k : Nat) (f : CoreSt → CoreSt) : (modCore s k f).hot = s.hot := rfl
@[simp] theorem modCore_crit (s : State) (k : Nat) (f : CoreSt → CoreSt) : (modCore s k f).crit = s.crit := rfl
@[simp] theorem modCore_mhz (s : State) (k : Nat) (f : CoreSt → CoreSt) : (modCore s k f).mhz = s.mhz := rfl
@[simp] theorem modCore_links (s : State) (k : Nat) (f : CoreSt → CoreSt) : (modCore s k f).links = s.links := rfl
@[simp] theorem modCore_routes (s : State) (k : Nat) (f : CoreSt → CoreSt) : (modCore s k f).routes = s.routes := rfl
@[simp] theorem modCore_hostLinks (s : State) (k : Nat) (f : CoreSt → CoreSt) : (modCore s k f).hostLinks = s.hostLinks := rfl
@[simp] theorem modCore_quarantine (s : State) (k : Nat) (f : CoreSt → CoreSt) : (modCore s k f).quarantine = s.quarantine := rfl
@[simp] theorem modCore_refGauge (s : State) (k : Nat) (f : CoreSt → CoreSt) : (modCore s k f).refGauge = s.refGauge := rfl
@[simp] theorem modCore_bootFails (s : State) (k : Nat) (f : CoreSt → CoreSt) : (modCore s k f).bootFails = s.bootFails := rfl
@[simp] theorem modCore_boot (s : State) (k : Nat) (f : CoreSt → CoreSt) : (modCore s k f).boot = s.boot := rfl
@[simp] theorem modCore_bootHeld (s : State) (k : Nat) (f : CoreSt → CoreSt) : (modCore s k f).bootHeld = s.bootHeld := rfl
@[simp] theorem modCore_image (s : State) (k : Nat) (f : CoreSt → CoreSt) : (modCore s k f).image = s.image := rfl
@[simp] theorem modCore_identity (s : State) (k : Nat) (f : CoreSt → CoreSt) : (modCore s k f).identity = s.identity := rfl
@[simp] theorem modCore_standby (s : State) (k : Nat) (f : CoreSt → CoreSt) : (modCore s k f).standby = s.standby := rfl

/-! ## setCtx -/

@[simp] theorem setCtx_gauge (s : State) (k x : Nat) (c : Ctx) : (setCtx s k x c).gauge = s.gauge := rfl
@[simp] theorem setCtx_agenda (s : State) (k x : Nat) (c : Ctx) : (setCtx s k x c).agenda = s.agenda := rfl
@[simp] theorem setCtx_inputs (s : State) (k x : Nat) (c : Ctx) : (setCtx s k x c).inputs = s.inputs := rfl
@[simp] theorem setCtx_tape (s : State) (k x : Nat) (c : Ctx) : (setCtx s k x c).tape = s.tape := rfl
@[simp] theorem setCtx_draws (s : State) (k x : Nat) (c : Ctx) : (setCtx s k x c).draws = s.draws := rfl
@[simp] theorem setCtx_outbox (s : State) (k x : Nat) (c : Ctx) : (setCtx s k x c).outbox = s.outbox := rfl
@[simp] theorem setCtx_seq (s : State) (k x : Nat) (c : Ctx) : (setCtx s k x c).seq = s.seq := rfl
@[simp] theorem setCtx_cur (s : State) (k x : Nat) (c : Ctx) : (setCtx s k x c).cur = s.cur := rfl
@[simp] theorem setCtx_pipes (s : State) (k x : Nat) (c : Ctx) : (setCtx s k x c).pipes = s.pipes := rfl
@[simp] theorem setCtx_confs (s : State) (k x : Nat) (c : Ctx) : (setCtx s k x c).confs = s.confs := rfl
@[simp] theorem setCtx_ferries (s : State) (k x : Nat) (c : Ctx) : (setCtx s k x c).ferries = s.ferries := rfl
@[simp] theorem setCtx_streams (s : State) (k x : Nat) (c : Ctx) : (setCtx s k x c).streams = s.streams := rfl
@[simp] theorem setCtx_rings (s : State) (k x : Nat) (c : Ctx) : (setCtx s k x c).rings = s.rings := rfl
@[simp] theorem setCtx_gangs (s : State) (k x : Nat) (c : Ctx) : (setCtx s k x c).gangs = s.gangs := rfl
@[simp] theorem setCtx_gangKey (s : State) (k x : Nat) (c : Ctx) : (setCtx s k x c).gangKey = s.gangKey := rfl
@[simp] theorem setCtx_done (s : State) (k x : Nat) (c : Ctx) : (setCtx s k x c).done = s.done := rfl
@[simp] theorem setCtx_cards (s : State) (k x : Nat) (c : Ctx) : (setCtx s k x c).cards = s.cards := rfl
@[simp] theorem setCtx_lastAdmitted (s : State) (k x : Nat) (c : Ctx) : (setCtx s k x c).lastAdmitted = s.lastAdmitted := rfl
@[simp] theorem setCtx_reserving (s : State) (k x : Nat) (c : Ctx) : (setCtx s k x c).reserving = s.reserving := rfl
@[simp] theorem setCtx_reserveOpen (s : State) (k x : Nat) (c : Ctx) : (setCtx s k x c).reserveOpen = s.reserveOpen := rfl
@[simp] theorem setCtx_reserveSamples (s : State) (k x : Nat) (c : Ctx) : (setCtx s k x c).reserveSamples = s.reserveSamples := rfl
@[simp] theorem setCtx_aging (s : State) (k x : Nat) (c : Ctx) : (setCtx s k x c).aging = s.aging := rfl
@[simp] theorem setCtx_ckpts (s : State) (k x : Nat) (c : Ctx) : (setCtx s k x c).ckpts = s.ckpts := rfl
@[simp] theorem setCtx_dram (s : State) (k x : Nat) (c : Ctx) : (setCtx s k x c).dram = s.dram := rfl
@[simp] theorem setCtx_badSectors (s : State) (k x : Nat) (c : Ctx) : (setCtx s k x c).badSectors = s.badSectors := rfl
@[simp] theorem setCtx_corrected (s : State) (k x : Nat) (c : Ctx) : (setCtx s k x c).corrected = s.corrected := rfl
@[simp] theorem setCtx_roots (s : State) (k x : Nat) (c : Ctx) : (setCtx s k x c).roots = s.roots := rfl
@[simp] theorem setCtx_tables (s : State) (k x : Nat) (c : Ctx) : (setCtx s k x c).tables = s.tables := rfl
@[simp] theorem setCtx_leafs (s : State) (k x : Nat) (c : Ctx) : (setCtx s k x c).leafs = s.leafs := rfl
@[simp] theorem setCtx_buffers (s : State) (k x : Nat) (c : Ctx) : (setCtx s k x c).buffers = s.buffers := rfl
@[simp] theorem setCtx_newEnc (s : State) (k x : Nat) (c : Ctx) : (setCtx s k x c).newEnc = s.newEnc := rfl
@[simp] theorem setCtx_kv (s : State) (k x : Nat) (c : Ctx) : (setCtx s k x c).kv = s.kv := rfl
@[simp] theorem setCtx_blocks (s : State) (k x : Nat) (c : Ctx) : (setCtx s k x c).blocks = s.blocks := rfl
@[simp] theorem setCtx_pools (s : State) (k x : Nat) (c : Ctx) : (setCtx s k x c).pools = s.pools := rfl
@[simp] theorem setCtx_migrations (s : State) (k x : Nat) (c : Ctx) : (setCtx s k x c).migrations = s.migrations := rfl
@[simp] theorem setCtx_windows (s : State) (k x : Nat) (c : Ctx) : (setCtx s k x c).windows = s.windows := rfl
@[simp] theorem setCtx_ready (s : State) (k x : Nat) (c : Ctx) : (setCtx s k x c).ready = s.ready := rfl
@[simp] theorem setCtx_unsync (s : State) (k x : Nat) (c : Ctx) : (setCtx s k x c).unsync = s.unsync := rfl
@[simp] theorem setCtx_owner (s : State) (k x : Nat) (c : Ctx) : (setCtx s k x c).owner = s.owner := rfl
@[simp] theorem setCtx_stage (s : State) (k x : Nat) (c : Ctx) : (setCtx s k x c).stage = s.stage := rfl
@[simp] theorem setCtx_merr (s : State) (k x : Nat) (c : Ctx) : (setCtx s k x c).merr = s.merr := rfl
@[simp] theorem setCtx_chip (s : State) (k x : Nat) (c : Ctx) : (setCtx s k x c).chip = s.chip := rfl
@[simp] theorem setCtx_temp (s : State) (k x : Nat) (c : Ctx) : (setCtx s k x c).temp = s.temp := rfl
@[simp] theorem setCtx_vmin (s : State) (k x : Nat) (c : Ctx) : (setCtx s k x c).vmin = s.vmin := rfl
@[simp] theorem setCtx_proc (s : State) (k x : Nat) (c : Ctx) : (setCtx s k x c).proc = s.proc := rfl
@[simp] theorem setCtx_hot (s : State) (k x : Nat) (c : Ctx) : (setCtx s k x c).hot = s.hot := rfl
@[simp] theorem setCtx_crit (s : State) (k x : Nat) (c : Ctx) : (setCtx s k x c).crit = s.crit := rfl
@[simp] theorem setCtx_mhz (s : State) (k x : Nat) (c : Ctx) : (setCtx s k x c).mhz = s.mhz := rfl
@[simp] theorem setCtx_links (s : State) (k x : Nat) (c : Ctx) : (setCtx s k x c).links = s.links := rfl
@[simp] theorem setCtx_routes (s : State) (k x : Nat) (c : Ctx) : (setCtx s k x c).routes = s.routes := rfl
@[simp] theorem setCtx_hostLinks (s : State) (k x : Nat) (c : Ctx) : (setCtx s k x c).hostLinks = s.hostLinks := rfl
@[simp] theorem setCtx_quarantine (s : State) (k x : Nat) (c : Ctx) : (setCtx s k x c).quarantine = s.quarantine := rfl
@[simp] theorem setCtx_refGauge (s : State) (k x : Nat) (c : Ctx) : (setCtx s k x c).refGauge = s.refGauge := rfl
@[simp] theorem setCtx_bootFails (s : State) (k x : Nat) (c : Ctx) : (setCtx s k x c).bootFails = s.bootFails := rfl
@[simp] theorem setCtx_boot (s : State) (k x : Nat) (c : Ctx) : (setCtx s k x c).boot = s.boot := rfl
@[simp] theorem setCtx_bootHeld (s : State) (k x : Nat) (c : Ctx) : (setCtx s k x c).bootHeld = s.bootHeld := rfl
@[simp] theorem setCtx_image (s : State) (k x : Nat) (c : Ctx) : (setCtx s k x c).image = s.image := rfl
@[simp] theorem setCtx_identity (s : State) (k x : Nat) (c : Ctx) : (setCtx s k x c).identity = s.identity := rfl
@[simp] theorem setCtx_standby (s : State) (k x : Nat) (c : Ctx) : (setCtx s k x c).standby = s.standby := rfl

/-! ## modCtx -/

@[simp] theorem modCtx_gauge (s : State) (k x : Nat) (f : Ctx → Ctx) : (modCtx s k x f).gauge = s.gauge := rfl
@[simp] theorem modCtx_agenda (s : State) (k x : Nat) (f : Ctx → Ctx) : (modCtx s k x f).agenda = s.agenda := rfl
@[simp] theorem modCtx_inputs (s : State) (k x : Nat) (f : Ctx → Ctx) : (modCtx s k x f).inputs = s.inputs := rfl
@[simp] theorem modCtx_tape (s : State) (k x : Nat) (f : Ctx → Ctx) : (modCtx s k x f).tape = s.tape := rfl
@[simp] theorem modCtx_draws (s : State) (k x : Nat) (f : Ctx → Ctx) : (modCtx s k x f).draws = s.draws := rfl
@[simp] theorem modCtx_outbox (s : State) (k x : Nat) (f : Ctx → Ctx) : (modCtx s k x f).outbox = s.outbox := rfl
@[simp] theorem modCtx_seq (s : State) (k x : Nat) (f : Ctx → Ctx) : (modCtx s k x f).seq = s.seq := rfl
@[simp] theorem modCtx_cur (s : State) (k x : Nat) (f : Ctx → Ctx) : (modCtx s k x f).cur = s.cur := rfl
@[simp] theorem modCtx_pipes (s : State) (k x : Nat) (f : Ctx → Ctx) : (modCtx s k x f).pipes = s.pipes := rfl
@[simp] theorem modCtx_confs (s : State) (k x : Nat) (f : Ctx → Ctx) : (modCtx s k x f).confs = s.confs := rfl
@[simp] theorem modCtx_ferries (s : State) (k x : Nat) (f : Ctx → Ctx) : (modCtx s k x f).ferries = s.ferries := rfl
@[simp] theorem modCtx_streams (s : State) (k x : Nat) (f : Ctx → Ctx) : (modCtx s k x f).streams = s.streams := rfl
@[simp] theorem modCtx_rings (s : State) (k x : Nat) (f : Ctx → Ctx) : (modCtx s k x f).rings = s.rings := rfl
@[simp] theorem modCtx_gangs (s : State) (k x : Nat) (f : Ctx → Ctx) : (modCtx s k x f).gangs = s.gangs := rfl
@[simp] theorem modCtx_gangKey (s : State) (k x : Nat) (f : Ctx → Ctx) : (modCtx s k x f).gangKey = s.gangKey := rfl
@[simp] theorem modCtx_done (s : State) (k x : Nat) (f : Ctx → Ctx) : (modCtx s k x f).done = s.done := rfl
@[simp] theorem modCtx_cards (s : State) (k x : Nat) (f : Ctx → Ctx) : (modCtx s k x f).cards = s.cards := rfl
@[simp] theorem modCtx_lastAdmitted (s : State) (k x : Nat) (f : Ctx → Ctx) : (modCtx s k x f).lastAdmitted = s.lastAdmitted := rfl
@[simp] theorem modCtx_reserving (s : State) (k x : Nat) (f : Ctx → Ctx) : (modCtx s k x f).reserving = s.reserving := rfl
@[simp] theorem modCtx_reserveOpen (s : State) (k x : Nat) (f : Ctx → Ctx) : (modCtx s k x f).reserveOpen = s.reserveOpen := rfl
@[simp] theorem modCtx_reserveSamples (s : State) (k x : Nat) (f : Ctx → Ctx) : (modCtx s k x f).reserveSamples = s.reserveSamples := rfl
@[simp] theorem modCtx_aging (s : State) (k x : Nat) (f : Ctx → Ctx) : (modCtx s k x f).aging = s.aging := rfl
@[simp] theorem modCtx_ckpts (s : State) (k x : Nat) (f : Ctx → Ctx) : (modCtx s k x f).ckpts = s.ckpts := rfl
@[simp] theorem modCtx_dram (s : State) (k x : Nat) (f : Ctx → Ctx) : (modCtx s k x f).dram = s.dram := rfl
@[simp] theorem modCtx_badSectors (s : State) (k x : Nat) (f : Ctx → Ctx) : (modCtx s k x f).badSectors = s.badSectors := rfl
@[simp] theorem modCtx_corrected (s : State) (k x : Nat) (f : Ctx → Ctx) : (modCtx s k x f).corrected = s.corrected := rfl
@[simp] theorem modCtx_roots (s : State) (k x : Nat) (f : Ctx → Ctx) : (modCtx s k x f).roots = s.roots := rfl
@[simp] theorem modCtx_tables (s : State) (k x : Nat) (f : Ctx → Ctx) : (modCtx s k x f).tables = s.tables := rfl
@[simp] theorem modCtx_leafs (s : State) (k x : Nat) (f : Ctx → Ctx) : (modCtx s k x f).leafs = s.leafs := rfl
@[simp] theorem modCtx_buffers (s : State) (k x : Nat) (f : Ctx → Ctx) : (modCtx s k x f).buffers = s.buffers := rfl
@[simp] theorem modCtx_newEnc (s : State) (k x : Nat) (f : Ctx → Ctx) : (modCtx s k x f).newEnc = s.newEnc := rfl
@[simp] theorem modCtx_kv (s : State) (k x : Nat) (f : Ctx → Ctx) : (modCtx s k x f).kv = s.kv := rfl
@[simp] theorem modCtx_blocks (s : State) (k x : Nat) (f : Ctx → Ctx) : (modCtx s k x f).blocks = s.blocks := rfl
@[simp] theorem modCtx_pools (s : State) (k x : Nat) (f : Ctx → Ctx) : (modCtx s k x f).pools = s.pools := rfl
@[simp] theorem modCtx_migrations (s : State) (k x : Nat) (f : Ctx → Ctx) : (modCtx s k x f).migrations = s.migrations := rfl
@[simp] theorem modCtx_windows (s : State) (k x : Nat) (f : Ctx → Ctx) : (modCtx s k x f).windows = s.windows := rfl
@[simp] theorem modCtx_ready (s : State) (k x : Nat) (f : Ctx → Ctx) : (modCtx s k x f).ready = s.ready := rfl
@[simp] theorem modCtx_unsync (s : State) (k x : Nat) (f : Ctx → Ctx) : (modCtx s k x f).unsync = s.unsync := rfl
@[simp] theorem modCtx_owner (s : State) (k x : Nat) (f : Ctx → Ctx) : (modCtx s k x f).owner = s.owner := rfl
@[simp] theorem modCtx_stage (s : State) (k x : Nat) (f : Ctx → Ctx) : (modCtx s k x f).stage = s.stage := rfl
@[simp] theorem modCtx_merr (s : State) (k x : Nat) (f : Ctx → Ctx) : (modCtx s k x f).merr = s.merr := rfl
@[simp] theorem modCtx_chip (s : State) (k x : Nat) (f : Ctx → Ctx) : (modCtx s k x f).chip = s.chip := rfl
@[simp] theorem modCtx_temp (s : State) (k x : Nat) (f : Ctx → Ctx) : (modCtx s k x f).temp = s.temp := rfl
@[simp] theorem modCtx_vmin (s : State) (k x : Nat) (f : Ctx → Ctx) : (modCtx s k x f).vmin = s.vmin := rfl
@[simp] theorem modCtx_proc (s : State) (k x : Nat) (f : Ctx → Ctx) : (modCtx s k x f).proc = s.proc := rfl
@[simp] theorem modCtx_hot (s : State) (k x : Nat) (f : Ctx → Ctx) : (modCtx s k x f).hot = s.hot := rfl
@[simp] theorem modCtx_crit (s : State) (k x : Nat) (f : Ctx → Ctx) : (modCtx s k x f).crit = s.crit := rfl
@[simp] theorem modCtx_mhz (s : State) (k x : Nat) (f : Ctx → Ctx) : (modCtx s k x f).mhz = s.mhz := rfl
@[simp] theorem modCtx_links (s : State) (k x : Nat) (f : Ctx → Ctx) : (modCtx s k x f).links = s.links := rfl
@[simp] theorem modCtx_routes (s : State) (k x : Nat) (f : Ctx → Ctx) : (modCtx s k x f).routes = s.routes := rfl
@[simp] theorem modCtx_hostLinks (s : State) (k x : Nat) (f : Ctx → Ctx) : (modCtx s k x f).hostLinks = s.hostLinks := rfl
@[simp] theorem modCtx_quarantine (s : State) (k x : Nat) (f : Ctx → Ctx) : (modCtx s k x f).quarantine = s.quarantine := rfl
@[simp] theorem modCtx_refGauge (s : State) (k x : Nat) (f : Ctx → Ctx) : (modCtx s k x f).refGauge = s.refGauge := rfl
@[simp] theorem modCtx_bootFails (s : State) (k x : Nat) (f : Ctx → Ctx) : (modCtx s k x f).bootFails = s.bootFails := rfl
@[simp] theorem modCtx_boot (s : State) (k x : Nat) (f : Ctx → Ctx) : (modCtx s k x f).boot = s.boot := rfl
@[simp] theorem modCtx_bootHeld (s : State) (k x : Nat) (f : Ctx → Ctx) : (modCtx s k x f).bootHeld = s.bootHeld := rfl
@[simp] theorem modCtx_image (s : State) (k x : Nat) (f : Ctx → Ctx) : (modCtx s k x f).image = s.image := rfl
@[simp] theorem modCtx_identity (s : State) (k x : Nat) (f : Ctx → Ctx) : (modCtx s k x f).identity = s.identity := rfl
@[simp] theorem modCtx_standby (s : State) (k x : Nat) (f : Ctx → Ctx) : (modCtx s k x f).standby = s.standby := rfl

/-! ## modCurCore -/

@[simp] theorem modCurCore_gauge (s : State) (f : CoreSt → CoreSt) : (modCurCore s f).gauge = s.gauge := rfl
@[simp] theorem modCurCore_agenda (s : State) (f : CoreSt → CoreSt) : (modCurCore s f).agenda = s.agenda := rfl
@[simp] theorem modCurCore_inputs (s : State) (f : CoreSt → CoreSt) : (modCurCore s f).inputs = s.inputs := rfl
@[simp] theorem modCurCore_tape (s : State) (f : CoreSt → CoreSt) : (modCurCore s f).tape = s.tape := rfl
@[simp] theorem modCurCore_draws (s : State) (f : CoreSt → CoreSt) : (modCurCore s f).draws = s.draws := rfl
@[simp] theorem modCurCore_outbox (s : State) (f : CoreSt → CoreSt) : (modCurCore s f).outbox = s.outbox := rfl
@[simp] theorem modCurCore_seq (s : State) (f : CoreSt → CoreSt) : (modCurCore s f).seq = s.seq := rfl
@[simp] theorem modCurCore_cur (s : State) (f : CoreSt → CoreSt) : (modCurCore s f).cur = s.cur := rfl
@[simp] theorem modCurCore_pipes (s : State) (f : CoreSt → CoreSt) : (modCurCore s f).pipes = s.pipes := rfl
@[simp] theorem modCurCore_confs (s : State) (f : CoreSt → CoreSt) : (modCurCore s f).confs = s.confs := rfl
@[simp] theorem modCurCore_ferries (s : State) (f : CoreSt → CoreSt) : (modCurCore s f).ferries = s.ferries := rfl
@[simp] theorem modCurCore_streams (s : State) (f : CoreSt → CoreSt) : (modCurCore s f).streams = s.streams := rfl
@[simp] theorem modCurCore_rings (s : State) (f : CoreSt → CoreSt) : (modCurCore s f).rings = s.rings := rfl
@[simp] theorem modCurCore_gangs (s : State) (f : CoreSt → CoreSt) : (modCurCore s f).gangs = s.gangs := rfl
@[simp] theorem modCurCore_gangKey (s : State) (f : CoreSt → CoreSt) : (modCurCore s f).gangKey = s.gangKey := rfl
@[simp] theorem modCurCore_done (s : State) (f : CoreSt → CoreSt) : (modCurCore s f).done = s.done := rfl
@[simp] theorem modCurCore_cards (s : State) (f : CoreSt → CoreSt) : (modCurCore s f).cards = s.cards := rfl
@[simp] theorem modCurCore_lastAdmitted (s : State) (f : CoreSt → CoreSt) : (modCurCore s f).lastAdmitted = s.lastAdmitted := rfl
@[simp] theorem modCurCore_reserving (s : State) (f : CoreSt → CoreSt) : (modCurCore s f).reserving = s.reserving := rfl
@[simp] theorem modCurCore_reserveOpen (s : State) (f : CoreSt → CoreSt) : (modCurCore s f).reserveOpen = s.reserveOpen := rfl
@[simp] theorem modCurCore_reserveSamples (s : State) (f : CoreSt → CoreSt) : (modCurCore s f).reserveSamples = s.reserveSamples := rfl
@[simp] theorem modCurCore_aging (s : State) (f : CoreSt → CoreSt) : (modCurCore s f).aging = s.aging := rfl
@[simp] theorem modCurCore_ckpts (s : State) (f : CoreSt → CoreSt) : (modCurCore s f).ckpts = s.ckpts := rfl
@[simp] theorem modCurCore_dram (s : State) (f : CoreSt → CoreSt) : (modCurCore s f).dram = s.dram := rfl
@[simp] theorem modCurCore_badSectors (s : State) (f : CoreSt → CoreSt) : (modCurCore s f).badSectors = s.badSectors := rfl
@[simp] theorem modCurCore_corrected (s : State) (f : CoreSt → CoreSt) : (modCurCore s f).corrected = s.corrected := rfl
@[simp] theorem modCurCore_roots (s : State) (f : CoreSt → CoreSt) : (modCurCore s f).roots = s.roots := rfl
@[simp] theorem modCurCore_tables (s : State) (f : CoreSt → CoreSt) : (modCurCore s f).tables = s.tables := rfl
@[simp] theorem modCurCore_leafs (s : State) (f : CoreSt → CoreSt) : (modCurCore s f).leafs = s.leafs := rfl
@[simp] theorem modCurCore_buffers (s : State) (f : CoreSt → CoreSt) : (modCurCore s f).buffers = s.buffers := rfl
@[simp] theorem modCurCore_newEnc (s : State) (f : CoreSt → CoreSt) : (modCurCore s f).newEnc = s.newEnc := rfl
@[simp] theorem modCurCore_kv (s : State) (f : CoreSt → CoreSt) : (modCurCore s f).kv = s.kv := rfl
@[simp] theorem modCurCore_blocks (s : State) (f : CoreSt → CoreSt) : (modCurCore s f).blocks = s.blocks := rfl
@[simp] theorem modCurCore_pools (s : State) (f : CoreSt → CoreSt) : (modCurCore s f).pools = s.pools := rfl
@[simp] theorem modCurCore_migrations (s : State) (f : CoreSt → CoreSt) : (modCurCore s f).migrations = s.migrations := rfl
@[simp] theorem modCurCore_windows (s : State) (f : CoreSt → CoreSt) : (modCurCore s f).windows = s.windows := rfl
@[simp] theorem modCurCore_ready (s : State) (f : CoreSt → CoreSt) : (modCurCore s f).ready = s.ready := rfl
@[simp] theorem modCurCore_unsync (s : State) (f : CoreSt → CoreSt) : (modCurCore s f).unsync = s.unsync := rfl
@[simp] theorem modCurCore_owner (s : State) (f : CoreSt → CoreSt) : (modCurCore s f).owner = s.owner := rfl
@[simp] theorem modCurCore_stage (s : State) (f : CoreSt → CoreSt) : (modCurCore s f).stage = s.stage := rfl
@[simp] theorem modCurCore_merr (s : State) (f : CoreSt → CoreSt) : (modCurCore s f).merr = s.merr := rfl
@[simp] theorem modCurCore_chip (s : State) (f : CoreSt → CoreSt) : (modCurCore s f).chip = s.chip := rfl
@[simp] theorem modCurCore_temp (s : State) (f : CoreSt → CoreSt) : (modCurCore s f).temp = s.temp := rfl
@[simp] theorem modCurCore_vmin (s : State) (f : CoreSt → CoreSt) : (modCurCore s f).vmin = s.vmin := rfl
@[simp] theorem modCurCore_proc (s : State) (f : CoreSt → CoreSt) : (modCurCore s f).proc = s.proc := rfl
@[simp] theorem modCurCore_hot (s : State) (f : CoreSt → CoreSt) : (modCurCore s f).hot = s.hot := rfl
@[simp] theorem modCurCore_crit (s : State) (f : CoreSt → CoreSt) : (modCurCore s f).crit = s.crit := rfl
@[simp] theorem modCurCore_mhz (s : State) (f : CoreSt → CoreSt) : (modCurCore s f).mhz = s.mhz := rfl
@[simp] theorem modCurCore_links (s : State) (f : CoreSt → CoreSt) : (modCurCore s f).links = s.links := rfl
@[simp] theorem modCurCore_routes (s : State) (f : CoreSt → CoreSt) : (modCurCore s f).routes = s.routes := rfl
@[simp] theorem modCurCore_hostLinks (s : State) (f : CoreSt → CoreSt) : (modCurCore s f).hostLinks = s.hostLinks := rfl
@[simp] theorem modCurCore_quarantine (s : State) (f : CoreSt → CoreSt) : (modCurCore s f).quarantine = s.quarantine := rfl
@[simp] theorem modCurCore_refGauge (s : State) (f : CoreSt → CoreSt) : (modCurCore s f).refGauge = s.refGauge := rfl
@[simp] theorem modCurCore_bootFails (s : State) (f : CoreSt → CoreSt) : (modCurCore s f).bootFails = s.bootFails := rfl
@[simp] theorem modCurCore_boot (s : State) (f : CoreSt → CoreSt) : (modCurCore s f).boot = s.boot := rfl
@[simp] theorem modCurCore_bootHeld (s : State) (f : CoreSt → CoreSt) : (modCurCore s f).bootHeld = s.bootHeld := rfl
@[simp] theorem modCurCore_image (s : State) (f : CoreSt → CoreSt) : (modCurCore s f).image = s.image := rfl
@[simp] theorem modCurCore_identity (s : State) (f : CoreSt → CoreSt) : (modCurCore s f).identity = s.identity := rfl
@[simp] theorem modCurCore_standby (s : State) (f : CoreSt → CoreSt) : (modCurCore s f).standby = s.standby := rfl

/-! ## modCurCtx -/

@[simp] theorem modCurCtx_gauge (s : State) (f : Ctx → Ctx) : (modCurCtx s f).gauge = s.gauge := rfl
@[simp] theorem modCurCtx_agenda (s : State) (f : Ctx → Ctx) : (modCurCtx s f).agenda = s.agenda := rfl
@[simp] theorem modCurCtx_inputs (s : State) (f : Ctx → Ctx) : (modCurCtx s f).inputs = s.inputs := rfl
@[simp] theorem modCurCtx_tape (s : State) (f : Ctx → Ctx) : (modCurCtx s f).tape = s.tape := rfl
@[simp] theorem modCurCtx_draws (s : State) (f : Ctx → Ctx) : (modCurCtx s f).draws = s.draws := rfl
@[simp] theorem modCurCtx_outbox (s : State) (f : Ctx → Ctx) : (modCurCtx s f).outbox = s.outbox := rfl
@[simp] theorem modCurCtx_seq (s : State) (f : Ctx → Ctx) : (modCurCtx s f).seq = s.seq := rfl
@[simp] theorem modCurCtx_cur (s : State) (f : Ctx → Ctx) : (modCurCtx s f).cur = s.cur := rfl
@[simp] theorem modCurCtx_pipes (s : State) (f : Ctx → Ctx) : (modCurCtx s f).pipes = s.pipes := rfl
@[simp] theorem modCurCtx_confs (s : State) (f : Ctx → Ctx) : (modCurCtx s f).confs = s.confs := rfl
@[simp] theorem modCurCtx_ferries (s : State) (f : Ctx → Ctx) : (modCurCtx s f).ferries = s.ferries := rfl
@[simp] theorem modCurCtx_streams (s : State) (f : Ctx → Ctx) : (modCurCtx s f).streams = s.streams := rfl
@[simp] theorem modCurCtx_rings (s : State) (f : Ctx → Ctx) : (modCurCtx s f).rings = s.rings := rfl
@[simp] theorem modCurCtx_gangs (s : State) (f : Ctx → Ctx) : (modCurCtx s f).gangs = s.gangs := rfl
@[simp] theorem modCurCtx_gangKey (s : State) (f : Ctx → Ctx) : (modCurCtx s f).gangKey = s.gangKey := rfl
@[simp] theorem modCurCtx_done (s : State) (f : Ctx → Ctx) : (modCurCtx s f).done = s.done := rfl
@[simp] theorem modCurCtx_cards (s : State) (f : Ctx → Ctx) : (modCurCtx s f).cards = s.cards := rfl
@[simp] theorem modCurCtx_lastAdmitted (s : State) (f : Ctx → Ctx) : (modCurCtx s f).lastAdmitted = s.lastAdmitted := rfl
@[simp] theorem modCurCtx_reserving (s : State) (f : Ctx → Ctx) : (modCurCtx s f).reserving = s.reserving := rfl
@[simp] theorem modCurCtx_reserveOpen (s : State) (f : Ctx → Ctx) : (modCurCtx s f).reserveOpen = s.reserveOpen := rfl
@[simp] theorem modCurCtx_reserveSamples (s : State) (f : Ctx → Ctx) : (modCurCtx s f).reserveSamples = s.reserveSamples := rfl
@[simp] theorem modCurCtx_aging (s : State) (f : Ctx → Ctx) : (modCurCtx s f).aging = s.aging := rfl
@[simp] theorem modCurCtx_ckpts (s : State) (f : Ctx → Ctx) : (modCurCtx s f).ckpts = s.ckpts := rfl
@[simp] theorem modCurCtx_dram (s : State) (f : Ctx → Ctx) : (modCurCtx s f).dram = s.dram := rfl
@[simp] theorem modCurCtx_badSectors (s : State) (f : Ctx → Ctx) : (modCurCtx s f).badSectors = s.badSectors := rfl
@[simp] theorem modCurCtx_corrected (s : State) (f : Ctx → Ctx) : (modCurCtx s f).corrected = s.corrected := rfl
@[simp] theorem modCurCtx_roots (s : State) (f : Ctx → Ctx) : (modCurCtx s f).roots = s.roots := rfl
@[simp] theorem modCurCtx_tables (s : State) (f : Ctx → Ctx) : (modCurCtx s f).tables = s.tables := rfl
@[simp] theorem modCurCtx_leafs (s : State) (f : Ctx → Ctx) : (modCurCtx s f).leafs = s.leafs := rfl
@[simp] theorem modCurCtx_buffers (s : State) (f : Ctx → Ctx) : (modCurCtx s f).buffers = s.buffers := rfl
@[simp] theorem modCurCtx_newEnc (s : State) (f : Ctx → Ctx) : (modCurCtx s f).newEnc = s.newEnc := rfl
@[simp] theorem modCurCtx_kv (s : State) (f : Ctx → Ctx) : (modCurCtx s f).kv = s.kv := rfl
@[simp] theorem modCurCtx_blocks (s : State) (f : Ctx → Ctx) : (modCurCtx s f).blocks = s.blocks := rfl
@[simp] theorem modCurCtx_pools (s : State) (f : Ctx → Ctx) : (modCurCtx s f).pools = s.pools := rfl
@[simp] theorem modCurCtx_migrations (s : State) (f : Ctx → Ctx) : (modCurCtx s f).migrations = s.migrations := rfl
@[simp] theorem modCurCtx_windows (s : State) (f : Ctx → Ctx) : (modCurCtx s f).windows = s.windows := rfl
@[simp] theorem modCurCtx_ready (s : State) (f : Ctx → Ctx) : (modCurCtx s f).ready = s.ready := rfl
@[simp] theorem modCurCtx_unsync (s : State) (f : Ctx → Ctx) : (modCurCtx s f).unsync = s.unsync := rfl
@[simp] theorem modCurCtx_owner (s : State) (f : Ctx → Ctx) : (modCurCtx s f).owner = s.owner := rfl
@[simp] theorem modCurCtx_stage (s : State) (f : Ctx → Ctx) : (modCurCtx s f).stage = s.stage := rfl
@[simp] theorem modCurCtx_merr (s : State) (f : Ctx → Ctx) : (modCurCtx s f).merr = s.merr := rfl
@[simp] theorem modCurCtx_chip (s : State) (f : Ctx → Ctx) : (modCurCtx s f).chip = s.chip := rfl
@[simp] theorem modCurCtx_temp (s : State) (f : Ctx → Ctx) : (modCurCtx s f).temp = s.temp := rfl
@[simp] theorem modCurCtx_vmin (s : State) (f : Ctx → Ctx) : (modCurCtx s f).vmin = s.vmin := rfl
@[simp] theorem modCurCtx_proc (s : State) (f : Ctx → Ctx) : (modCurCtx s f).proc = s.proc := rfl
@[simp] theorem modCurCtx_hot (s : State) (f : Ctx → Ctx) : (modCurCtx s f).hot = s.hot := rfl
@[simp] theorem modCurCtx_crit (s : State) (f : Ctx → Ctx) : (modCurCtx s f).crit = s.crit := rfl
@[simp] theorem modCurCtx_mhz (s : State) (f : Ctx → Ctx) : (modCurCtx s f).mhz = s.mhz := rfl
@[simp] theorem modCurCtx_links (s : State) (f : Ctx → Ctx) : (modCurCtx s f).links = s.links := rfl
@[simp] theorem modCurCtx_routes (s : State) (f : Ctx → Ctx) : (modCurCtx s f).routes = s.routes := rfl
@[simp] theorem modCurCtx_hostLinks (s : State) (f : Ctx → Ctx) : (modCurCtx s f).hostLinks = s.hostLinks := rfl
@[simp] theorem modCurCtx_quarantine (s : State) (f : Ctx → Ctx) : (modCurCtx s f).quarantine = s.quarantine := rfl
@[simp] theorem modCurCtx_refGauge (s : State) (f : Ctx → Ctx) : (modCurCtx s f).refGauge = s.refGauge := rfl
@[simp] theorem modCurCtx_bootFails (s : State) (f : Ctx → Ctx) : (modCurCtx s f).bootFails = s.bootFails := rfl
@[simp] theorem modCurCtx_boot (s : State) (f : Ctx → Ctx) : (modCurCtx s f).boot = s.boot := rfl
@[simp] theorem modCurCtx_bootHeld (s : State) (f : Ctx → Ctx) : (modCurCtx s f).bootHeld = s.bootHeld := rfl
@[simp] theorem modCurCtx_image (s : State) (f : Ctx → Ctx) : (modCurCtx s f).image = s.image := rfl
@[simp] theorem modCurCtx_identity (s : State) (f : Ctx → Ctx) : (modCurCtx s f).identity = s.identity := rfl
@[simp] theorem modCurCtx_standby (s : State) (f : Ctx → Ctx) : (modCurCtx s f).standby = s.standby := rfl

/-! ## setPipe -/

@[simp] theorem setPipe_gauge (s : State) (p : Nat) (x : Pipe) : (setPipe s p x).gauge = s.gauge := rfl
@[simp] theorem setPipe_agenda (s : State) (p : Nat) (x : Pipe) : (setPipe s p x).agenda = s.agenda := rfl
@[simp] theorem setPipe_inputs (s : State) (p : Nat) (x : Pipe) : (setPipe s p x).inputs = s.inputs := rfl
@[simp] theorem setPipe_tape (s : State) (p : Nat) (x : Pipe) : (setPipe s p x).tape = s.tape := rfl
@[simp] theorem setPipe_draws (s : State) (p : Nat) (x : Pipe) : (setPipe s p x).draws = s.draws := rfl
@[simp] theorem setPipe_outbox (s : State) (p : Nat) (x : Pipe) : (setPipe s p x).outbox = s.outbox := rfl
@[simp] theorem setPipe_seq (s : State) (p : Nat) (x : Pipe) : (setPipe s p x).seq = s.seq := rfl
@[simp] theorem setPipe_cur (s : State) (p : Nat) (x : Pipe) : (setPipe s p x).cur = s.cur := rfl
@[simp] theorem setPipe_cores (s : State) (p : Nat) (x : Pipe) : (setPipe s p x).cores = s.cores := rfl
@[simp] theorem setPipe_confs (s : State) (p : Nat) (x : Pipe) : (setPipe s p x).confs = s.confs := rfl
@[simp] theorem setPipe_ferries (s : State) (p : Nat) (x : Pipe) : (setPipe s p x).ferries = s.ferries := rfl
@[simp] theorem setPipe_streams (s : State) (p : Nat) (x : Pipe) : (setPipe s p x).streams = s.streams := rfl
@[simp] theorem setPipe_rings (s : State) (p : Nat) (x : Pipe) : (setPipe s p x).rings = s.rings := rfl
@[simp] theorem setPipe_gangs (s : State) (p : Nat) (x : Pipe) : (setPipe s p x).gangs = s.gangs := rfl
@[simp] theorem setPipe_gangKey (s : State) (p : Nat) (x : Pipe) : (setPipe s p x).gangKey = s.gangKey := rfl
@[simp] theorem setPipe_done (s : State) (p : Nat) (x : Pipe) : (setPipe s p x).done = s.done := rfl
@[simp] theorem setPipe_cards (s : State) (p : Nat) (x : Pipe) : (setPipe s p x).cards = s.cards := rfl
@[simp] theorem setPipe_lastAdmitted (s : State) (p : Nat) (x : Pipe) : (setPipe s p x).lastAdmitted = s.lastAdmitted := rfl
@[simp] theorem setPipe_reserving (s : State) (p : Nat) (x : Pipe) : (setPipe s p x).reserving = s.reserving := rfl
@[simp] theorem setPipe_reserveOpen (s : State) (p : Nat) (x : Pipe) : (setPipe s p x).reserveOpen = s.reserveOpen := rfl
@[simp] theorem setPipe_reserveSamples (s : State) (p : Nat) (x : Pipe) : (setPipe s p x).reserveSamples = s.reserveSamples := rfl
@[simp] theorem setPipe_aging (s : State) (p : Nat) (x : Pipe) : (setPipe s p x).aging = s.aging := rfl
@[simp] theorem setPipe_ckpts (s : State) (p : Nat) (x : Pipe) : (setPipe s p x).ckpts = s.ckpts := rfl
@[simp] theorem setPipe_dram (s : State) (p : Nat) (x : Pipe) : (setPipe s p x).dram = s.dram := rfl
@[simp] theorem setPipe_badSectors (s : State) (p : Nat) (x : Pipe) : (setPipe s p x).badSectors = s.badSectors := rfl
@[simp] theorem setPipe_corrected (s : State) (p : Nat) (x : Pipe) : (setPipe s p x).corrected = s.corrected := rfl
@[simp] theorem setPipe_roots (s : State) (p : Nat) (x : Pipe) : (setPipe s p x).roots = s.roots := rfl
@[simp] theorem setPipe_tables (s : State) (p : Nat) (x : Pipe) : (setPipe s p x).tables = s.tables := rfl
@[simp] theorem setPipe_leafs (s : State) (p : Nat) (x : Pipe) : (setPipe s p x).leafs = s.leafs := rfl
@[simp] theorem setPipe_buffers (s : State) (p : Nat) (x : Pipe) : (setPipe s p x).buffers = s.buffers := rfl
@[simp] theorem setPipe_newEnc (s : State) (p : Nat) (x : Pipe) : (setPipe s p x).newEnc = s.newEnc := rfl
@[simp] theorem setPipe_kv (s : State) (p : Nat) (x : Pipe) : (setPipe s p x).kv = s.kv := rfl
@[simp] theorem setPipe_blocks (s : State) (p : Nat) (x : Pipe) : (setPipe s p x).blocks = s.blocks := rfl
@[simp] theorem setPipe_pools (s : State) (p : Nat) (x : Pipe) : (setPipe s p x).pools = s.pools := rfl
@[simp] theorem setPipe_migrations (s : State) (p : Nat) (x : Pipe) : (setPipe s p x).migrations = s.migrations := rfl
@[simp] theorem setPipe_windows (s : State) (p : Nat) (x : Pipe) : (setPipe s p x).windows = s.windows := rfl
@[simp] theorem setPipe_ready (s : State) (p : Nat) (x : Pipe) : (setPipe s p x).ready = s.ready := rfl
@[simp] theorem setPipe_unsync (s : State) (p : Nat) (x : Pipe) : (setPipe s p x).unsync = s.unsync := rfl
@[simp] theorem setPipe_owner (s : State) (p : Nat) (x : Pipe) : (setPipe s p x).owner = s.owner := rfl
@[simp] theorem setPipe_stage (s : State) (p : Nat) (x : Pipe) : (setPipe s p x).stage = s.stage := rfl
@[simp] theorem setPipe_merr (s : State) (p : Nat) (x : Pipe) : (setPipe s p x).merr = s.merr := rfl
@[simp] theorem setPipe_chip (s : State) (p : Nat) (x : Pipe) : (setPipe s p x).chip = s.chip := rfl
@[simp] theorem setPipe_temp (s : State) (p : Nat) (x : Pipe) : (setPipe s p x).temp = s.temp := rfl
@[simp] theorem setPipe_vmin (s : State) (p : Nat) (x : Pipe) : (setPipe s p x).vmin = s.vmin := rfl
@[simp] theorem setPipe_proc (s : State) (p : Nat) (x : Pipe) : (setPipe s p x).proc = s.proc := rfl
@[simp] theorem setPipe_hot (s : State) (p : Nat) (x : Pipe) : (setPipe s p x).hot = s.hot := rfl
@[simp] theorem setPipe_crit (s : State) (p : Nat) (x : Pipe) : (setPipe s p x).crit = s.crit := rfl
@[simp] theorem setPipe_mhz (s : State) (p : Nat) (x : Pipe) : (setPipe s p x).mhz = s.mhz := rfl
@[simp] theorem setPipe_links (s : State) (p : Nat) (x : Pipe) : (setPipe s p x).links = s.links := rfl
@[simp] theorem setPipe_routes (s : State) (p : Nat) (x : Pipe) : (setPipe s p x).routes = s.routes := rfl
@[simp] theorem setPipe_hostLinks (s : State) (p : Nat) (x : Pipe) : (setPipe s p x).hostLinks = s.hostLinks := rfl
@[simp] theorem setPipe_quarantine (s : State) (p : Nat) (x : Pipe) : (setPipe s p x).quarantine = s.quarantine := rfl
@[simp] theorem setPipe_refGauge (s : State) (p : Nat) (x : Pipe) : (setPipe s p x).refGauge = s.refGauge := rfl
@[simp] theorem setPipe_bootFails (s : State) (p : Nat) (x : Pipe) : (setPipe s p x).bootFails = s.bootFails := rfl
@[simp] theorem setPipe_boot (s : State) (p : Nat) (x : Pipe) : (setPipe s p x).boot = s.boot := rfl
@[simp] theorem setPipe_bootHeld (s : State) (p : Nat) (x : Pipe) : (setPipe s p x).bootHeld = s.bootHeld := rfl
@[simp] theorem setPipe_image (s : State) (p : Nat) (x : Pipe) : (setPipe s p x).image = s.image := rfl
@[simp] theorem setPipe_identity (s : State) (p : Nat) (x : Pipe) : (setPipe s p x).identity = s.identity := rfl
@[simp] theorem setPipe_standby (s : State) (p : Nat) (x : Pipe) : (setPipe s p x).standby = s.standby := rfl

/-! ## setConf -/

@[simp] theorem setConf_gauge (s : State) (p : Nat) (x : Conf) : (setConf s p x).gauge = s.gauge := rfl
@[simp] theorem setConf_agenda (s : State) (p : Nat) (x : Conf) : (setConf s p x).agenda = s.agenda := rfl
@[simp] theorem setConf_inputs (s : State) (p : Nat) (x : Conf) : (setConf s p x).inputs = s.inputs := rfl
@[simp] theorem setConf_tape (s : State) (p : Nat) (x : Conf) : (setConf s p x).tape = s.tape := rfl
@[simp] theorem setConf_draws (s : State) (p : Nat) (x : Conf) : (setConf s p x).draws = s.draws := rfl
@[simp] theorem setConf_outbox (s : State) (p : Nat) (x : Conf) : (setConf s p x).outbox = s.outbox := rfl
@[simp] theorem setConf_seq (s : State) (p : Nat) (x : Conf) : (setConf s p x).seq = s.seq := rfl
@[simp] theorem setConf_cur (s : State) (p : Nat) (x : Conf) : (setConf s p x).cur = s.cur := rfl
@[simp] theorem setConf_cores (s : State) (p : Nat) (x : Conf) : (setConf s p x).cores = s.cores := rfl
@[simp] theorem setConf_pipes (s : State) (p : Nat) (x : Conf) : (setConf s p x).pipes = s.pipes := rfl
@[simp] theorem setConf_ferries (s : State) (p : Nat) (x : Conf) : (setConf s p x).ferries = s.ferries := rfl
@[simp] theorem setConf_streams (s : State) (p : Nat) (x : Conf) : (setConf s p x).streams = s.streams := rfl
@[simp] theorem setConf_rings (s : State) (p : Nat) (x : Conf) : (setConf s p x).rings = s.rings := rfl
@[simp] theorem setConf_gangs (s : State) (p : Nat) (x : Conf) : (setConf s p x).gangs = s.gangs := rfl
@[simp] theorem setConf_gangKey (s : State) (p : Nat) (x : Conf) : (setConf s p x).gangKey = s.gangKey := rfl
@[simp] theorem setConf_done (s : State) (p : Nat) (x : Conf) : (setConf s p x).done = s.done := rfl
@[simp] theorem setConf_cards (s : State) (p : Nat) (x : Conf) : (setConf s p x).cards = s.cards := rfl
@[simp] theorem setConf_lastAdmitted (s : State) (p : Nat) (x : Conf) : (setConf s p x).lastAdmitted = s.lastAdmitted := rfl
@[simp] theorem setConf_reserving (s : State) (p : Nat) (x : Conf) : (setConf s p x).reserving = s.reserving := rfl
@[simp] theorem setConf_reserveOpen (s : State) (p : Nat) (x : Conf) : (setConf s p x).reserveOpen = s.reserveOpen := rfl
@[simp] theorem setConf_reserveSamples (s : State) (p : Nat) (x : Conf) : (setConf s p x).reserveSamples = s.reserveSamples := rfl
@[simp] theorem setConf_aging (s : State) (p : Nat) (x : Conf) : (setConf s p x).aging = s.aging := rfl
@[simp] theorem setConf_ckpts (s : State) (p : Nat) (x : Conf) : (setConf s p x).ckpts = s.ckpts := rfl
@[simp] theorem setConf_dram (s : State) (p : Nat) (x : Conf) : (setConf s p x).dram = s.dram := rfl
@[simp] theorem setConf_badSectors (s : State) (p : Nat) (x : Conf) : (setConf s p x).badSectors = s.badSectors := rfl
@[simp] theorem setConf_corrected (s : State) (p : Nat) (x : Conf) : (setConf s p x).corrected = s.corrected := rfl
@[simp] theorem setConf_roots (s : State) (p : Nat) (x : Conf) : (setConf s p x).roots = s.roots := rfl
@[simp] theorem setConf_tables (s : State) (p : Nat) (x : Conf) : (setConf s p x).tables = s.tables := rfl
@[simp] theorem setConf_leafs (s : State) (p : Nat) (x : Conf) : (setConf s p x).leafs = s.leafs := rfl
@[simp] theorem setConf_buffers (s : State) (p : Nat) (x : Conf) : (setConf s p x).buffers = s.buffers := rfl
@[simp] theorem setConf_newEnc (s : State) (p : Nat) (x : Conf) : (setConf s p x).newEnc = s.newEnc := rfl
@[simp] theorem setConf_kv (s : State) (p : Nat) (x : Conf) : (setConf s p x).kv = s.kv := rfl
@[simp] theorem setConf_blocks (s : State) (p : Nat) (x : Conf) : (setConf s p x).blocks = s.blocks := rfl
@[simp] theorem setConf_pools (s : State) (p : Nat) (x : Conf) : (setConf s p x).pools = s.pools := rfl
@[simp] theorem setConf_migrations (s : State) (p : Nat) (x : Conf) : (setConf s p x).migrations = s.migrations := rfl
@[simp] theorem setConf_windows (s : State) (p : Nat) (x : Conf) : (setConf s p x).windows = s.windows := rfl
@[simp] theorem setConf_ready (s : State) (p : Nat) (x : Conf) : (setConf s p x).ready = s.ready := rfl
@[simp] theorem setConf_unsync (s : State) (p : Nat) (x : Conf) : (setConf s p x).unsync = s.unsync := rfl
@[simp] theorem setConf_owner (s : State) (p : Nat) (x : Conf) : (setConf s p x).owner = s.owner := rfl
@[simp] theorem setConf_stage (s : State) (p : Nat) (x : Conf) : (setConf s p x).stage = s.stage := rfl
@[simp] theorem setConf_merr (s : State) (p : Nat) (x : Conf) : (setConf s p x).merr = s.merr := rfl
@[simp] theorem setConf_chip (s : State) (p : Nat) (x : Conf) : (setConf s p x).chip = s.chip := rfl
@[simp] theorem setConf_temp (s : State) (p : Nat) (x : Conf) : (setConf s p x).temp = s.temp := rfl
@[simp] theorem setConf_vmin (s : State) (p : Nat) (x : Conf) : (setConf s p x).vmin = s.vmin := rfl
@[simp] theorem setConf_proc (s : State) (p : Nat) (x : Conf) : (setConf s p x).proc = s.proc := rfl
@[simp] theorem setConf_hot (s : State) (p : Nat) (x : Conf) : (setConf s p x).hot = s.hot := rfl
@[simp] theorem setConf_crit (s : State) (p : Nat) (x : Conf) : (setConf s p x).crit = s.crit := rfl
@[simp] theorem setConf_mhz (s : State) (p : Nat) (x : Conf) : (setConf s p x).mhz = s.mhz := rfl
@[simp] theorem setConf_links (s : State) (p : Nat) (x : Conf) : (setConf s p x).links = s.links := rfl
@[simp] theorem setConf_routes (s : State) (p : Nat) (x : Conf) : (setConf s p x).routes = s.routes := rfl
@[simp] theorem setConf_hostLinks (s : State) (p : Nat) (x : Conf) : (setConf s p x).hostLinks = s.hostLinks := rfl
@[simp] theorem setConf_quarantine (s : State) (p : Nat) (x : Conf) : (setConf s p x).quarantine = s.quarantine := rfl
@[simp] theorem setConf_refGauge (s : State) (p : Nat) (x : Conf) : (setConf s p x).refGauge = s.refGauge := rfl
@[simp] theorem setConf_bootFails (s : State) (p : Nat) (x : Conf) : (setConf s p x).bootFails = s.bootFails := rfl
@[simp] theorem setConf_boot (s : State) (p : Nat) (x : Conf) : (setConf s p x).boot = s.boot := rfl
@[simp] theorem setConf_bootHeld (s : State) (p : Nat) (x : Conf) : (setConf s p x).bootHeld = s.bootHeld := rfl
@[simp] theorem setConf_image (s : State) (p : Nat) (x : Conf) : (setConf s p x).image = s.image := rfl
@[simp] theorem setConf_identity (s : State) (p : Nat) (x : Conf) : (setConf s p x).identity = s.identity := rfl
@[simp] theorem setConf_standby (s : State) (p : Nat) (x : Conf) : (setConf s p x).standby = s.standby := rfl

/-! ## setFerry -/

@[simp] theorem setFerry_gauge (s : State) (p : Nat) (x : Ferry) : (setFerry s p x).gauge = s.gauge := rfl
@[simp] theorem setFerry_agenda (s : State) (p : Nat) (x : Ferry) : (setFerry s p x).agenda = s.agenda := rfl
@[simp] theorem setFerry_inputs (s : State) (p : Nat) (x : Ferry) : (setFerry s p x).inputs = s.inputs := rfl
@[simp] theorem setFerry_tape (s : State) (p : Nat) (x : Ferry) : (setFerry s p x).tape = s.tape := rfl
@[simp] theorem setFerry_draws (s : State) (p : Nat) (x : Ferry) : (setFerry s p x).draws = s.draws := rfl
@[simp] theorem setFerry_outbox (s : State) (p : Nat) (x : Ferry) : (setFerry s p x).outbox = s.outbox := rfl
@[simp] theorem setFerry_seq (s : State) (p : Nat) (x : Ferry) : (setFerry s p x).seq = s.seq := rfl
@[simp] theorem setFerry_cur (s : State) (p : Nat) (x : Ferry) : (setFerry s p x).cur = s.cur := rfl
@[simp] theorem setFerry_cores (s : State) (p : Nat) (x : Ferry) : (setFerry s p x).cores = s.cores := rfl
@[simp] theorem setFerry_pipes (s : State) (p : Nat) (x : Ferry) : (setFerry s p x).pipes = s.pipes := rfl
@[simp] theorem setFerry_confs (s : State) (p : Nat) (x : Ferry) : (setFerry s p x).confs = s.confs := rfl
@[simp] theorem setFerry_streams (s : State) (p : Nat) (x : Ferry) : (setFerry s p x).streams = s.streams := rfl
@[simp] theorem setFerry_rings (s : State) (p : Nat) (x : Ferry) : (setFerry s p x).rings = s.rings := rfl
@[simp] theorem setFerry_gangs (s : State) (p : Nat) (x : Ferry) : (setFerry s p x).gangs = s.gangs := rfl
@[simp] theorem setFerry_gangKey (s : State) (p : Nat) (x : Ferry) : (setFerry s p x).gangKey = s.gangKey := rfl
@[simp] theorem setFerry_done (s : State) (p : Nat) (x : Ferry) : (setFerry s p x).done = s.done := rfl
@[simp] theorem setFerry_cards (s : State) (p : Nat) (x : Ferry) : (setFerry s p x).cards = s.cards := rfl
@[simp] theorem setFerry_lastAdmitted (s : State) (p : Nat) (x : Ferry) : (setFerry s p x).lastAdmitted = s.lastAdmitted := rfl
@[simp] theorem setFerry_reserving (s : State) (p : Nat) (x : Ferry) : (setFerry s p x).reserving = s.reserving := rfl
@[simp] theorem setFerry_reserveOpen (s : State) (p : Nat) (x : Ferry) : (setFerry s p x).reserveOpen = s.reserveOpen := rfl
@[simp] theorem setFerry_reserveSamples (s : State) (p : Nat) (x : Ferry) : (setFerry s p x).reserveSamples = s.reserveSamples := rfl
@[simp] theorem setFerry_aging (s : State) (p : Nat) (x : Ferry) : (setFerry s p x).aging = s.aging := rfl
@[simp] theorem setFerry_ckpts (s : State) (p : Nat) (x : Ferry) : (setFerry s p x).ckpts = s.ckpts := rfl
@[simp] theorem setFerry_dram (s : State) (p : Nat) (x : Ferry) : (setFerry s p x).dram = s.dram := rfl
@[simp] theorem setFerry_badSectors (s : State) (p : Nat) (x : Ferry) : (setFerry s p x).badSectors = s.badSectors := rfl
@[simp] theorem setFerry_corrected (s : State) (p : Nat) (x : Ferry) : (setFerry s p x).corrected = s.corrected := rfl
@[simp] theorem setFerry_roots (s : State) (p : Nat) (x : Ferry) : (setFerry s p x).roots = s.roots := rfl
@[simp] theorem setFerry_tables (s : State) (p : Nat) (x : Ferry) : (setFerry s p x).tables = s.tables := rfl
@[simp] theorem setFerry_leafs (s : State) (p : Nat) (x : Ferry) : (setFerry s p x).leafs = s.leafs := rfl
@[simp] theorem setFerry_buffers (s : State) (p : Nat) (x : Ferry) : (setFerry s p x).buffers = s.buffers := rfl
@[simp] theorem setFerry_newEnc (s : State) (p : Nat) (x : Ferry) : (setFerry s p x).newEnc = s.newEnc := rfl
@[simp] theorem setFerry_kv (s : State) (p : Nat) (x : Ferry) : (setFerry s p x).kv = s.kv := rfl
@[simp] theorem setFerry_blocks (s : State) (p : Nat) (x : Ferry) : (setFerry s p x).blocks = s.blocks := rfl
@[simp] theorem setFerry_pools (s : State) (p : Nat) (x : Ferry) : (setFerry s p x).pools = s.pools := rfl
@[simp] theorem setFerry_migrations (s : State) (p : Nat) (x : Ferry) : (setFerry s p x).migrations = s.migrations := rfl
@[simp] theorem setFerry_windows (s : State) (p : Nat) (x : Ferry) : (setFerry s p x).windows = s.windows := rfl
@[simp] theorem setFerry_ready (s : State) (p : Nat) (x : Ferry) : (setFerry s p x).ready = s.ready := rfl
@[simp] theorem setFerry_unsync (s : State) (p : Nat) (x : Ferry) : (setFerry s p x).unsync = s.unsync := rfl
@[simp] theorem setFerry_owner (s : State) (p : Nat) (x : Ferry) : (setFerry s p x).owner = s.owner := rfl
@[simp] theorem setFerry_stage (s : State) (p : Nat) (x : Ferry) : (setFerry s p x).stage = s.stage := rfl
@[simp] theorem setFerry_merr (s : State) (p : Nat) (x : Ferry) : (setFerry s p x).merr = s.merr := rfl
@[simp] theorem setFerry_chip (s : State) (p : Nat) (x : Ferry) : (setFerry s p x).chip = s.chip := rfl
@[simp] theorem setFerry_temp (s : State) (p : Nat) (x : Ferry) : (setFerry s p x).temp = s.temp := rfl
@[simp] theorem setFerry_vmin (s : State) (p : Nat) (x : Ferry) : (setFerry s p x).vmin = s.vmin := rfl
@[simp] theorem setFerry_proc (s : State) (p : Nat) (x : Ferry) : (setFerry s p x).proc = s.proc := rfl
@[simp] theorem setFerry_hot (s : State) (p : Nat) (x : Ferry) : (setFerry s p x).hot = s.hot := rfl
@[simp] theorem setFerry_crit (s : State) (p : Nat) (x : Ferry) : (setFerry s p x).crit = s.crit := rfl
@[simp] theorem setFerry_mhz (s : State) (p : Nat) (x : Ferry) : (setFerry s p x).mhz = s.mhz := rfl
@[simp] theorem setFerry_links (s : State) (p : Nat) (x : Ferry) : (setFerry s p x).links = s.links := rfl
@[simp] theorem setFerry_routes (s : State) (p : Nat) (x : Ferry) : (setFerry s p x).routes = s.routes := rfl
@[simp] theorem setFerry_hostLinks (s : State) (p : Nat) (x : Ferry) : (setFerry s p x).hostLinks = s.hostLinks := rfl
@[simp] theorem setFerry_quarantine (s : State) (p : Nat) (x : Ferry) : (setFerry s p x).quarantine = s.quarantine := rfl
@[simp] theorem setFerry_refGauge (s : State) (p : Nat) (x : Ferry) : (setFerry s p x).refGauge = s.refGauge := rfl
@[simp] theorem setFerry_bootFails (s : State) (p : Nat) (x : Ferry) : (setFerry s p x).bootFails = s.bootFails := rfl
@[simp] theorem setFerry_boot (s : State) (p : Nat) (x : Ferry) : (setFerry s p x).boot = s.boot := rfl
@[simp] theorem setFerry_bootHeld (s : State) (p : Nat) (x : Ferry) : (setFerry s p x).bootHeld = s.bootHeld := rfl
@[simp] theorem setFerry_image (s : State) (p : Nat) (x : Ferry) : (setFerry s p x).image = s.image := rfl
@[simp] theorem setFerry_identity (s : State) (p : Nat) (x : Ferry) : (setFerry s p x).identity = s.identity := rfl
@[simp] theorem setFerry_standby (s : State) (p : Nat) (x : Ferry) : (setFerry s p x).standby = s.standby := rfl

/-! ## setStream -/

@[simp] theorem setStream_gauge (s : State) (p : Nat) (x : Stream) : (setStream s p x).gauge = s.gauge := rfl
@[simp] theorem setStream_agenda (s : State) (p : Nat) (x : Stream) : (setStream s p x).agenda = s.agenda := rfl
@[simp] theorem setStream_inputs (s : State) (p : Nat) (x : Stream) : (setStream s p x).inputs = s.inputs := rfl
@[simp] theorem setStream_tape (s : State) (p : Nat) (x : Stream) : (setStream s p x).tape = s.tape := rfl
@[simp] theorem setStream_draws (s : State) (p : Nat) (x : Stream) : (setStream s p x).draws = s.draws := rfl
@[simp] theorem setStream_outbox (s : State) (p : Nat) (x : Stream) : (setStream s p x).outbox = s.outbox := rfl
@[simp] theorem setStream_seq (s : State) (p : Nat) (x : Stream) : (setStream s p x).seq = s.seq := rfl
@[simp] theorem setStream_cur (s : State) (p : Nat) (x : Stream) : (setStream s p x).cur = s.cur := rfl
@[simp] theorem setStream_cores (s : State) (p : Nat) (x : Stream) : (setStream s p x).cores = s.cores := rfl
@[simp] theorem setStream_pipes (s : State) (p : Nat) (x : Stream) : (setStream s p x).pipes = s.pipes := rfl
@[simp] theorem setStream_confs (s : State) (p : Nat) (x : Stream) : (setStream s p x).confs = s.confs := rfl
@[simp] theorem setStream_ferries (s : State) (p : Nat) (x : Stream) : (setStream s p x).ferries = s.ferries := rfl
@[simp] theorem setStream_rings (s : State) (p : Nat) (x : Stream) : (setStream s p x).rings = s.rings := rfl
@[simp] theorem setStream_gangs (s : State) (p : Nat) (x : Stream) : (setStream s p x).gangs = s.gangs := rfl
@[simp] theorem setStream_gangKey (s : State) (p : Nat) (x : Stream) : (setStream s p x).gangKey = s.gangKey := rfl
@[simp] theorem setStream_done (s : State) (p : Nat) (x : Stream) : (setStream s p x).done = s.done := rfl
@[simp] theorem setStream_cards (s : State) (p : Nat) (x : Stream) : (setStream s p x).cards = s.cards := rfl
@[simp] theorem setStream_lastAdmitted (s : State) (p : Nat) (x : Stream) : (setStream s p x).lastAdmitted = s.lastAdmitted := rfl
@[simp] theorem setStream_reserving (s : State) (p : Nat) (x : Stream) : (setStream s p x).reserving = s.reserving := rfl
@[simp] theorem setStream_reserveOpen (s : State) (p : Nat) (x : Stream) : (setStream s p x).reserveOpen = s.reserveOpen := rfl
@[simp] theorem setStream_reserveSamples (s : State) (p : Nat) (x : Stream) : (setStream s p x).reserveSamples = s.reserveSamples := rfl
@[simp] theorem setStream_aging (s : State) (p : Nat) (x : Stream) : (setStream s p x).aging = s.aging := rfl
@[simp] theorem setStream_ckpts (s : State) (p : Nat) (x : Stream) : (setStream s p x).ckpts = s.ckpts := rfl
@[simp] theorem setStream_dram (s : State) (p : Nat) (x : Stream) : (setStream s p x).dram = s.dram := rfl
@[simp] theorem setStream_badSectors (s : State) (p : Nat) (x : Stream) : (setStream s p x).badSectors = s.badSectors := rfl
@[simp] theorem setStream_corrected (s : State) (p : Nat) (x : Stream) : (setStream s p x).corrected = s.corrected := rfl
@[simp] theorem setStream_roots (s : State) (p : Nat) (x : Stream) : (setStream s p x).roots = s.roots := rfl
@[simp] theorem setStream_tables (s : State) (p : Nat) (x : Stream) : (setStream s p x).tables = s.tables := rfl
@[simp] theorem setStream_leafs (s : State) (p : Nat) (x : Stream) : (setStream s p x).leafs = s.leafs := rfl
@[simp] theorem setStream_buffers (s : State) (p : Nat) (x : Stream) : (setStream s p x).buffers = s.buffers := rfl
@[simp] theorem setStream_newEnc (s : State) (p : Nat) (x : Stream) : (setStream s p x).newEnc = s.newEnc := rfl
@[simp] theorem setStream_kv (s : State) (p : Nat) (x : Stream) : (setStream s p x).kv = s.kv := rfl
@[simp] theorem setStream_blocks (s : State) (p : Nat) (x : Stream) : (setStream s p x).blocks = s.blocks := rfl
@[simp] theorem setStream_pools (s : State) (p : Nat) (x : Stream) : (setStream s p x).pools = s.pools := rfl
@[simp] theorem setStream_migrations (s : State) (p : Nat) (x : Stream) : (setStream s p x).migrations = s.migrations := rfl
@[simp] theorem setStream_windows (s : State) (p : Nat) (x : Stream) : (setStream s p x).windows = s.windows := rfl
@[simp] theorem setStream_ready (s : State) (p : Nat) (x : Stream) : (setStream s p x).ready = s.ready := rfl
@[simp] theorem setStream_unsync (s : State) (p : Nat) (x : Stream) : (setStream s p x).unsync = s.unsync := rfl
@[simp] theorem setStream_owner (s : State) (p : Nat) (x : Stream) : (setStream s p x).owner = s.owner := rfl
@[simp] theorem setStream_stage (s : State) (p : Nat) (x : Stream) : (setStream s p x).stage = s.stage := rfl
@[simp] theorem setStream_merr (s : State) (p : Nat) (x : Stream) : (setStream s p x).merr = s.merr := rfl
@[simp] theorem setStream_chip (s : State) (p : Nat) (x : Stream) : (setStream s p x).chip = s.chip := rfl
@[simp] theorem setStream_temp (s : State) (p : Nat) (x : Stream) : (setStream s p x).temp = s.temp := rfl
@[simp] theorem setStream_vmin (s : State) (p : Nat) (x : Stream) : (setStream s p x).vmin = s.vmin := rfl
@[simp] theorem setStream_proc (s : State) (p : Nat) (x : Stream) : (setStream s p x).proc = s.proc := rfl
@[simp] theorem setStream_hot (s : State) (p : Nat) (x : Stream) : (setStream s p x).hot = s.hot := rfl
@[simp] theorem setStream_crit (s : State) (p : Nat) (x : Stream) : (setStream s p x).crit = s.crit := rfl
@[simp] theorem setStream_mhz (s : State) (p : Nat) (x : Stream) : (setStream s p x).mhz = s.mhz := rfl
@[simp] theorem setStream_links (s : State) (p : Nat) (x : Stream) : (setStream s p x).links = s.links := rfl
@[simp] theorem setStream_routes (s : State) (p : Nat) (x : Stream) : (setStream s p x).routes = s.routes := rfl
@[simp] theorem setStream_hostLinks (s : State) (p : Nat) (x : Stream) : (setStream s p x).hostLinks = s.hostLinks := rfl
@[simp] theorem setStream_quarantine (s : State) (p : Nat) (x : Stream) : (setStream s p x).quarantine = s.quarantine := rfl
@[simp] theorem setStream_refGauge (s : State) (p : Nat) (x : Stream) : (setStream s p x).refGauge = s.refGauge := rfl
@[simp] theorem setStream_bootFails (s : State) (p : Nat) (x : Stream) : (setStream s p x).bootFails = s.bootFails := rfl
@[simp] theorem setStream_boot (s : State) (p : Nat) (x : Stream) : (setStream s p x).boot = s.boot := rfl
@[simp] theorem setStream_bootHeld (s : State) (p : Nat) (x : Stream) : (setStream s p x).bootHeld = s.bootHeld := rfl
@[simp] theorem setStream_image (s : State) (p : Nat) (x : Stream) : (setStream s p x).image = s.image := rfl
@[simp] theorem setStream_identity (s : State) (p : Nat) (x : Stream) : (setStream s p x).identity = s.identity := rfl
@[simp] theorem setStream_standby (s : State) (p : Nat) (x : Stream) : (setStream s p x).standby = s.standby := rfl

/-! ## setRing -/

@[simp] theorem setRing_gauge (s : State) (p : Nat) (x : Ring) : (setRing s p x).gauge = s.gauge := rfl
@[simp] theorem setRing_agenda (s : State) (p : Nat) (x : Ring) : (setRing s p x).agenda = s.agenda := rfl
@[simp] theorem setRing_inputs (s : State) (p : Nat) (x : Ring) : (setRing s p x).inputs = s.inputs := rfl
@[simp] theorem setRing_tape (s : State) (p : Nat) (x : Ring) : (setRing s p x).tape = s.tape := rfl
@[simp] theorem setRing_draws (s : State) (p : Nat) (x : Ring) : (setRing s p x).draws = s.draws := rfl
@[simp] theorem setRing_outbox (s : State) (p : Nat) (x : Ring) : (setRing s p x).outbox = s.outbox := rfl
@[simp] theorem setRing_seq (s : State) (p : Nat) (x : Ring) : (setRing s p x).seq = s.seq := rfl
@[simp] theorem setRing_cur (s : State) (p : Nat) (x : Ring) : (setRing s p x).cur = s.cur := rfl
@[simp] theorem setRing_cores (s : State) (p : Nat) (x : Ring) : (setRing s p x).cores = s.cores := rfl
@[simp] theorem setRing_pipes (s : State) (p : Nat) (x : Ring) : (setRing s p x).pipes = s.pipes := rfl
@[simp] theorem setRing_confs (s : State) (p : Nat) (x : Ring) : (setRing s p x).confs = s.confs := rfl
@[simp] theorem setRing_ferries (s : State) (p : Nat) (x : Ring) : (setRing s p x).ferries = s.ferries := rfl
@[simp] theorem setRing_streams (s : State) (p : Nat) (x : Ring) : (setRing s p x).streams = s.streams := rfl
@[simp] theorem setRing_gangs (s : State) (p : Nat) (x : Ring) : (setRing s p x).gangs = s.gangs := rfl
@[simp] theorem setRing_gangKey (s : State) (p : Nat) (x : Ring) : (setRing s p x).gangKey = s.gangKey := rfl
@[simp] theorem setRing_done (s : State) (p : Nat) (x : Ring) : (setRing s p x).done = s.done := rfl
@[simp] theorem setRing_cards (s : State) (p : Nat) (x : Ring) : (setRing s p x).cards = s.cards := rfl
@[simp] theorem setRing_lastAdmitted (s : State) (p : Nat) (x : Ring) : (setRing s p x).lastAdmitted = s.lastAdmitted := rfl
@[simp] theorem setRing_reserving (s : State) (p : Nat) (x : Ring) : (setRing s p x).reserving = s.reserving := rfl
@[simp] theorem setRing_reserveOpen (s : State) (p : Nat) (x : Ring) : (setRing s p x).reserveOpen = s.reserveOpen := rfl
@[simp] theorem setRing_reserveSamples (s : State) (p : Nat) (x : Ring) : (setRing s p x).reserveSamples = s.reserveSamples := rfl
@[simp] theorem setRing_aging (s : State) (p : Nat) (x : Ring) : (setRing s p x).aging = s.aging := rfl
@[simp] theorem setRing_ckpts (s : State) (p : Nat) (x : Ring) : (setRing s p x).ckpts = s.ckpts := rfl
@[simp] theorem setRing_dram (s : State) (p : Nat) (x : Ring) : (setRing s p x).dram = s.dram := rfl
@[simp] theorem setRing_badSectors (s : State) (p : Nat) (x : Ring) : (setRing s p x).badSectors = s.badSectors := rfl
@[simp] theorem setRing_corrected (s : State) (p : Nat) (x : Ring) : (setRing s p x).corrected = s.corrected := rfl
@[simp] theorem setRing_roots (s : State) (p : Nat) (x : Ring) : (setRing s p x).roots = s.roots := rfl
@[simp] theorem setRing_tables (s : State) (p : Nat) (x : Ring) : (setRing s p x).tables = s.tables := rfl
@[simp] theorem setRing_leafs (s : State) (p : Nat) (x : Ring) : (setRing s p x).leafs = s.leafs := rfl
@[simp] theorem setRing_buffers (s : State) (p : Nat) (x : Ring) : (setRing s p x).buffers = s.buffers := rfl
@[simp] theorem setRing_newEnc (s : State) (p : Nat) (x : Ring) : (setRing s p x).newEnc = s.newEnc := rfl
@[simp] theorem setRing_kv (s : State) (p : Nat) (x : Ring) : (setRing s p x).kv = s.kv := rfl
@[simp] theorem setRing_blocks (s : State) (p : Nat) (x : Ring) : (setRing s p x).blocks = s.blocks := rfl
@[simp] theorem setRing_pools (s : State) (p : Nat) (x : Ring) : (setRing s p x).pools = s.pools := rfl
@[simp] theorem setRing_migrations (s : State) (p : Nat) (x : Ring) : (setRing s p x).migrations = s.migrations := rfl
@[simp] theorem setRing_windows (s : State) (p : Nat) (x : Ring) : (setRing s p x).windows = s.windows := rfl
@[simp] theorem setRing_ready (s : State) (p : Nat) (x : Ring) : (setRing s p x).ready = s.ready := rfl
@[simp] theorem setRing_unsync (s : State) (p : Nat) (x : Ring) : (setRing s p x).unsync = s.unsync := rfl
@[simp] theorem setRing_owner (s : State) (p : Nat) (x : Ring) : (setRing s p x).owner = s.owner := rfl
@[simp] theorem setRing_stage (s : State) (p : Nat) (x : Ring) : (setRing s p x).stage = s.stage := rfl
@[simp] theorem setRing_merr (s : State) (p : Nat) (x : Ring) : (setRing s p x).merr = s.merr := rfl
@[simp] theorem setRing_chip (s : State) (p : Nat) (x : Ring) : (setRing s p x).chip = s.chip := rfl
@[simp] theorem setRing_temp (s : State) (p : Nat) (x : Ring) : (setRing s p x).temp = s.temp := rfl
@[simp] theorem setRing_vmin (s : State) (p : Nat) (x : Ring) : (setRing s p x).vmin = s.vmin := rfl
@[simp] theorem setRing_proc (s : State) (p : Nat) (x : Ring) : (setRing s p x).proc = s.proc := rfl
@[simp] theorem setRing_hot (s : State) (p : Nat) (x : Ring) : (setRing s p x).hot = s.hot := rfl
@[simp] theorem setRing_crit (s : State) (p : Nat) (x : Ring) : (setRing s p x).crit = s.crit := rfl
@[simp] theorem setRing_mhz (s : State) (p : Nat) (x : Ring) : (setRing s p x).mhz = s.mhz := rfl
@[simp] theorem setRing_links (s : State) (p : Nat) (x : Ring) : (setRing s p x).links = s.links := rfl
@[simp] theorem setRing_routes (s : State) (p : Nat) (x : Ring) : (setRing s p x).routes = s.routes := rfl
@[simp] theorem setRing_hostLinks (s : State) (p : Nat) (x : Ring) : (setRing s p x).hostLinks = s.hostLinks := rfl
@[simp] theorem setRing_quarantine (s : State) (p : Nat) (x : Ring) : (setRing s p x).quarantine = s.quarantine := rfl
@[simp] theorem setRing_refGauge (s : State) (p : Nat) (x : Ring) : (setRing s p x).refGauge = s.refGauge := rfl
@[simp] theorem setRing_bootFails (s : State) (p : Nat) (x : Ring) : (setRing s p x).bootFails = s.bootFails := rfl
@[simp] theorem setRing_boot (s : State) (p : Nat) (x : Ring) : (setRing s p x).boot = s.boot := rfl
@[simp] theorem setRing_bootHeld (s : State) (p : Nat) (x : Ring) : (setRing s p x).bootHeld = s.bootHeld := rfl
@[simp] theorem setRing_image (s : State) (p : Nat) (x : Ring) : (setRing s p x).image = s.image := rfl
@[simp] theorem setRing_identity (s : State) (p : Nat) (x : Ring) : (setRing s p x).identity = s.identity := rfl
@[simp] theorem setRing_standby (s : State) (p : Nat) (x : Ring) : (setRing s p x).standby = s.standby := rfl

/-! ## setGang -/

@[simp] theorem setGang_gauge (s : State) (p : Nat) (x : Gang) : (setGang s p x).gauge = s.gauge := rfl
@[simp] theorem setGang_agenda (s : State) (p : Nat) (x : Gang) : (setGang s p x).agenda = s.agenda := rfl
@[simp] theorem setGang_inputs (s : State) (p : Nat) (x : Gang) : (setGang s p x).inputs = s.inputs := rfl
@[simp] theorem setGang_tape (s : State) (p : Nat) (x : Gang) : (setGang s p x).tape = s.tape := rfl
@[simp] theorem setGang_draws (s : State) (p : Nat) (x : Gang) : (setGang s p x).draws = s.draws := rfl
@[simp] theorem setGang_outbox (s : State) (p : Nat) (x : Gang) : (setGang s p x).outbox = s.outbox := rfl
@[simp] theorem setGang_seq (s : State) (p : Nat) (x : Gang) : (setGang s p x).seq = s.seq := rfl
@[simp] theorem setGang_cur (s : State) (p : Nat) (x : Gang) : (setGang s p x).cur = s.cur := rfl
@[simp] theorem setGang_cores (s : State) (p : Nat) (x : Gang) : (setGang s p x).cores = s.cores := rfl
@[simp] theorem setGang_pipes (s : State) (p : Nat) (x : Gang) : (setGang s p x).pipes = s.pipes := rfl
@[simp] theorem setGang_confs (s : State) (p : Nat) (x : Gang) : (setGang s p x).confs = s.confs := rfl
@[simp] theorem setGang_ferries (s : State) (p : Nat) (x : Gang) : (setGang s p x).ferries = s.ferries := rfl
@[simp] theorem setGang_streams (s : State) (p : Nat) (x : Gang) : (setGang s p x).streams = s.streams := rfl
@[simp] theorem setGang_rings (s : State) (p : Nat) (x : Gang) : (setGang s p x).rings = s.rings := rfl
@[simp] theorem setGang_gangKey (s : State) (p : Nat) (x : Gang) : (setGang s p x).gangKey = s.gangKey := rfl
@[simp] theorem setGang_done (s : State) (p : Nat) (x : Gang) : (setGang s p x).done = s.done := rfl
@[simp] theorem setGang_cards (s : State) (p : Nat) (x : Gang) : (setGang s p x).cards = s.cards := rfl
@[simp] theorem setGang_lastAdmitted (s : State) (p : Nat) (x : Gang) : (setGang s p x).lastAdmitted = s.lastAdmitted := rfl
@[simp] theorem setGang_reserving (s : State) (p : Nat) (x : Gang) : (setGang s p x).reserving = s.reserving := rfl
@[simp] theorem setGang_reserveOpen (s : State) (p : Nat) (x : Gang) : (setGang s p x).reserveOpen = s.reserveOpen := rfl
@[simp] theorem setGang_reserveSamples (s : State) (p : Nat) (x : Gang) : (setGang s p x).reserveSamples = s.reserveSamples := rfl
@[simp] theorem setGang_aging (s : State) (p : Nat) (x : Gang) : (setGang s p x).aging = s.aging := rfl
@[simp] theorem setGang_ckpts (s : State) (p : Nat) (x : Gang) : (setGang s p x).ckpts = s.ckpts := rfl
@[simp] theorem setGang_dram (s : State) (p : Nat) (x : Gang) : (setGang s p x).dram = s.dram := rfl
@[simp] theorem setGang_badSectors (s : State) (p : Nat) (x : Gang) : (setGang s p x).badSectors = s.badSectors := rfl
@[simp] theorem setGang_corrected (s : State) (p : Nat) (x : Gang) : (setGang s p x).corrected = s.corrected := rfl
@[simp] theorem setGang_roots (s : State) (p : Nat) (x : Gang) : (setGang s p x).roots = s.roots := rfl
@[simp] theorem setGang_tables (s : State) (p : Nat) (x : Gang) : (setGang s p x).tables = s.tables := rfl
@[simp] theorem setGang_leafs (s : State) (p : Nat) (x : Gang) : (setGang s p x).leafs = s.leafs := rfl
@[simp] theorem setGang_buffers (s : State) (p : Nat) (x : Gang) : (setGang s p x).buffers = s.buffers := rfl
@[simp] theorem setGang_newEnc (s : State) (p : Nat) (x : Gang) : (setGang s p x).newEnc = s.newEnc := rfl
@[simp] theorem setGang_kv (s : State) (p : Nat) (x : Gang) : (setGang s p x).kv = s.kv := rfl
@[simp] theorem setGang_blocks (s : State) (p : Nat) (x : Gang) : (setGang s p x).blocks = s.blocks := rfl
@[simp] theorem setGang_pools (s : State) (p : Nat) (x : Gang) : (setGang s p x).pools = s.pools := rfl
@[simp] theorem setGang_migrations (s : State) (p : Nat) (x : Gang) : (setGang s p x).migrations = s.migrations := rfl
@[simp] theorem setGang_windows (s : State) (p : Nat) (x : Gang) : (setGang s p x).windows = s.windows := rfl
@[simp] theorem setGang_ready (s : State) (p : Nat) (x : Gang) : (setGang s p x).ready = s.ready := rfl
@[simp] theorem setGang_unsync (s : State) (p : Nat) (x : Gang) : (setGang s p x).unsync = s.unsync := rfl
@[simp] theorem setGang_owner (s : State) (p : Nat) (x : Gang) : (setGang s p x).owner = s.owner := rfl
@[simp] theorem setGang_stage (s : State) (p : Nat) (x : Gang) : (setGang s p x).stage = s.stage := rfl
@[simp] theorem setGang_merr (s : State) (p : Nat) (x : Gang) : (setGang s p x).merr = s.merr := rfl
@[simp] theorem setGang_chip (s : State) (p : Nat) (x : Gang) : (setGang s p x).chip = s.chip := rfl
@[simp] theorem setGang_temp (s : State) (p : Nat) (x : Gang) : (setGang s p x).temp = s.temp := rfl
@[simp] theorem setGang_vmin (s : State) (p : Nat) (x : Gang) : (setGang s p x).vmin = s.vmin := rfl
@[simp] theorem setGang_proc (s : State) (p : Nat) (x : Gang) : (setGang s p x).proc = s.proc := rfl
@[simp] theorem setGang_hot (s : State) (p : Nat) (x : Gang) : (setGang s p x).hot = s.hot := rfl
@[simp] theorem setGang_crit (s : State) (p : Nat) (x : Gang) : (setGang s p x).crit = s.crit := rfl
@[simp] theorem setGang_mhz (s : State) (p : Nat) (x : Gang) : (setGang s p x).mhz = s.mhz := rfl
@[simp] theorem setGang_links (s : State) (p : Nat) (x : Gang) : (setGang s p x).links = s.links := rfl
@[simp] theorem setGang_routes (s : State) (p : Nat) (x : Gang) : (setGang s p x).routes = s.routes := rfl
@[simp] theorem setGang_hostLinks (s : State) (p : Nat) (x : Gang) : (setGang s p x).hostLinks = s.hostLinks := rfl
@[simp] theorem setGang_quarantine (s : State) (p : Nat) (x : Gang) : (setGang s p x).quarantine = s.quarantine := rfl
@[simp] theorem setGang_refGauge (s : State) (p : Nat) (x : Gang) : (setGang s p x).refGauge = s.refGauge := rfl
@[simp] theorem setGang_bootFails (s : State) (p : Nat) (x : Gang) : (setGang s p x).bootFails = s.bootFails := rfl
@[simp] theorem setGang_boot (s : State) (p : Nat) (x : Gang) : (setGang s p x).boot = s.boot := rfl
@[simp] theorem setGang_bootHeld (s : State) (p : Nat) (x : Gang) : (setGang s p x).bootHeld = s.bootHeld := rfl
@[simp] theorem setGang_image (s : State) (p : Nat) (x : Gang) : (setGang s p x).image = s.image := rfl
@[simp] theorem setGang_identity (s : State) (p : Nat) (x : Gang) : (setGang s p x).identity = s.identity := rfl
@[simp] theorem setGang_standby (s : State) (p : Nat) (x : Gang) : (setGang s p x).standby = s.standby := rfl

/-! ## issued -/

@[simp] theorem issued_gauge (s : State) : (issued s).gauge = s.gauge := rfl
@[simp] theorem issued_agenda (s : State) : (issued s).agenda = s.agenda := rfl
@[simp] theorem issued_inputs (s : State) : (issued s).inputs = s.inputs := rfl
@[simp] theorem issued_tape (s : State) : (issued s).tape = s.tape := rfl
@[simp] theorem issued_draws (s : State) : (issued s).draws = s.draws := rfl
@[simp] theorem issued_outbox (s : State) : (issued s).outbox = s.outbox := rfl
@[simp] theorem issued_seq (s : State) : (issued s).seq = s.seq := rfl
@[simp] theorem issued_cores (s : State) : (issued s).cores = s.cores := rfl
@[simp] theorem issued_pipes (s : State) : (issued s).pipes = s.pipes := rfl
@[simp] theorem issued_confs (s : State) : (issued s).confs = s.confs := rfl
@[simp] theorem issued_ferries (s : State) : (issued s).ferries = s.ferries := rfl
@[simp] theorem issued_streams (s : State) : (issued s).streams = s.streams := rfl
@[simp] theorem issued_rings (s : State) : (issued s).rings = s.rings := rfl
@[simp] theorem issued_gangs (s : State) : (issued s).gangs = s.gangs := rfl
@[simp] theorem issued_gangKey (s : State) : (issued s).gangKey = s.gangKey := rfl
@[simp] theorem issued_done (s : State) : (issued s).done = s.done := rfl
@[simp] theorem issued_cards (s : State) : (issued s).cards = s.cards := rfl
@[simp] theorem issued_lastAdmitted (s : State) : (issued s).lastAdmitted = s.lastAdmitted := rfl
@[simp] theorem issued_reserving (s : State) : (issued s).reserving = s.reserving := rfl
@[simp] theorem issued_reserveOpen (s : State) : (issued s).reserveOpen = s.reserveOpen := rfl
@[simp] theorem issued_reserveSamples (s : State) : (issued s).reserveSamples = s.reserveSamples := rfl
@[simp] theorem issued_aging (s : State) : (issued s).aging = s.aging := rfl
@[simp] theorem issued_ckpts (s : State) : (issued s).ckpts = s.ckpts := rfl
@[simp] theorem issued_dram (s : State) : (issued s).dram = s.dram := rfl
@[simp] theorem issued_badSectors (s : State) : (issued s).badSectors = s.badSectors := rfl
@[simp] theorem issued_corrected (s : State) : (issued s).corrected = s.corrected := rfl
@[simp] theorem issued_roots (s : State) : (issued s).roots = s.roots := rfl
@[simp] theorem issued_tables (s : State) : (issued s).tables = s.tables := rfl
@[simp] theorem issued_leafs (s : State) : (issued s).leafs = s.leafs := rfl
@[simp] theorem issued_buffers (s : State) : (issued s).buffers = s.buffers := rfl
@[simp] theorem issued_newEnc (s : State) : (issued s).newEnc = s.newEnc := rfl
@[simp] theorem issued_kv (s : State) : (issued s).kv = s.kv := rfl
@[simp] theorem issued_blocks (s : State) : (issued s).blocks = s.blocks := rfl
@[simp] theorem issued_pools (s : State) : (issued s).pools = s.pools := rfl
@[simp] theorem issued_migrations (s : State) : (issued s).migrations = s.migrations := rfl
@[simp] theorem issued_windows (s : State) : (issued s).windows = s.windows := rfl
@[simp] theorem issued_ready (s : State) : (issued s).ready = s.ready := rfl
@[simp] theorem issued_unsync (s : State) : (issued s).unsync = s.unsync := rfl
@[simp] theorem issued_owner (s : State) : (issued s).owner = s.owner := rfl
@[simp] theorem issued_stage (s : State) : (issued s).stage = s.stage := rfl
@[simp] theorem issued_merr (s : State) : (issued s).merr = s.merr := rfl
@[simp] theorem issued_chip (s : State) : (issued s).chip = s.chip := rfl
@[simp] theorem issued_temp (s : State) : (issued s).temp = s.temp := rfl
@[simp] theorem issued_vmin (s : State) : (issued s).vmin = s.vmin := rfl
@[simp] theorem issued_proc (s : State) : (issued s).proc = s.proc := rfl
@[simp] theorem issued_hot (s : State) : (issued s).hot = s.hot := rfl
@[simp] theorem issued_crit (s : State) : (issued s).crit = s.crit := rfl
@[simp] theorem issued_mhz (s : State) : (issued s).mhz = s.mhz := rfl
@[simp] theorem issued_links (s : State) : (issued s).links = s.links := rfl
@[simp] theorem issued_routes (s : State) : (issued s).routes = s.routes := rfl
@[simp] theorem issued_hostLinks (s : State) : (issued s).hostLinks = s.hostLinks := rfl
@[simp] theorem issued_quarantine (s : State) : (issued s).quarantine = s.quarantine := rfl
@[simp] theorem issued_refGauge (s : State) : (issued s).refGauge = s.refGauge := rfl
@[simp] theorem issued_bootFails (s : State) : (issued s).bootFails = s.bootFails := rfl
@[simp] theorem issued_boot (s : State) : (issued s).boot = s.boot := rfl
@[simp] theorem issued_bootHeld (s : State) : (issued s).bootHeld = s.bootHeld := rfl
@[simp] theorem issued_image (s : State) : (issued s).image = s.image := rfl
@[simp] theorem issued_identity (s : State) : (issued s).identity = s.identity := rfl
@[simp] theorem issued_standby (s : State) : (issued s).standby = s.standby := rfl

/-! ## waits -/

@[simp] theorem waits_gauge (s : State) : (waits s).gauge = s.gauge := rfl
@[simp] theorem waits_agenda (s : State) : (waits s).agenda = s.agenda := rfl
@[simp] theorem waits_inputs (s : State) : (waits s).inputs = s.inputs := rfl
@[simp] theorem waits_tape (s : State) : (waits s).tape = s.tape := rfl
@[simp] theorem waits_draws (s : State) : (waits s).draws = s.draws := rfl
@[simp] theorem waits_outbox (s : State) : (waits s).outbox = s.outbox := rfl
@[simp] theorem waits_seq (s : State) : (waits s).seq = s.seq := rfl
@[simp] theorem waits_cores (s : State) : (waits s).cores = s.cores := rfl
@[simp] theorem waits_pipes (s : State) : (waits s).pipes = s.pipes := rfl
@[simp] theorem waits_confs (s : State) : (waits s).confs = s.confs := rfl
@[simp] theorem waits_ferries (s : State) : (waits s).ferries = s.ferries := rfl
@[simp] theorem waits_streams (s : State) : (waits s).streams = s.streams := rfl
@[simp] theorem waits_rings (s : State) : (waits s).rings = s.rings := rfl
@[simp] theorem waits_gangs (s : State) : (waits s).gangs = s.gangs := rfl
@[simp] theorem waits_gangKey (s : State) : (waits s).gangKey = s.gangKey := rfl
@[simp] theorem waits_done (s : State) : (waits s).done = s.done := rfl
@[simp] theorem waits_cards (s : State) : (waits s).cards = s.cards := rfl
@[simp] theorem waits_lastAdmitted (s : State) : (waits s).lastAdmitted = s.lastAdmitted := rfl
@[simp] theorem waits_reserving (s : State) : (waits s).reserving = s.reserving := rfl
@[simp] theorem waits_reserveOpen (s : State) : (waits s).reserveOpen = s.reserveOpen := rfl
@[simp] theorem waits_reserveSamples (s : State) : (waits s).reserveSamples = s.reserveSamples := rfl
@[simp] theorem waits_aging (s : State) : (waits s).aging = s.aging := rfl
@[simp] theorem waits_ckpts (s : State) : (waits s).ckpts = s.ckpts := rfl
@[simp] theorem waits_dram (s : State) : (waits s).dram = s.dram := rfl
@[simp] theorem waits_badSectors (s : State) : (waits s).badSectors = s.badSectors := rfl
@[simp] theorem waits_corrected (s : State) : (waits s).corrected = s.corrected := rfl
@[simp] theorem waits_roots (s : State) : (waits s).roots = s.roots := rfl
@[simp] theorem waits_tables (s : State) : (waits s).tables = s.tables := rfl
@[simp] theorem waits_leafs (s : State) : (waits s).leafs = s.leafs := rfl
@[simp] theorem waits_buffers (s : State) : (waits s).buffers = s.buffers := rfl
@[simp] theorem waits_newEnc (s : State) : (waits s).newEnc = s.newEnc := rfl
@[simp] theorem waits_kv (s : State) : (waits s).kv = s.kv := rfl
@[simp] theorem waits_blocks (s : State) : (waits s).blocks = s.blocks := rfl
@[simp] theorem waits_pools (s : State) : (waits s).pools = s.pools := rfl
@[simp] theorem waits_migrations (s : State) : (waits s).migrations = s.migrations := rfl
@[simp] theorem waits_windows (s : State) : (waits s).windows = s.windows := rfl
@[simp] theorem waits_ready (s : State) : (waits s).ready = s.ready := rfl
@[simp] theorem waits_unsync (s : State) : (waits s).unsync = s.unsync := rfl
@[simp] theorem waits_owner (s : State) : (waits s).owner = s.owner := rfl
@[simp] theorem waits_stage (s : State) : (waits s).stage = s.stage := rfl
@[simp] theorem waits_merr (s : State) : (waits s).merr = s.merr := rfl
@[simp] theorem waits_chip (s : State) : (waits s).chip = s.chip := rfl
@[simp] theorem waits_temp (s : State) : (waits s).temp = s.temp := rfl
@[simp] theorem waits_vmin (s : State) : (waits s).vmin = s.vmin := rfl
@[simp] theorem waits_proc (s : State) : (waits s).proc = s.proc := rfl
@[simp] theorem waits_hot (s : State) : (waits s).hot = s.hot := rfl
@[simp] theorem waits_crit (s : State) : (waits s).crit = s.crit := rfl
@[simp] theorem waits_mhz (s : State) : (waits s).mhz = s.mhz := rfl
@[simp] theorem waits_links (s : State) : (waits s).links = s.links := rfl
@[simp] theorem waits_routes (s : State) : (waits s).routes = s.routes := rfl
@[simp] theorem waits_hostLinks (s : State) : (waits s).hostLinks = s.hostLinks := rfl
@[simp] theorem waits_quarantine (s : State) : (waits s).quarantine = s.quarantine := rfl
@[simp] theorem waits_refGauge (s : State) : (waits s).refGauge = s.refGauge := rfl
@[simp] theorem waits_bootFails (s : State) : (waits s).bootFails = s.bootFails := rfl
@[simp] theorem waits_boot (s : State) : (waits s).boot = s.boot := rfl
@[simp] theorem waits_bootHeld (s : State) : (waits s).bootHeld = s.bootHeld := rfl
@[simp] theorem waits_image (s : State) : (waits s).image = s.image := rfl
@[simp] theorem waits_identity (s : State) : (waits s).identity = s.identity := rfl
@[simp] theorem waits_standby (s : State) : (waits s).standby = s.standby := rfl

/-! ## Contexts and parts of a core -/

@[simp] theorem putCtx_issuer (c : CoreSt) (x : Nat) (v : Ctx) : (putCtx c x v).issuer = c.issuer := rfl
@[simp] theorem putCtx_last (c : CoreSt) (x : Nat) (v : Ctx) : (putCtx c x v).last = c.last := rfl
@[simp] theorem putCtx_pinned (c : CoreSt) (x : Nat) (v : Ctx) : (putCtx c x v).pinned = c.pinned := rfl
@[simp] theorem putCtx_relock (c : CoreSt) (x : Nat) (v : Ctx) : (putCtx c x v).relock = c.relock := rfl
@[simp] theorem putCtx_cyc (c : CoreSt) (x : Nat) (v : Ctx) : (putCtx c x v).cyc = c.cyc := rfl
@[simp] theorem putCtx_credit (c : CoreSt) (x : Nat) (v : Ctx) : (putCtx c x v).credit = c.credit := rfl
@[simp] theorem putCtx_levels (c : CoreSt) (x : Nat) (v : Ctx) : (putCtx c x v).levels = c.levels := rfl
@[simp] theorem putCtx_dropAt (c : CoreSt) (x : Nat) (v : Ctx) : (putCtx c x v).dropAt = c.dropAt := rfl
@[simp] theorem putCtx_pend (c : CoreSt) (x : Nat) (v : Ctx) : (putCtx c x v).pend = c.pend := rfl
@[simp] theorem putCtx_accs (c : CoreSt) (x : Nat) (v : Ctx) : (putCtx c x v).accs = c.accs := rfl
@[simp] theorem putCtx_resv (c : CoreSt) (x : Nat) (v : Ctx) : (putCtx c x v).resv = c.resv := rfl
@[simp] theorem putCtx_acc (c : CoreSt) (x : Nat) (v : Ctx) : (putCtx c x v).acc = c.acc := rfl
@[simp] theorem putCtx_wrap (c : CoreSt) (x : Nat) (v : Ctx) : (putCtx c x v).wrap = c.wrap := rfl
@[simp] theorem putCtx_rows (c : CoreSt) (x : Nat) (v : Ctx) : (putCtx c x v).rows = c.rows := rfl
@[simp] theorem putCtx_cols (c : CoreSt) (x : Nat) (v : Ctx) : (putCtx c x v).cols = c.cols := rfl
@[simp] theorem putCtx_beats (c : CoreSt) (x : Nat) (v : Ctx) : (putCtx c x v).beats = c.beats := rfl
@[simp] theorem putCtx_tiles (c : CoreSt) (x : Nat) (v : Ctx) : (putCtx c x v).tiles = c.tiles := rfl
@[simp] theorem putCtx_ferried (c : CoreSt) (x : Nat) (v : Ctx) : (putCtx c x v).ferried = c.ferried := rfl
@[simp] theorem putCtx_groves (c : CoreSt) (x : Nat) (v : Ctx) : (putCtx c x v).groves = c.groves := rfl
@[simp] theorem putCtx_jobs (c : CoreSt) (x : Nat) (v : Ctx) : (putCtx c x v).jobs = c.jobs := rfl
@[simp] theorem putCtx_leftAt (c : CoreSt) (x : Nat) (v : Ctx) : (putCtx c x v).leftAt = c.leftAt := rfl
@[simp] theorem putCtx_sigs (c : CoreSt) (x : Nat) (v : Ctx) : (putCtx c x v).sigs = c.sigs := rfl
@[simp] theorem putCtx_spad (c : CoreSt) (x : Nat) (v : Ctx) : (putCtx c x v).spad = c.spad := rfl
@[simp] theorem putCtx_isp (c : CoreSt) (x : Nat) (v : Ctx) : (putCtx c x v).isp = c.isp := rfl
@[simp] theorem putCtx_ispOld (c : CoreSt) (x : Nat) (v : Ctx) : (putCtx c x v).ispOld = c.ispOld := rfl
@[simp] theorem putCtx_poison (c : CoreSt) (x : Nat) (v : Ctx) : (putCtx c x v).poison = c.poison := rfl
@[simp] theorem putCtx_trip (c : CoreSt) (x : Nat) (v : Ctx) : (putCtx c x v).trip = c.trip := rfl
@[simp] theorem putCtx_stretched (c : CoreSt) (x : Nat) (v : Ctx) : (putCtx c x v).stretched = c.stretched := rfl
@[simp] theorem putCtx_drops (c : CoreSt) (x : Nat) (v : Ctx) : (putCtx c x v).drops = c.drops := rfl
@[simp] theorem putCtx_peak (c : CoreSt) (x : Nat) (v : Ctx) : (putCtx c x v).peak = c.peak := rfl
@[simp] theorem putCtx_debug (c : CoreSt) (x : Nat) (v : Ctx) : (putCtx c x v).debug = c.debug := rfl

@[simp] theorem setTile_ctxs (c : CoreSt) (x : Nat) (v : TileReg) : (setTile c x v).ctxs = c.ctxs := rfl
@[simp] theorem setTile_issuer (c : CoreSt) (x : Nat) (v : TileReg) : (setTile c x v).issuer = c.issuer := rfl
@[simp] theorem setTile_last (c : CoreSt) (x : Nat) (v : TileReg) : (setTile c x v).last = c.last := rfl
@[simp] theorem setTile_pinned (c : CoreSt) (x : Nat) (v : TileReg) : (setTile c x v).pinned = c.pinned := rfl
@[simp] theorem setTile_relock (c : CoreSt) (x : Nat) (v : TileReg) : (setTile c x v).relock = c.relock := rfl
@[simp] theorem setTile_cyc (c : CoreSt) (x : Nat) (v : TileReg) : (setTile c x v).cyc = c.cyc := rfl
@[simp] theorem setTile_credit (c : CoreSt) (x : Nat) (v : TileReg) : (setTile c x v).credit = c.credit := rfl
@[simp] theorem setTile_levels (c : CoreSt) (x : Nat) (v : TileReg) : (setTile c x v).levels = c.levels := rfl
@[simp] theorem setTile_dropAt (c : CoreSt) (x : Nat) (v : TileReg) : (setTile c x v).dropAt = c.dropAt := rfl
@[simp] theorem setTile_pend (c : CoreSt) (x : Nat) (v : TileReg) : (setTile c x v).pend = c.pend := rfl
@[simp] theorem setTile_accs (c : CoreSt) (x : Nat) (v : TileReg) : (setTile c x v).accs = c.accs := rfl
@[simp] theorem setTile_resv (c : CoreSt) (x : Nat) (v : TileReg) : (setTile c x v).resv = c.resv := rfl
@[simp] theorem setTile_acc (c : CoreSt) (x : Nat) (v : TileReg) : (setTile c x v).acc = c.acc := rfl
@[simp] theorem setTile_wrap (c : CoreSt) (x : Nat) (v : TileReg) : (setTile c x v).wrap = c.wrap := rfl
@[simp] theorem setTile_rows (c : CoreSt) (x : Nat) (v : TileReg) : (setTile c x v).rows = c.rows := rfl
@[simp] theorem setTile_cols (c : CoreSt) (x : Nat) (v : TileReg) : (setTile c x v).cols = c.cols := rfl
@[simp] theorem setTile_beats (c : CoreSt) (x : Nat) (v : TileReg) : (setTile c x v).beats = c.beats := rfl
@[simp] theorem setTile_ferried (c : CoreSt) (x : Nat) (v : TileReg) : (setTile c x v).ferried = c.ferried := rfl
@[simp] theorem setTile_groves (c : CoreSt) (x : Nat) (v : TileReg) : (setTile c x v).groves = c.groves := rfl
@[simp] theorem setTile_jobs (c : CoreSt) (x : Nat) (v : TileReg) : (setTile c x v).jobs = c.jobs := rfl
@[simp] theorem setTile_leftAt (c : CoreSt) (x : Nat) (v : TileReg) : (setTile c x v).leftAt = c.leftAt := rfl
@[simp] theorem setTile_sigs (c : CoreSt) (x : Nat) (v : TileReg) : (setTile c x v).sigs = c.sigs := rfl
@[simp] theorem setTile_spad (c : CoreSt) (x : Nat) (v : TileReg) : (setTile c x v).spad = c.spad := rfl
@[simp] theorem setTile_isp (c : CoreSt) (x : Nat) (v : TileReg) : (setTile c x v).isp = c.isp := rfl
@[simp] theorem setTile_ispOld (c : CoreSt) (x : Nat) (v : TileReg) : (setTile c x v).ispOld = c.ispOld := rfl
@[simp] theorem setTile_poison (c : CoreSt) (x : Nat) (v : TileReg) : (setTile c x v).poison = c.poison := rfl
@[simp] theorem setTile_trip (c : CoreSt) (x : Nat) (v : TileReg) : (setTile c x v).trip = c.trip := rfl
@[simp] theorem setTile_stretched (c : CoreSt) (x : Nat) (v : TileReg) : (setTile c x v).stretched = c.stretched := rfl
@[simp] theorem setTile_drops (c : CoreSt) (x : Nat) (v : TileReg) : (setTile c x v).drops = c.drops := rfl
@[simp] theorem setTile_peak (c : CoreSt) (x : Nat) (v : TileReg) : (setTile c x v).peak = c.peak := rfl
@[simp] theorem setTile_debug (c : CoreSt) (x : Nat) (v : TileReg) : (setTile c x v).debug = c.debug := rfl

@[simp] theorem setGrove_ctxs (c : CoreSt) (x : Nat) (v : Grove) : (setGrove c x v).ctxs = c.ctxs := rfl
@[simp] theorem setGrove_issuer (c : CoreSt) (x : Nat) (v : Grove) : (setGrove c x v).issuer = c.issuer := rfl
@[simp] theorem setGrove_last (c : CoreSt) (x : Nat) (v : Grove) : (setGrove c x v).last = c.last := rfl
@[simp] theorem setGrove_pinned (c : CoreSt) (x : Nat) (v : Grove) : (setGrove c x v).pinned = c.pinned := rfl
@[simp] theorem setGrove_relock (c : CoreSt) (x : Nat) (v : Grove) : (setGrove c x v).relock = c.relock := rfl
@[simp] theorem setGrove_cyc (c : CoreSt) (x : Nat) (v : Grove) : (setGrove c x v).cyc = c.cyc := rfl
@[simp] theorem setGrove_credit (c : CoreSt) (x : Nat) (v : Grove) : (setGrove c x v).credit = c.credit := rfl
@[simp] theorem setGrove_levels (c : CoreSt) (x : Nat) (v : Grove) : (setGrove c x v).levels = c.levels := rfl
@[simp] theorem setGrove_dropAt (c : CoreSt) (x : Nat) (v : Grove) : (setGrove c x v).dropAt = c.dropAt := rfl
@[simp] theorem setGrove_pend (c : CoreSt) (x : Nat) (v : Grove) : (setGrove c x v).pend = c.pend := rfl
@[simp] theorem setGrove_accs (c : CoreSt) (x : Nat) (v : Grove) : (setGrove c x v).accs = c.accs := rfl
@[simp] theorem setGrove_resv (c : CoreSt) (x : Nat) (v : Grove) : (setGrove c x v).resv = c.resv := rfl
@[simp] theorem setGrove_acc (c : CoreSt) (x : Nat) (v : Grove) : (setGrove c x v).acc = c.acc := rfl
@[simp] theorem setGrove_wrap (c : CoreSt) (x : Nat) (v : Grove) : (setGrove c x v).wrap = c.wrap := rfl
@[simp] theorem setGrove_rows (c : CoreSt) (x : Nat) (v : Grove) : (setGrove c x v).rows = c.rows := rfl
@[simp] theorem setGrove_cols (c : CoreSt) (x : Nat) (v : Grove) : (setGrove c x v).cols = c.cols := rfl
@[simp] theorem setGrove_beats (c : CoreSt) (x : Nat) (v : Grove) : (setGrove c x v).beats = c.beats := rfl
@[simp] theorem setGrove_tiles (c : CoreSt) (x : Nat) (v : Grove) : (setGrove c x v).tiles = c.tiles := rfl
@[simp] theorem setGrove_ferried (c : CoreSt) (x : Nat) (v : Grove) : (setGrove c x v).ferried = c.ferried := rfl
@[simp] theorem setGrove_jobs (c : CoreSt) (x : Nat) (v : Grove) : (setGrove c x v).jobs = c.jobs := rfl
@[simp] theorem setGrove_leftAt (c : CoreSt) (x : Nat) (v : Grove) : (setGrove c x v).leftAt = c.leftAt := rfl
@[simp] theorem setGrove_sigs (c : CoreSt) (x : Nat) (v : Grove) : (setGrove c x v).sigs = c.sigs := rfl
@[simp] theorem setGrove_spad (c : CoreSt) (x : Nat) (v : Grove) : (setGrove c x v).spad = c.spad := rfl
@[simp] theorem setGrove_isp (c : CoreSt) (x : Nat) (v : Grove) : (setGrove c x v).isp = c.isp := rfl
@[simp] theorem setGrove_ispOld (c : CoreSt) (x : Nat) (v : Grove) : (setGrove c x v).ispOld = c.ispOld := rfl
@[simp] theorem setGrove_poison (c : CoreSt) (x : Nat) (v : Grove) : (setGrove c x v).poison = c.poison := rfl
@[simp] theorem setGrove_trip (c : CoreSt) (x : Nat) (v : Grove) : (setGrove c x v).trip = c.trip := rfl
@[simp] theorem setGrove_stretched (c : CoreSt) (x : Nat) (v : Grove) : (setGrove c x v).stretched = c.stretched := rfl
@[simp] theorem setGrove_drops (c : CoreSt) (x : Nat) (v : Grove) : (setGrove c x v).drops = c.drops := rfl
@[simp] theorem setGrove_peak (c : CoreSt) (x : Nat) (v : Grove) : (setGrove c x v).peak = c.peak := rfl
@[simp] theorem setGrove_debug (c : CoreSt) (x : Nat) (v : Grove) : (setGrove c x v).debug = c.debug := rfl

@[simp] theorem setSig_ctxs (c : CoreSt) (x : Nat) (v : Signal) : (setSig c x v).ctxs = c.ctxs := rfl
@[simp] theorem setSig_issuer (c : CoreSt) (x : Nat) (v : Signal) : (setSig c x v).issuer = c.issuer := rfl
@[simp] theorem setSig_last (c : CoreSt) (x : Nat) (v : Signal) : (setSig c x v).last = c.last := rfl
@[simp] theorem setSig_pinned (c : CoreSt) (x : Nat) (v : Signal) : (setSig c x v).pinned = c.pinned := rfl
@[simp] theorem setSig_relock (c : CoreSt) (x : Nat) (v : Signal) : (setSig c x v).relock = c.relock := rfl
@[simp] theorem setSig_cyc (c : CoreSt) (x : Nat) (v : Signal) : (setSig c x v).cyc = c.cyc := rfl
@[simp] theorem setSig_credit (c : CoreSt) (x : Nat) (v : Signal) : (setSig c x v).credit = c.credit := rfl
@[simp] theorem setSig_levels (c : CoreSt) (x : Nat) (v : Signal) : (setSig c x v).levels = c.levels := rfl
@[simp] theorem setSig_dropAt (c : CoreSt) (x : Nat) (v : Signal) : (setSig c x v).dropAt = c.dropAt := rfl
@[simp] theorem setSig_pend (c : CoreSt) (x : Nat) (v : Signal) : (setSig c x v).pend = c.pend := rfl
@[simp] theorem setSig_accs (c : CoreSt) (x : Nat) (v : Signal) : (setSig c x v).accs = c.accs := rfl
@[simp] theorem setSig_resv (c : CoreSt) (x : Nat) (v : Signal) : (setSig c x v).resv = c.resv := rfl
@[simp] theorem setSig_acc (c : CoreSt) (x : Nat) (v : Signal) : (setSig c x v).acc = c.acc := rfl
@[simp] theorem setSig_wrap (c : CoreSt) (x : Nat) (v : Signal) : (setSig c x v).wrap = c.wrap := rfl
@[simp] theorem setSig_rows (c : CoreSt) (x : Nat) (v : Signal) : (setSig c x v).rows = c.rows := rfl
@[simp] theorem setSig_cols (c : CoreSt) (x : Nat) (v : Signal) : (setSig c x v).cols = c.cols := rfl
@[simp] theorem setSig_beats (c : CoreSt) (x : Nat) (v : Signal) : (setSig c x v).beats = c.beats := rfl
@[simp] theorem setSig_tiles (c : CoreSt) (x : Nat) (v : Signal) : (setSig c x v).tiles = c.tiles := rfl
@[simp] theorem setSig_ferried (c : CoreSt) (x : Nat) (v : Signal) : (setSig c x v).ferried = c.ferried := rfl
@[simp] theorem setSig_groves (c : CoreSt) (x : Nat) (v : Signal) : (setSig c x v).groves = c.groves := rfl
@[simp] theorem setSig_jobs (c : CoreSt) (x : Nat) (v : Signal) : (setSig c x v).jobs = c.jobs := rfl
@[simp] theorem setSig_leftAt (c : CoreSt) (x : Nat) (v : Signal) : (setSig c x v).leftAt = c.leftAt := rfl
@[simp] theorem setSig_spad (c : CoreSt) (x : Nat) (v : Signal) : (setSig c x v).spad = c.spad := rfl
@[simp] theorem setSig_isp (c : CoreSt) (x : Nat) (v : Signal) : (setSig c x v).isp = c.isp := rfl
@[simp] theorem setSig_ispOld (c : CoreSt) (x : Nat) (v : Signal) : (setSig c x v).ispOld = c.ispOld := rfl
@[simp] theorem setSig_poison (c : CoreSt) (x : Nat) (v : Signal) : (setSig c x v).poison = c.poison := rfl
@[simp] theorem setSig_trip (c : CoreSt) (x : Nat) (v : Signal) : (setSig c x v).trip = c.trip := rfl
@[simp] theorem setSig_stretched (c : CoreSt) (x : Nat) (v : Signal) : (setSig c x v).stretched = c.stretched := rfl
@[simp] theorem setSig_drops (c : CoreSt) (x : Nat) (v : Signal) : (setSig c x v).drops = c.drops := rfl
@[simp] theorem setSig_peak (c : CoreSt) (x : Nat) (v : Signal) : (setSig c x v).peak = c.peak := rfl
@[simp] theorem setSig_debug (c : CoreSt) (x : Nat) (v : Signal) : (setSig c x v).debug = c.debug := rfl

/-! ## Reads after writes -/

theorem coreOf_setCore (s : State) (k : Nat) (c : CoreSt) (j : Nat) :
    coreOf (setCore s k c) j = if j = k then c else coreOf s j := by
  simp [coreOf, setCore, mapGet_mapSet]

@[simp] theorem coreOf_setCore_same (s : State) (k : Nat) (c : CoreSt) : coreOf (setCore s k c) k = c := by
  simp [coreOf_setCore]

theorem coreOf_modCore (s : State) (k : Nat) (f : CoreSt → CoreSt) (j : Nat) :
    coreOf (modCore s k f) j = if j = k then f (coreOf s k) else coreOf s j := by
  simp [modCore, coreOf_setCore]

@[simp] theorem coreOf_modCore_same (s : State) (k : Nat) (f : CoreSt → CoreSt) :
    coreOf (modCore s k f) k = f (coreOf s k) := by simp [coreOf_modCore]

theorem ctxIn_putCtx (c : CoreSt) (x : Nat) (v : Ctx) (y : Nat) :
    ctxIn (putCtx c x v) y = if y = x then v else ctxIn c y := by
  simp [ctxIn, putCtx, mapGet_mapSet]

@[simp] theorem ctxIn_putCtx_same (c : CoreSt) (x : Nat) (v : Ctx) : ctxIn (putCtx c x v) x = v := by simp [ctxIn_putCtx]

theorem coreOf_modCtx (s : State) (k x : Nat) (f : Ctx → Ctx) (j : Nat) :
    coreOf (modCtx s k x f) j = if j = k then putCtx (coreOf s k) x (f (ctxOf s k x)) else coreOf s j := by
  simp [modCtx, setCtx, coreOf_modCore]

theorem ctxOf_modCtx (s : State) (k x : Nat) (f : Ctx → Ctx) (j y : Nat) :
    ctxOf (modCtx s k x f) j y = if j = k ∧ y = x then f (ctxOf s k x) else ctxOf s j y := by
  unfold ctxOf
  rw [coreOf_modCtx]
  by_cases hj : j = k
  · subst hj
    simp [ctxIn_putCtx, ctxOf]
  · simp [hj]

@[simp] theorem ctxOf_modCtx_same (s : State) (k x : Nat) (f : Ctx → Ctx) :
    ctxOf (modCtx s k x f) k x = f (ctxOf s k x) := by simp [ctxOf_modCtx]

@[simp] theorem curCtx_modCurCtx (s : State) (f : Ctx → Ctx) : curCtx (modCurCtx s f) = f (curCtx s) := by
  simp [curCtx, modCurCtx]

@[simp] theorem curCore_modCurCore (s : State) (f : CoreSt → CoreSt) : curCore (modCurCore s f) = f (curCore s) := by
  simp [curCore, modCurCore]

/-- A change of a core that leaves its contexts alone. -/
theorem ctxOf_modCore (s : State) (k : Nat) (f : CoreSt → CoreSt) (hf : (f (coreOf s k)).ctxs = (coreOf s k).ctxs)
    (j y : Nat) : ctxOf (modCore s k f) j y = ctxOf s j y := by
  unfold ctxOf ctxIn
  rw [coreOf_modCore]
  by_cases hj : j = k
  · subst hj; simp [hf]
  · simp [hj]

theorem pipeOf_setPipe (s : State) (p : Nat) (x : Pipe) (q : Nat) :
    pipeOf (setPipe s p x) q = if q = p then x else pipeOf s q := by simp [pipeOf, setPipe, mapGet_mapSet]

theorem confOf_setConf (s : State) (p : Nat) (x : Conf) (q : Nat) :
    confOf (setConf s p x) q = if q = p then x else confOf s q := by simp [confOf, setConf, mapGet_mapSet]

theorem ferryOf_setFerry (s : State) (p : Nat) (x : Ferry) (q : Nat) :
    ferryOf (setFerry s p x) q = if q = p then x else ferryOf s q := by simp [ferryOf, setFerry, mapGet_mapSet]

theorem streamOf_setStream (s : State) (p : Nat) (x : Stream) (q : Nat) :
    streamOf (setStream s p x) q = if q = p then x else streamOf s q := by simp [streamOf, setStream, mapGet_mapSet]

theorem ringOf_setRing (s : State) (p : Nat) (x : Ring) (q : Nat) :
    ringOf (setRing s p x) q = if q = p then x else ringOf s q := by simp [ringOf, setRing, mapGet_mapSet]

theorem sregOf_setSreg (c : Ctx) (n : Nat) (v : Word) (j : Nat) :
    sregOf (setSreg c n v) j = if j = n ∧ n ≠ 0 then v else sregOf c j := by
  unfold sregOf setSreg
  by_cases hn : n = 0
  · subst hn; simp
  · by_cases hj : j = n
    · subst hj; simp [hn]
    · by_cases h0 : j = 0
      · subst h0; simp [hn, Ne.symm hn]
      · simp [hn, hj, h0, mapGet_mapSet_ne]

theorem vregOf_setVreg (c : Ctx) (n : Nat) (v : VReg) (j : Nat) :
    vregOf (setVreg c n v) j = if j = n then v else vregOf c j := by simp [vregOf, setVreg, mapGet_mapSet]

theorem maskOf_setMask (c : Ctx) (n : Nat) (v : Mask) (j : Nat) :
    maskOf (setMask c n v) j = if j = n then v else maskOf c j := by simp [maskOf, setMask, mapGet_mapSet]

theorem basinOf_setBasin (c : Ctx) (n : Nat) (v : Basin) (j : Nat) :
    basinOf (setBasin c n v) j = if j = n then v else basinOf c j := by simp [basinOf, setBasin, mapGet_mapSet]

theorem tileOf_setTile (c : CoreSt) (n : Nat) (v : TileReg) (j : Nat) :
    tileOf (setTile c n v) j = if j = n then v else tileOf c j := by simp [tileOf, setTile, mapGet_mapSet]

theorem groveOf_setGrove (c : CoreSt) (n : Nat) (v : Grove) (j : Nat) :
    groveOf (setGrove c n v) j = if j = n then v else groveOf c j := by simp [groveOf, setGrove, mapGet_mapSet]

end Sys2Proof.Machine
end

