-- ==== Sys2Proof/Laws/Landing.lean ====
section
/-! SUPPORT. What a result that lands in a register place does to its context and to the poison of its core, and what dropping a
slot's requests to a peer port leaves. -/
namespace Sys2Proof.Machine

/-- A result changes its context only, and a poisoned one changes none. -/
theorem ctxOf_landPlace (s : State) (k x : Nat) (p : Place) (bad : Bool) (f : Ctx → Ctx) (j y : Nat) :
    ctxOf (landPlace s k x p bad f) j y = if bad = false ∧ j = k ∧ y = x then f (ctxOf s k x) else ctxOf s j y := by
  unfold landPlace
  cases bad <;> simp [ctxOf_modCtx, ctxOf_modCore]

/-- Its place is poisoned afterwards exactly where the result is; every other place is as it was. -/
theorem mem_poison_landPlace (s : State) (k x : Nat) (p : Place) (bad : Bool) (f : Ctx → Ctx) (q : Place) :
    q ∈ (coreOf (landPlace s k x p bad f) k).poison ↔ (bad = true ∧ q = p) ∨ (q ≠ p ∧ q ∈ (coreOf s k).poison) := by
  unfold landPlace
  cases bad
  · simp [coreOf_modCtx, and_comm]
  · simp [and_comm]

theorem coreOf_landPlace_other (s : State) (k x : Nat) (p : Place) (bad : Bool) (f : Ctx → Ctx) (j : Nat) (h : j ≠ k) :
    coreOf (landPlace s k x p bad f) j = coreOf s j := by
  unfold landPlace
  cases bad <;> simp [coreOf_modCtx, coreOf_modCore, h]

/-- Only requests of the context's chosen slots go. -/
theorem mem_accs_dropRequests (s : State) (k x : Nat) (sel : Nat → Bool) (b : Access) :
    b ∈ (coreOf (dropRequests s k x sel) k).accs ↔
      b ∈ (coreOf s k).accs ∧ ¬(isRequest b = true ∧ b.ctx = x ∧ sel b.slot = true) := by
  simp only [dropRequests, coreOf_modCore_same, List.mem_filter, Bool.not_eq_true', Bool.and_eq_false_iff, decide_eq_false_iff_not]
  grind

@[simp] theorem ctxOf_dropRequests (s : State) (k x : Nat) (sel : Nat → Bool) (j y : Nat) :
    ctxOf (dropRequests s k x sel) j y = ctxOf s j y := ctxOf_modCore s k _ rfl j y

theorem coreOf_dropRequests_other (s : State) (k x : Nat) (sel : Nat → Bool) (j : Nat) (h : j ≠ k) :
    coreOf (dropRequests s k x sel) j = coreOf s j := by simp [dropRequests, coreOf_modCore, h]

end Sys2Proof.Machine
end

