-- ==== Sys2Proof/Laws/Slot.lean ====
section
/-! SUPPORT. What a slot instruction can do: the checks that pass, the effect, the fault, and what a result in flight leaves alone. -/
namespace Sys2Proof.Machine

theorem and_left {a b : Bool} (h : (a && b) = true) : a = true := (Bool.and_eq_true_iff.mp h).1

/-- A well-formed instruction has a legal guard. -/
theorem wf_guard (i : Instr) (h : i.wf = true) : guardOk (guardField i) = true := by
  cases i
  all_goals (try exact h)
  all_goals (try exact and_left h)
  all_goals (try exact and_left (and_left h))
  all_goals (try exact and_left (and_left (and_left h)))
  all_goals (try exact and_left (and_left (and_left (and_left h))))
  all_goals (try exact and_left (and_left (and_left (and_left (and_left h)))))

/-- What a waiting slot samples, it samples when it issues too. -/
theorem asks_subset (s : State) (sl : Slot) (i : Instr) : ∀ p ∈ asks s i, p ∈ reads s sl i := by
  intro p hp
  simp only [asks, reads, List.mem_filter, List.mem_append, List.mem_cons, List.mem_map] at hp ⊢
  refine ⟨?_, hp.2⟩
  rcases hp.1 with h | ⟨n, hn, h⟩
  · simp [h]
  · have : n ∈ scalarSources i := by cases i <;> simp_all [scalarSources]
    exact Or.inl (Or.inl (Or.inl (Or.inl (Or.inr ⟨n, this, h⟩))))

/-- Places among those that neither a result in flight nor poison touches give no cause. -/
theorem placeFault_none {s : State} {ps qs : List Place} (h1 : pendingPlace s ps = none) (h2 : poisonPlace s ps = none)
    (hq : ∀ p ∈ qs, p ∈ ps) : placeFault s qs = none := by
  have h1' : pendingPlace s qs = none := by
    simp only [pendingPlace] at h1 ⊢
    split
    · rename_i hd
      rw [if_pos hd] at h1
      exact List.find?_eq_none.mpr fun p hp => List.find?_eq_none.mp h1 p (hq p hp)
    · rfl
  have h2' : poisonPlace s qs = none :=
    List.find?_eq_none.mpr fun p hp => List.find?_eq_none.mp h2 p (hq p hp)
  simp [placeFault, h1', h2']

/-- The places that a slot with clear operands samples give no cause, whether it waits or not. -/
theorem Clear.places {i : Instr} {sl : Slot} {s : State} (h : Clear i sl s) (b : Bool) :
    placeFault s (if b then asks s i else reads s sl i) = none := by
  cases b
  · exact placeFault_none h.settled h.sound fun _ hp => hp
  · exact placeFault_none h.settled h.sound (asks_subset s sl i)

/-- The slot's own checks are passed: the effect happens. -/
theorem runSlot_clear {i : Instr} {sl : Slot} {s : State} (pre : State → Pre) (eff : State → State) (h : Clear i sl s)
    (hp : pre s = .ok) : runSlot i sl s pre eff = .next (completed i sl (eff s)) := by
  have hl : ¬(literalNeed i ≠ 0 ∧ literalNeed i ≠ hKind s.cur.hdr) := by
    rintro ⟨h1, h2⟩; rcases h.literal with h3 | h3 <;> contradiction
  simp only [runSlot, slotStep, wf_guard i h.fields, h.fields, h.guard, h.granted, h.places, hp, h.sources, Pre.andThen, completed,
    Bool.not_true, Bool.false_eq_true, if_false, hl]

/-- The shared checks are passed and the instruction's own raises a cause in the slot. -/
theorem runSlot_fault {i : Instr} {sl : Slot} {s : State} (pre : State → Pre) (eff : State → State) (h : Clear i sl s)
    {cause : BitVec 7} {d0 d1 d2 : Word} (hc : cause ≠ 0x06) (hp : pre s = .fault cause d0 d1 d2) :
    runSlot i sl s pre eff = .next (slotFault s sl cause d0 d1 d2) := by
  have hl : ¬(literalNeed i ≠ 0 ∧ literalNeed i ≠ hKind s.cur.hdr) := by
    rintro ⟨h1, h2⟩; rcases h.literal with h3 | h3 <;> contradiction
  simp only [runSlot, slotStep, wf_guard i h.fields, h.fields, h.guard, h.granted, h.places, hp, hc, Pre.andThen,
    Bool.not_true, Bool.false_eq_true, if_false, hl]

/-- A guard that is 0: the slot issues and has no effect (R60). -/
theorem runSlot_guarded {i : Instr} {sl : Slot} {s : State} (pre : State → Pre) (eff : State → State) (hw : i.wf = true)
    (hl : literalNeed i = 0 ∨ literalNeed i = hKind s.cur.hdr) (hg : guardPass (curCtx s) (guardField i) = false) :
    runSlot i sl s pre eff = .next (issued s) := by
  have hl : ¬(literalNeed i ≠ 0 ∧ literalNeed i ≠ hKind s.cur.hdr) := by
    rintro ⟨h1, h2⟩; rcases hl with h3 | h3 <;> contradiction
  simp only [runSlot, slotStep, wf_guard i hw, hw, hg, Bool.not_true, Bool.not_false, Bool.false_eq_true, if_false, if_true, hl]

/-! ## Frames of computing slots -/

theorem ComputeFrame.refl (s : State) : ComputeFrame s s := ⟨rfl, fun _ _ => rfl, rfl, fun _ _ => rfl, rfl⟩

theorem ComputeFrame.trans {s u t : State} (h1 : ComputeFrame s u) (hk : u.cur.core = s.cur.core) (hx : u.cur.ctx = s.cur.ctx)
    (h2 : ComputeFrame u t) : ComputeFrame s t := by
  obtain ⟨d1, c1, k1, x1, y1⟩ := h1
  obtain ⟨d2, c2, k2, x2, y2⟩ := h2
  simp only [OtherCores, OtherCtxs, curCore, curCtx, hk, hx] at *
  refine ⟨?_, fun k h => (c2 k h).trans (c1 k h), ?_, fun x h => (x2 x h).trans (x1 x h), ?_⟩
  · rw [d1] at d2; exact d2
  · simp only [curCore]
    rw [k1] at k2; exact k2
  · simp only [curCtx]
    rw [y1] at y2; exact y2

/-- What happens to `cur` and to the numbering is no change of the device. -/
theorem ComputeFrame.setCur (s : State) (c : Cur) : ComputeFrame s { s with cur := c } :=
  ⟨rfl, fun _ _ => rfl, rfl, fun _ _ => rfl, rfl⟩

theorem ComputeFrame.setSeq (s : State) (n : Nat) : ComputeFrame s { s with seq := n } :=
  ⟨rfl, fun _ _ => rfl, rfl, fun _ _ => rfl, rfl⟩

theorem ComputeFrame.modCtx (s : State) (f : Ctx → Ctx)
    (hf : f (curCtx s) = { curCtx s with occ := (f (curCtx s)).occ, lqv := (f (curCtx s)).lqv, fault := (f (curCtx s)).fault,
                                         life := (f (curCtx s)).life, nfault := (f (curCtx s)).nfault }) :
    ComputeFrame s (modCurCtx s f) := by
  refine ⟨rfl, ?_, ?_, ?_, ?_⟩
  · intro k h; simp [modCurCtx, coreOf_modCtx, h]
  · simp only [modCurCtx, coreOf_modCtx, if_true, curCore]
    rfl
  · intro x h; simp [modCurCtx, ctxOf_modCtx, h]
  · rw [modCurCtx, ctxOf_modCtx_same]; exact hf

theorem ComputeFrame.modPend (s : State) (f : List Pend → List Pend) :
    ComputeFrame s (modCurCore s fun c => { c with pend := f c.pend }) := by
  have hctx : ∀ j y, ctxOf (modCurCore s fun c => { c with pend := f c.pend }) j y = ctxOf s j y :=
    fun j y => ctxOf_modCore s _ _ rfl j y
  refine ⟨rfl, ?_, ?_, ?_, ?_⟩
  · intro k h; simp [modCurCore, coreOf_modCore, h]
  · simp only [modCurCore, coreOf_modCore, if_true, curCore]
  · intro x _; exact hctx _ x
  · rw [hctx]; rfl

theorem ComputeFrame.push (s : State) (sl : Slot) (lat : Nat) (e : Eff) (p : Bool) : ComputeFrame s (push s sl lat e p) :=
  (ComputeFrame.modPend s (fun ps => ps ++ [{ inFlightFrom s sl 0 lat e with poison := p }])).trans rfl rfl
    (ComputeFrame.setSeq (modCurCore s fun c => { c with pend := c.pend ++ [{ inFlightFrom s sl 0 lat e with poison := p }] })
      (s.seq + 1))

theorem ComputeFrame.popSource (s : State) (i : Instr) : ComputeFrame s (popSource s i) := by
  unfold Sys2Proof.Machine.popSource
  split
  · exact ComputeFrame.modCtx s _ rfl
  · exact ComputeFrame.refl s

theorem takeFault_cur (s : State) (k x : Nat) (f : FaultInfo) : (takeFault s k x f).cur = s.cur := rfl

theorem ComputeFrame.takeFault (s : State) (f : FaultInfo) : ComputeFrame s (takeFault s s.cur.core s.cur.ctx f) := by
  apply ComputeFrame.modCtx s
  dsimp only
  split
  · split <;> rfl
  · rfl

theorem ComputeFrame.busySlot (s : State) (sl : Slot) : ComputeFrame s (busySlot s sl) := ComputeFrame.modCtx s _ rfl

theorem ComputeFrame.quietFault (s : State) (sl : Slot) (cause : BitVec 7) (d0 d1 d2 : Word) :
    ComputeFrame s (quietFault s sl cause d0 d1 d2) :=
  (ComputeFrame.takeFault s (faultHere s cause (1 <<< sl.idx) false d0 d1 d2)).trans rfl rfl
    (ComputeFrame.setCur (Sys2Proof.Machine.takeFault s s.cur.core s.cur.ctx (faultHere s cause (1 <<< sl.idx) false d0 d1 d2)) _)

theorem ComputeFrame.slotFault (s : State) (sl : Slot) (cause : BitVec 7) (d0 d1 d2 : Word) :
    ComputeFrame s (slotFault s sl cause d0 d1 d2) :=
  (ComputeFrame.busySlot s sl).trans rfl rfl (ComputeFrame.quietFault (Sys2Proof.Machine.busySlot s sl) sl cause d0 d1 d2)

theorem ComputeFrame.levelFault (s : State) (cause : BitVec 7) (d0 d1 d2 : Word) :
    ComputeFrame s (levelFault s cause d0 d1 d2) :=
  (ComputeFrame.takeFault s (faultHere s cause 0 true d0 d1 d2)).trans rfl rfl
    (ComputeFrame.setCur (Sys2Proof.Machine.takeFault s s.cur.core s.cur.ctx (faultHere s cause 0 true d0 d1 d2)) _)

theorem ComputeFrame.encodingFault (s : State) (sl : Slot) (cause : BitVec 7) (w : Word32) :
    ComputeFrame s (encodingFault s sl cause w) := by
  unfold Sys2Proof.Machine.encodingFault
  split
  · exact ComputeFrame.slotFault s sl cause _ _ _
  · exact ComputeFrame.quietFault s sl cause _ _ _

/-- A slot that has issued. -/
theorem ComputeFrame.completed (i : Instr) (sl : Slot) (t : State) : ComputeFrame t (completed i sl t) := by
  have hc : ∀ u : State, (Sys2Proof.Machine.popSource u i).cur = u.cur := by
    intro u; unfold Sys2Proof.Machine.popSource; split <;> rfl
  have h2 := (ComputeFrame.busySlot t sl).trans rfl rfl (ComputeFrame.popSource (Sys2Proof.Machine.busySlot t sl) i)
  refine h2.trans ?_ ?_ (ComputeFrame.setCur (Sys2Proof.Machine.popSource (Sys2Proof.Machine.busySlot t sl) i)
    { (Sys2Proof.Machine.popSource (Sys2Proof.Machine.busySlot t sl) i).cur with out := .issued }) <;> rw [hc] <;> rfl

theorem completed_pend (i : Instr) (sl : Slot) (t : State) (k : Nat) : (coreOf (completed i sl t) k).pend = (coreOf t k).pend := by
  have h : ∀ u : State, ∀ f : Ctx → Ctx, (coreOf (modCurCtx u f) k).pend = (coreOf u k).pend := by
    intro u f
    rw [modCurCtx, coreOf_modCtx]
    split
    · rename_i h; rw [h]; rfl
    · rfl
  show (coreOf (Sys2Proof.Machine.popSource (busySlot t sl) i) k).pend = _
  unfold Sys2Proof.Machine.popSource
  split
  · rw [h, busySlot, h]
  · rw [busySlot, h]

theorem completed_life (i : Instr) (sl : Slot) (t : State) :
    (ctxOf (completed i sl t) t.cur.core t.cur.ctx).life = (ctxOf t t.cur.core t.cur.ctx).life := by
  show (ctxOf (Sys2Proof.Machine.popSource (busySlot t sl) i) t.cur.core t.cur.ctx).life = _
  unfold Sys2Proof.Machine.popSource
  split
  · simp [busySlot, modCurCtx, ctxOf_modCtx_same, occBump]
  · simp [busySlot, modCurCtx, ctxOf_modCtx_same, occBump]

theorem coreOf_push (s : State) (sl : Slot) (lat : Nat) (e : Eff) (p : Bool) (k : Nat) :
    coreOf (push s sl lat e p) k =
      if k = s.cur.core then { curCore s with pend := (curCore s).pend ++ [{ inFlightFrom s sl 0 lat e with poison := p }] }
      else coreOf s k :=
  coreOf_modCore s s.cur.core (fun c => { c with pend := c.pend ++ [{ inFlightFrom s sl 0 lat e with poison := p }] }) k

theorem ctxOf_push (s : State) (sl : Slot) (lat : Nat) (e : Eff) (p : Bool) (k x : Nat) :
    ctxOf (push s sl lat e p) k x = ctxOf s k x :=
  ctxOf_modCore s s.cur.core (fun c => { c with pend := c.pend ++ [{ inFlightFrom s sl 0 lat e with poison := p }] }) rfl k x

theorem push_pend (s : State) (sl : Slot) (lat : Nat) (e : Eff) :
    (coreOf (push s sl lat e) s.cur.core).pend = (curCore s).pend ++ [inFlightFrom s sl 0 lat e] := by
  rw [coreOf_push, if_pos rfl]
  rfl

/-- A computing instruction whose checks pass puts its one result in flight. -/
theorem yields_push {i : Instr} {sl : Slot} {s : State} (pre : State → Pre) (lat : State → Nat) (e : State → Eff)
    (h : Clear i sl s) (hp : pre s = .ok) (he : exec i s = runSlot i sl s pre fun s => push s sl (lat s) (e s)) :
    Yields i sl s [(lat s, e s)] := by
  refine ⟨completed i sl (push s sl (lat s) (e s)), by rw [he, runSlot_clear _ _ h hp], rfl, ?_, ?_, ?_⟩
  · rw [completed_pend, push_pend]; rfl
  · have := completed_life i sl (push s sl (lat s) (e s))
    refine this.trans ?_
    exact congrArg Ctx.life (ctxOf_push s sl _ _ _ _ _)
  · exact (ComputeFrame.push s sl _ _ _).trans rfl rfl (ComputeFrame.completed i sl _)

/-! ## The forms of the claims -/

/-- An instruction without checks of its own whose effect is one result. -/
theorem lands_of {i : Instr} {sl : Slot} {s : State} {lat : Nat} {e : Eff} (pre : State → Pre) (f : State → Eff)
    (he : exec i s = runSlot i sl s pre fun s => push s sl lat (f s)) (hp : pre s = .ok) (hv : f s = e) : Lands i sl s lat e := by
  intro h
  rw [← hv]
  exact yields_push pre (fun _ => lat) f h hp he

theorem acts_of {i : Instr} {sl : Slot} {s u : State} (pre : State → Pre) (eff : State → State)
    (he : exec i s = runSlot i sl s pre eff) (hp : pre s = .ok) (hu : eff s = u) : Acts i sl s u := by
  intro h
  rw [he, runSlot_clear pre eff h hp, hu]

theorem raises_of {i : Instr} {sl : Slot} {s : State} {cause : BitVec 7} {d0 d1 d2 : Word} (pre : State → Pre)
    (eff : State → State) (he : exec i s = runSlot i sl s pre eff) (hc : cause ≠ 0x06) (hp : pre s = .fault cause d0 d1 d2) :
    Raises i sl s cause d0 d1 d2 := by
  intro h
  rw [he, runSlot_fault pre eff h hc hp]

/-- The shared checks are passed and the instruction's own refuses a value. -/
theorem raisesOperand_of {i : Instr} {sl : Slot} {s : State} {d0 d1 d2 : Word} (pre : State → Pre)
    (eff : State → State) (he : exec i s = runSlot i sl s pre eff) (hp : pre s = .fault 0x06 d0 d1 d2) :
    RaisesOperand i sl s := by
  intro h
  have hl : ¬(literalNeed i ≠ 0 ∧ literalNeed i ≠ hKind s.cur.hdr) := by
    rintro ⟨h1, h2⟩; rcases h.literal with h3 | h3 <;> contradiction
  rw [he]
  simp only [runSlot, slotStep, wf_guard i h.fields, h.fields, h.guard, h.granted, h.places, hp, Pre.andThen,
    Bool.not_true, Bool.false_eq_true, if_false, if_true, hl]

/-- The shared checks are passed and the instruction's own makes the slot wait. -/
theorem waits_of {i : Instr} {sl : Slot} {s u : State} (pre : State → Pre)
    (eff : State → State) (he : exec i s = runSlot i sl s pre eff) (hp : pre s = .wait u) (h : Clear i sl s) :
    exec i s = .next (waits u) := by
  have hl : ¬(literalNeed i ≠ 0 ∧ literalNeed i ≠ hKind s.cur.hdr) := by
    rintro ⟨h1, h2⟩; rcases h.literal with h3 | h3 <;> contradiction
  rw [he]
  simp only [runSlot, slotStep, wf_guard i h.fields, h.fields, h.guard, h.granted, h.places, hp, Pre.andThen,
    Bool.not_true, Bool.false_eq_true, if_false, hl]

/-- The shared checks are passed and the instruction's own raises a bundle-level cause. -/
theorem level_of {i : Instr} {sl : Slot} {s : State} {cause : BitVec 7} {d0 d1 d2 : Word} (pre : State → Pre)
    (eff : State → State) (he : exec i s = runSlot i sl s pre eff) (hp : pre s = .level cause d0 d1 d2) (h : Clear i sl s) :
    exec i s = .next (levelFault s cause d0 d1 d2) := by
  have hl : ¬(literalNeed i ≠ 0 ∧ literalNeed i ≠ hKind s.cur.hdr) := by
    rintro ⟨h1, h2⟩; rcases h.literal with h3 | h3 <;> contradiction
  rw [he]
  simp only [runSlot, slotStep, wf_guard i h.fields, h.fields, h.guard, h.granted, h.places, hp, Pre.andThen,
    Bool.not_true, Bool.false_eq_true, if_false, hl]

end Sys2Proof.Machine
end

