-- ==== Sys2Proof/Laws/Lanes.lean ====
section
/-! SUPPORT. Lanes of packed and mapped registers, and the forms of the claims about them. -/
namespace Sys2Proof.Machine

theorem packLanes_lt (w : Nat) : ∀ xs : List Nat, packLanes w xs < 2 ^ (w * xs.length)
  | [] => by simp [packLanes]
  | x :: xs => by
    have h := packLanes_lt w xs
    have hx : x % 2 ^ w < 2 ^ w := Nat.mod_lt _ (Nat.two_pow_pos w)
    simp only [packLanes, List.length_cons, Nat.mul_add, Nat.mul_one, Nat.pow_add, Nat.mul_comm (2 ^ (w * xs.length))]
    have : 2 ^ w * packLanes w xs + 2 ^ w ≤ 2 ^ w * 2 ^ (w * xs.length) := by
      rw [← Nat.mul_succ]; exact Nat.mul_le_mul_left _ h
    omega

/-- The lane of a packed number is the low bits of its element; beyond the elements it is zero. -/
theorem lane_packLanes (w : Nat) : ∀ (xs : List Nat) (j : Nat), lane w (packLanes w xs) j = (xs[j]?).getD 0 % 2 ^ w
  | [], j => by simp [packLanes, lane]
  | x :: xs, 0 => by
    simp [packLanes, lane, Nat.add_mod, Nat.mul_mod_right]
  | x :: xs, j + 1 => by
    have h := lane_packLanes w xs j
    simp only [lane] at h ⊢
    have hx : x % 2 ^ w < 2 ^ w := Nat.mod_lt _ (Nat.two_pow_pos w)
    have e : packLanes w (x :: xs) >>> ((j + 1) * w) = packLanes w xs >>> (j * w) := by
      rw [Nat.succ_mul, Nat.add_comm, Nat.shiftRight_add]
      congr 1
      simp only [packLanes, Nat.shiftRight_eq_div_pow]
      rw [Nat.add_mul_div_left _ _ (Nat.two_pow_pos w), Nat.div_eq_of_lt hx, Nat.zero_add]
    rw [e, h]
    simp

theorem length_lanes (w n v : Nat) : (lanes w n v).length = n := by simp [lanes]

theorem getElem_lanes (w n v j : Nat) (h : j < n) : (lanes w n v)[j]? = some (lane w v j) := by
  simp [lanes, h]

/-- A register packed from few enough lanes holds them. -/
theorem lane_reg (w : Nat) (xs : List Nat) (j : Nat) (h : w * xs.length ≤ 4096) :
    lane w (BitVec.ofNat 4096 (packLanes w xs)).toNat j = (xs[j]?).getD 0 % 2 ^ w := by
  rw [BitVec.toNat_ofNat, Nat.mod_eq_of_lt, lane_packLanes]
  exact Nat.lt_of_lt_of_le (packLanes_lt w xs) (Nat.pow_le_pow_right (by decide) h)

theorem lane_map1 (w : Nat) (f : Nat → Nat) (a : VReg) (j : Nat) (h : j < 4096 / w) :
    lane w (map1 w f a).toNat j = f (lane w a.toNat j) % 2 ^ w := by
  rw [map1, lane_reg _ _ _ (by rw [List.length_map, length_lanes]; exact Nat.mul_div_le _ _), List.getElem?_map,
    getElem_lanes _ _ _ _ h]
  rfl

theorem lane_map2 (w : Nat) (f : Nat → Nat → Nat) (a b : VReg) (j : Nat) (h : j < 4096 / w) :
    lane w (map2 w f a b).toNat j = f (lane w a.toNat j) (lane w b.toNat j) % 2 ^ w := by
  rw [map2, lane_reg _ _ _ (by rw [List.length_zipWith, length_lanes, length_lanes, Nat.min_self]; exact Nat.mul_div_le _ _),
    List.getElem?_zipWith, getElem_lanes _ _ _ _ h, getElem_lanes _ _ _ _ h]
  rfl

theorem lane_map3 (w : Nat) (f : Nat → Nat → Nat → Nat) (a b c : VReg) (j : Nat) (h : j < 4096 / w) :
    lane w (map3 w f a b c).toNat j = f (lane w a.toNat j) (lane w b.toNat j) (lane w c.toNat j) % 2 ^ w := by
  have hl : (List.zip (lanes w (4096 / w) a.toNat) (List.zip (lanes w (4096 / w) b.toNat) (lanes w (4096 / w) c.toNat))).length
      = 4096 / w := by simp [length_lanes]
  rw [map3, lane_reg _ _ _ (by rw [List.length_map, hl]; exact Nat.mul_div_le _ _), List.getElem?_map]
  simp [List.zip, List.getElem?_zipWith, getElem_lanes _ _ _ _ h]

/-- A V-slot form whose result is one register of its cluster. -/
theorem landsLanes_of {i : Instr} {sl : VSlot} {s : State} {lat : Nat} {d : BitVec 5} {w : Nat} {f : Nat → Nat}
    (v : State → VReg) (he : exec i s = vres i sl lat d v s) (hv : ∀ j < 4096 / w, lane w (v s).toNat j = f j % 2 ^ w) :
    LandsLanes i sl s lat d w f :=
  ⟨v s, lands_of noPre (fun s => .vreg (vbase sl.slot + d.toNat) (v s)) he rfl rfl, hv⟩

end Sys2Proof.Machine
end

