-- ==== Sys2Proof/Laws/PerInstr.lean ====
section
/-! SUPPORT. For every instruction: its word holds its guard in bits 24:21 (R59, R60). -/
namespace Sys2Proof.Laws.EncodedGuard
open Sys2Proof Sys2Proof.Machine

/-- R59: bits 24:21 of the word of a slot instruction are its guard; an event and an unlisted opcode have no such word. -/
def Statement (i : Instr) : Prop :=
  (∀ x w, i ≠ .illegalOpcode x w) → slotOf i ≠ none → guardOf (encode i) = guardField i

/-- The guard above the operands. -/
theorem base (o : BitVec 7) (g : BitVec 4) : (o ++ g).extractLsb' 0 4 = g := by
  rw [BitVec.extractLsb'_append_eq_ite]; simp

/-- An operand below the guard moves it up by its width. -/
theorem low {n m k : Nat} {x : BitVec n} {g : BitVec 4} (y : BitVec m) (h : x.extractLsb' k 4 = g) :
    (x ++ y).extractLsb' (k + m) 4 = g := by
  rw [BitVec.extractLsb'_append_eq_ite, dif_neg (by omega)]
  simpa using h

theorem nop (sl : Slot) (g : BitVec 4) : Statement (.nop sl g) := fun _ _ => low _ (base _ g)
theorem add (g : BitVec 4) (d a b : BitVec 5) : Statement (.add g d a b) := fun _ _ => low _ (low _ (low _ (low _ (base _ g))))
theorem sub (g : BitVec 4) (d a b : BitVec 5) : Statement (.sub g d a b) := fun _ _ => low _ (low _ (low _ (low _ (base _ g))))
theorem mul (g : BitVec 4) (d a b : BitVec 5) : Statement (.mul g d a b) := fun _ _ => low _ (low _ (low _ (low _ (base _ g))))
theorem mulhi (g : BitVec 4) (d a b : BitVec 5) : Statement (.mulhi g d a b) := fun _ _ => low _ (low _ (low _ (low _ (base _ g))))
theorem mulhn (g : BitVec 4) (d a b : BitVec 5) : Statement (.mulhn g d a b) := fun _ _ => low _ (low _ (low _ (low _ (base _ g))))
theorem div (g : BitVec 4) (d a b : BitVec 5) : Statement (.div g d a b) := fun _ _ => low _ (low _ (low _ (low _ (base _ g))))
theorem divn (g : BitVec 4) (d a b : BitVec 5) : Statement (.divn g d a b) := fun _ _ => low _ (low _ (low _ (low _ (base _ g))))
theorem rem (g : BitVec 4) (d a b : BitVec 5) : Statement (.rem g d a b) := fun _ _ => low _ (low _ (low _ (low _ (base _ g))))
theorem remn (g : BitVec 4) (d a b : BitVec 5) : Statement (.remn g d a b) := fun _ _ => low _ (low _ (low _ (low _ (base _ g))))
theorem and (g : BitVec 4) (d a b : BitVec 5) : Statement (.and g d a b) := fun _ _ => low _ (low _ (low _ (low _ (base _ g))))
theorem or (g : BitVec 4) (d a b : BitVec 5) : Statement (.or g d a b) := fun _ _ => low _ (low _ (low _ (low _ (base _ g))))
theorem xor (g : BitVec 4) (d a b : BitVec 5) : Statement (.xor g d a b) := fun _ _ => low _ (low _ (low _ (low _ (base _ g))))
theorem shl (g : BitVec 4) (d a b : BitVec 5) : Statement (.shl g d a b) := fun _ _ => low _ (low _ (low _ (low _ (base _ g))))
theorem shr (g : BitVec 4) (d a b : BitVec 5) : Statement (.shr g d a b) := fun _ _ => low _ (low _ (low _ (low _ (base _ g))))
theorem sra (g : BitVec 4) (d a b : BitVec 5) : Statement (.sra g d a b) := fun _ _ => low _ (low _ (low _ (low _ (base _ g))))
theorem min (g : BitVec 4) (d a b : BitVec 5) : Statement (.min g d a b) := fun _ _ => low _ (low _ (low _ (low _ (base _ g))))
theorem max (g : BitVec 4) (d a b : BitVec 5) : Statement (.max g d a b) := fun _ _ => low _ (low _ (low _ (low _ (base _ g))))
theorem minn (g : BitVec 4) (d a b : BitVec 5) : Statement (.minn g d a b) := fun _ _ => low _ (low _ (low _ (low _ (base _ g))))
theorem maxn (g : BitVec 4) (d a b : BitVec 5) : Statement (.maxn g d a b) := fun _ _ => low _ (low _ (low _ (low _ (base _ g))))
theorem clz (g : BitVec 4) (d a : BitVec 5) : Statement (.clz g d a) := fun _ _ => low _ (low _ (low _ (base _ g)))
theorem popc (g : BitVec 4) (d a : BitVec 5) : Statement (.popc g d a) := fun _ _ => low _ (low _ (low _ (base _ g)))
theorem sel (g : BitVec 4) (d a b : BitVec 5) (f : BitVec 3) : Statement (.sel g d a b f) := fun _ _ => low _ (low _ (low _ (low _ (low _ (base _ g)))))
theorem scmp (g : BitVec 4) (f : BitVec 3) (a b : BitVec 5) (c : BitVec 4) : Statement (.scmp g f a b c) := fun _ _ => low _ (low _ (low _ (low _ (low _ (low _ (base _ g))))))
theorem scmpl (g : BitVec 4) (f : BitVec 3) (a : BitVec 5) (c : BitVec 4) : Statement (.scmpl g f a c) := fun _ _ => low _ (low _ (low _ (low _ (low _ (base _ g)))))
theorem addi (g : BitVec 4) (d a : BitVec 5) (i : BitVec 11) : Statement (.addi g d a i) := fun _ _ => low _ (low _ (low _ (base _ g)))
theorem andi (g : BitVec 4) (d a : BitVec 5) (i : BitVec 11) : Statement (.andi g d a i) := fun _ _ => low _ (low _ (low _ (base _ g)))
theorem ori (g : BitVec 4) (d a : BitVec 5) (i : BitVec 11) : Statement (.ori g d a i) := fun _ _ => low _ (low _ (low _ (base _ g)))
theorem xori (g : BitVec 4) (d a : BitVec 5) (i : BitVec 11) : Statement (.xori g d a i) := fun _ _ => low _ (low _ (low _ (base _ g)))
theorem shli (g : BitVec 4) (d a : BitVec 5) (i : BitVec 11) : Statement (.shli g d a i) := fun _ _ => low _ (low _ (low _ (base _ g)))
theorem shri (g : BitVec 4) (d a : BitVec 5) (i : BitVec 11) : Statement (.shri g d a i) := fun _ _ => low _ (low _ (low _ (base _ g)))
theorem srai (g : BitVec 4) (d a : BitVec 5) (i : BitVec 11) : Statement (.srai g d a i) := fun _ _ => low _ (low _ (low _ (base _ g)))
theorem ldi (g : BitVec 4) (d : BitVec 5) (i : BitVec 16) : Statement (.ldi g d i) := fun _ _ => low _ (low _ (base _ g))
theorem lit (g : BitVec 4) (d : BitVec 5) : Statement (.lit g d) := fun _ _ => low _ (low _ (base _ g))
theorem lith (g : BitVec 4) (d : BitVec 5) : Statement (.lith g d) := fun _ _ => low _ (low _ (base _ g))
theorem lqpop (g : BitVec 4) (d : BitVec 5) : Statement (.lqpop g d) := fun _ _ => low _ (low _ (base _ g))
theorem lqpeek (g : BitVec 4) (d : BitVec 5) : Statement (.lqpeek g d) := fun _ _ => low _ (low _ (base _ g))
theorem br (g : BitVec 4) (o : BitVec 21) : Statement (.br g o) := fun _ _ => low _ (base _ g)
theorem call (g : BitVec 4) (o : BitVec 21) : Statement (.call g o) := fun _ _ => low _ (base _ g)
theorem bri (g : BitVec 4) (a : BitVec 5) : Statement (.bri g a) := fun _ _ => low _ (low _ (low _ (base _ g)))
theorem ret (g : BitVec 4) : Statement (.ret g) := fun _ _ => low _ (base _ g)
theorem loop (g : BitVec 4) (a : BitVec 5) (e : BitVec 16) : Statement (.loop g a e) := fun _ _ => low _ (low _ (base _ g))
theorem loopi (g : BitVec 4) (c : BitVec 9) (e : BitVec 12) : Statement (.loopi g c e) := fun _ _ => low _ (low _ (base _ g))
theorem bswap (g : BitVec 4) (o : BitVec 21) : Statement (.bswap g o) := fun _ _ => low _ (base _ g)
theorem ifence (g : BitVec 4) : Statement (.ifence g) := fun _ _ => low _ (base _ g)
theorem tick (g : BitVec 4) : Statement (.tick g) := fun _ _ => low _ (base _ g)
theorem snow (g : BitVec 4) (d : BitVec 5) (s : BitVec 8) : Statement (.snow g d s) := fun _ _ => low _ (low _ (low _ (base _ g)))
theorem sclr (g : BitVec 4) (s : BitVec 8) : Statement (.sclr g s) := fun _ _ => low _ (low _ (base _ g))
theorem waitp (g : BitVec 4) (p : BitVec 6) : Statement (.waitp g p) := fun _ _ => low _ (low _ (base _ g))
theorem arrive (g : BitVec 4) (c : BitVec 9) : Statement (.arrive g c) := fun _ _ => low _ (low _ (base _ g))
theorem waitc (g : BitVec 4) (c : BitVec 9) : Statement (.waitc g c) := fun _ _ => low _ (low _ (base _ g))
theorem mwait (g : BitVec 4) (a b : BitVec 5) : Statement (.mwait g a b) := fun _ _ => low _ (low _ (low _ (low _ (base _ g))))
theorem fence (g : BitVec 4) (s : BitVec 3) : Statement (.fence g s) := fun _ _ => low _ (low _ (base _ g))
theorem gauge (g : BitVec 4) (d : BitVec 5) : Statement (.gauge g d) := fun _ _ => low _ (low _ (base _ g))
theorem cycles (g : BitVec 4) (d : BitVec 5) : Statement (.cycles g d) := fun _ _ => low _ (low _ (base _ g))
theorem fmtset (g : BitVec 4) (a : BitVec 5) : Statement (.fmtset g a) := fun _ _ => low _ (low _ (low _ (base _ g)))
theorem fmtget (g : BitVec 4) (d : BitVec 5) : Statement (.fmtget g d) := fun _ _ => low _ (low _ (base _ g))
theorem gseed (g : BitVec 4) (n : BitVec 2) (a : BitVec 5) : Statement (.gseed g n a) := fun _ _ => low _ (low _ (low _ (low _ (base _ g))))
theorem gbest (g : BitVec 4) (d : BitVec 5) (s : BitVec 11) : Statement (.gbest g d s) := fun _ _ => low _ (low _ (low _ (base _ g)))
theorem tstat (g : BitVec 4) (d t : BitVec 5) : Statement (.tstat g d t) := fun _ _ => low _ (low _ (low _ (base _ g)))
theorem sqpop (g : BitVec 4) (d : BitVec 5) : Statement (.sqpop g d) := fun _ _ => low _ (low _ (base _ g))
theorem ctlrd (g : BitVec 4) (d : BitVec 5) (n : BitVec 6) : Statement (.ctlrd g d n) := fun _ _ => low _ (low _ (low _ (base _ g)))
theorem ctlwr (g : BitVec 4) (d : BitVec 5) (n : BitVec 6) : Statement (.ctlwr g d n) := fun _ _ => low _ (low _ (low _ (base _ g)))
theorem trap (g : BitVec 4) (c : BitVec 16) : Statement (.trap g c) := fun _ _ => low _ (low _ (base _ g))
theorem retire (g : BitVec 4) : Statement (.retire g) := fun _ _ => low _ (base _ g)
theorem spawn (g : BitVec 4) (d a b : BitVec 5) : Statement (.spawn g d a b) := fun _ _ => low _ (low _ (low _ (low _ (base _ g))))
theorem fresume (g : BitVec 4) (a : BitVec 5) (x : BitVec 11) : Statement (.fresume g a x) := fun _ _ => low _ (low _ (low _ (base _ g)))
theorem brk (g : BitVec 4) (c : BitVec 16) : Statement (.brk g c) := fun _ _ => low _ (low _ (base _ g))
theorem vadd (sl : VSlot) (g : BitVec 4) (d a b : BitVec 5) (t m : BitVec 3) : Statement (.vadd sl g d a b t m) := fun _ _ => low _ (low _ (low _ (low _ (low _ (base _ g)))))
theorem vsub (sl : VSlot) (g : BitVec 4) (d a b : BitVec 5) (t m : BitVec 3) : Statement (.vsub sl g d a b t m) := fun _ _ => low _ (low _ (low _ (low _ (low _ (base _ g)))))
theorem vmul (sl : VSlot) (g : BitVec 4) (d a b : BitVec 5) (t m : BitVec 3) : Statement (.vmul sl g d a b t m) := fun _ _ => low _ (low _ (low _ (low _ (low _ (base _ g)))))
theorem vmin (sl : VSlot) (g : BitVec 4) (d a b : BitVec 5) (t m : BitVec 3) : Statement (.vmin sl g d a b t m) := fun _ _ => low _ (low _ (low _ (low _ (low _ (base _ g)))))
theorem vmax (sl : VSlot) (g : BitVec 4) (d a b : BitVec 5) (t m : BitVec 3) : Statement (.vmax sl g d a b t m) := fun _ _ => low _ (low _ (low _ (low _ (low _ (base _ g)))))
theorem vabs (sl : VSlot) (g : BitVec 4) (d a : BitVec 5) (t m : BitVec 3) : Statement (.vabs sl g d a t m) := fun _ _ => low _ (low _ (low _ (low _ (low _ (base _ g)))))
theorem vneg (sl : VSlot) (g : BitVec 4) (d a : BitVec 5) (t m : BitVec 3) : Statement (.vneg sl g d a t m) := fun _ _ => low _ (low _ (low _ (low _ (low _ (base _ g)))))
theorem vcmp (sl : VSlot) (g : BitVec 4) (k : BitVec 3) (a b : BitVec 5) (t : BitVec 3) (u : BitVec 1) (c : BitVec 2) : Statement (.vcmp sl g k a b t u c) := fun _ _ => low _ (low _ (low _ (low _ (low _ (low _ (low _ (base _ g)))))))
theorem vsel (sl : VSlot) (g : BitVec 4) (d a b : BitVec 5) (t k : BitVec 3) : Statement (.vsel sl g d a b t k) := fun _ _ => low _ (low _ (low _ (low _ (low _ (base _ g)))))
theorem vand (sl : VSlot) (g : BitVec 4) (d a b : BitVec 5) (t m : BitVec 3) : Statement (.vand sl g d a b t m) := fun _ _ => low _ (low _ (low _ (low _ (low _ (base _ g)))))
theorem vor (sl : VSlot) (g : BitVec 4) (d a b : BitVec 5) (t m : BitVec 3) : Statement (.vor sl g d a b t m) := fun _ _ => low _ (low _ (low _ (low _ (low _ (base _ g)))))
theorem vxor (sl : VSlot) (g : BitVec 4) (d a b : BitVec 5) (t m : BitVec 3) : Statement (.vxor sl g d a b t m) := fun _ _ => low _ (low _ (low _ (low _ (low _ (base _ g)))))
theorem vshl (sl : VSlot) (g : BitVec 4) (d a b : BitVec 5) (t m : BitVec 3) : Statement (.vshl sl g d a b t m) := fun _ _ => low _ (low _ (low _ (low _ (low _ (base _ g)))))
theorem vshr (sl : VSlot) (g : BitVec 4) (d a b : BitVec 5) (t m : BitVec 3) : Statement (.vshr sl g d a b t m) := fun _ _ => low _ (low _ (low _ (low _ (low _ (base _ g)))))
theorem vsra (sl : VSlot) (g : BitVec 4) (d a b : BitVec 5) (t m : BitVec 3) : Statement (.vsra sl g d a b t m) := fun _ _ => low _ (low _ (low _ (low _ (low _ (base _ g)))))
theorem vcvt (sl : VSlot) (g : BitVec 4) (d a : BitVec 5) (x y : BitVec 1) (s t r : BitVec 3) : Statement (.vcvt sl g d a x y s t r) := fun _ _ => low _ (low _ (low _ (low _ (low _ (low _ (low _ (base _ g)))))))
theorem vdiv (sl : VSlot) (g : BitVec 4) (d a b : BitVec 5) (t r : BitVec 3) : Statement (.vdiv sl g d a b t r) := fun _ _ => low _ (low _ (low _ (low _ (low _ (base _ g)))))
theorem vsqrt (sl : VSlot) (g : BitVec 4) (d a : BitVec 5) (t r : BitVec 3) : Statement (.vsqrt sl g d a t r) := fun _ _ => low _ (low _ (low _ (low _ (low _ (base _ g)))))
theorem vrcp (sl : VSlot) (g : BitVec 4) (d a : BitVec 5) (t r : BitVec 3) : Statement (.vrcp sl g d a t r) := fun _ _ => low _ (low _ (low _ (low _ (low _ (base _ g)))))
theorem vrsq (sl : VSlot) (g : BitVec 4) (d a : BitVec 5) (t r : BitVec 3) : Statement (.vrsq sl g d a t r) := fun _ _ => low _ (low _ (low _ (low _ (low _ (base _ g)))))
theorem vexp2 (sl : VSlot) (g : BitVec 4) (d a : BitVec 5) (t r : BitVec 3) : Statement (.vexp2 sl g d a t r) := fun _ _ => low _ (low _ (low _ (low _ (low _ (base _ g)))))
theorem vlog2 (sl : VSlot) (g : BitVec 4) (d a : BitVec 5) (t r : BitVec 3) : Statement (.vlog2 sl g d a t r) := fun _ _ => low _ (low _ (low _ (low _ (low _ (base _ g)))))
theorem vredadd (sl : VSlot) (g : BitVec 4) (d a : BitVec 5) (t m : BitVec 3) : Statement (.vredadd sl g d a t m) := fun _ _ => low _ (low _ (low _ (low _ (low _ (base _ g)))))
theorem vredmax (sl : VSlot) (g : BitVec 4) (d a : BitVec 5) (t m : BitVec 3) : Statement (.vredmax sl g d a t m) := fun _ _ => low _ (low _ (low _ (low _ (low _ (base _ g)))))
theorem vredmin (sl : VSlot) (g : BitVec 4) (d a : BitVec 5) (t m : BitVec 3) : Statement (.vredmin sl g d a t m) := fun _ _ => low _ (low _ (low _ (low _ (low _ (base _ g)))))
theorem vargmx (sl : VSlot) (g : BitVec 4) (d a : BitVec 5) (t m : BitVec 3) : Statement (.vargmx sl g d a t m) := fun _ _ => low _ (low _ (low _ (low _ (low _ (base _ g)))))
theorem vbcast (sl : VSlot) (g : BitVec 4) (d a : BitVec 5) (t : BitVec 3) : Statement (.vbcast sl g d a t) := fun _ _ => low _ (low _ (low _ (low _ (low _ (base _ g)))))
theorem vperm (sl : VSlot) (g : BitVec 4) (d a b : BitVec 5) (t : BitVec 3) : Statement (.vperm sl g d a b t) := fun _ _ => low _ (low _ (low _ (low _ (low _ (base _ g)))))
theorem vmov (sl : VSlot) (g : BitVec 4) (d a : BitVec 5) : Statement (.vmov sl g d a) := fun _ _ => low _ (low _ (low _ (base _ g)))
theorem xmov (sl : VSlot) (g : BitVec 4) (d a : BitVec 5) : Statement (.xmov sl g d a) := fun _ _ => low _ (low _ (low _ (base _ g)))
theorem vfma_d (sl : VSlot) (g : BitVec 4) (d a b c : BitVec 5) (n : BitVec 1) : Statement (.vfma_d sl g d a b c n) := fun _ _ => low _ (low _ (low _ (low _ (low _ (base _ g)))))
theorem vfma_s (sl : VSlot) (g : BitVec 4) (d a b c : BitVec 5) (n : BitVec 1) : Statement (.vfma_s sl g d a b c n) := fun _ _ => low _ (low _ (low _ (low _ (low _ (base _ g)))))
theorem vfma_h (sl : VSlot) (g : BitVec 4) (d a b c : BitVec 5) (n : BitVec 1) : Statement (.vfma_h sl g d a b c n) := fun _ _ => low _ (low _ (low _ (low _ (low _ (base _ g)))))
theorem vfma_b (sl : VSlot) (g : BitVec 4) (d a b c : BitVec 5) (n : BitVec 1) : Statement (.vfma_b sl g d a b c n) := fun _ _ => low _ (low _ (low _ (low _ (low _ (base _ g)))))
theorem bclr (sl : VSlot) (g : BitVec 4) (n : BitVec 2) : Statement (.bclr sl g n) := fun _ _ => low _ (low _ (low _ (base _ g)))
theorem bacc (sl : VSlot) (g : BitVec 4) (n : BitVec 2) (a b : BitVec 5) (t : BitVec 3) : Statement (.bacc sl g n a b t) := fun _ _ => low _ (low _ (low _ (low _ (low _ (low _ (base _ g))))))
theorem badd (sl : VSlot) (g : BitVec 4) (n m : BitVec 2) : Statement (.badd sl g n m) := fun _ _ => low _ (low _ (low _ (low _ (low _ (base _ g)))))
theorem brnd (sl : VSlot) (g : BitVec 4) (d : BitVec 5) (n : BitVec 2) (t r : BitVec 3) : Statement (.brnd sl g d n t r) := fun _ _ => low _ (low _ (low _ (low _ (low _ (low _ (base _ g))))))
theorem bsgn (sl : VSlot) (g : BitVec 4) (f : BitVec 3) (n c : BitVec 2) : Statement (.bsgn sl g f n c) := fun _ _ => low _ (low _ (low _ (low _ (low _ (low _ (base _ g))))))
theorem bmovb (sl : VSlot) (g : BitVec 4) (d : BitVec 5) (n : BitVec 2) (p : BitVec 1) : Statement (.bmovb sl g d n p) := fun _ _ => low _ (low _ (low _ (low _ (low _ (base _ g)))))
theorem vsumm (sl : VSlot) (g : BitVec 4) (f k : BitVec 3) : Statement (.vsumm sl g f k) := fun _ _ => low _ (low _ (low _ (low _ (low _ (base _ g)))))
theorem vcount (sl : VSlot) (g : BitVec 4) (d : BitVec 5) (k : BitVec 3) : Statement (.vcount sl g d k) := fun _ _ => low _ (low _ (low _ (low _ (base _ g))))
theorem kand (sl : VSlot) (g : BitVec 4) (d a b : BitVec 3) : Statement (.kand sl g d a b) := fun _ _ => low _ (low _ (low _ (low _ (low _ (low _ (low _ (base _ g)))))))
theorem kor (sl : VSlot) (g : BitVec 4) (d a b : BitVec 3) : Statement (.kor sl g d a b) := fun _ _ => low _ (low _ (low _ (low _ (low _ (low _ (low _ (base _ g)))))))
theorem kxor (sl : VSlot) (g : BitVec 4) (d a b : BitVec 3) : Statement (.kxor sl g d a b) := fun _ _ => low _ (low _ (low _ (low _ (low _ (low _ (low _ (base _ g)))))))
theorem knot (sl : VSlot) (g : BitVec 4) (d a : BitVec 3) : Statement (.knot sl g d a) := fun _ _ => low _ (low _ (low _ (low _ (low _ (base _ g)))))
theorem sfeed (sl : VSlot) (g : BitVec 4) (a : BitVec 5) (s : BitVec 8) : Statement (.sfeed sl g a s) := fun _ _ => low _ (low _ (low _ (low _ (base _ g))))
theorem twrow (sl : VSlot) (g : BitVec 4) (t a : BitVec 5) (i : BitVec 8) (y : BitVec 3) : Statement (.twrow sl g t a i y) := fun _ _ => low _ (low _ (low _ (low _ (base _ g))))
theorem trcol (sl : VSlot) (g : BitVec 4) (d t : BitVec 5) (i : BitVec 8) (y : BitVec 3) : Statement (.trcol sl g d t i y) := fun _ _ => low _ (low _ (low _ (low _ (base _ g))))
theorem trrow (sl : VSlot) (g : BitVec 4) (d t : BitVec 5) (i : BitVec 8) (y : BitVec 3) : Statement (.trrow sl g d t i y) := fun _ _ => low _ (low _ (low _ (low _ (base _ g))))
theorem psend (sl : VSlot) (g : BitVec 4) (a : BitVec 5) (p : BitVec 6) : Statement (.psend sl g a p) := fun _ _ => low _ (low _ (low _ (low _ (base _ g))))
theorem ptake (sl : VSlot) (g : BitVec 4) (d : BitVec 5) (p : BitVec 6) : Statement (.ptake sl g d p) := fun _ _ => low _ (low _ (low _ (low _ (base _ g))))
theorem plook (sl : VSlot) (g : BitVec 4) (d : BitVec 5) (p : BitVec 6) : Statement (.plook sl g d p) := fun _ _ => low _ (low _ (low _ (low _ (base _ g))))
theorem vsnorm (sl : VSlot) (g : BitVec 4) (d a b : BitVec 5) (t r : BitVec 3) : Statement (.vsnorm sl g d a b t r) := fun _ _ => low _ (low _ (low _ (low _ (low _ (base _ g)))))
theorem vcbq (sl : VSlot) (g : BitVec 4) (d a : BitVec 5) (t : BitVec 3) : Statement (.vcbq sl g d a t) := fun _ _ => low _ (low _ (low _ (low _ (low _ (base _ g)))))
theorem vcbx (sl : VSlot) (g : BitVec 4) (d a : BitVec 5) (t : BitVec 3) : Statement (.vcbx sl g d a t) := fun _ _ => low _ (low _ (low _ (low _ (low _ (base _ g)))))
theorem cbld (sl : VSlot) (g : BitVec 4) (a : BitVec 5) (t : BitVec 3) : Statement (.cbld sl g a t) := fun _ _ => low _ (low _ (low _ (low _ (low _ (base _ g)))))
theorem mpush (g : BitVec 4) (a b : BitVec 5) (k : BitVec 7) (x y : BitVec 1) (m : BitVec 2) : Statement (.mpush g a b k x y m) := fun _ _ => low _ (low _ (low _ (low _ (low _ (low _ (base _ g))))))
theorem mshift (g : BitVec 4) : Statement (.mshift g) := fun _ _ => low _ (base _ g)
theorem macc (g : BitVec 4) (t : BitVec 5) (k : BitVec 7) (w : BitVec 1) : Statement (.macc g t k w) := fun _ _ => low _ (low _ (low _ (low _ (low _ (base _ g)))))
theorem mdrain (g : BitVec 4) (t : BitVec 5) (k : BitVec 7) (m : BitVec 2) : Statement (.mdrain g t k m) := fun _ _ => low _ (low _ (low _ (low _ (low _ (base _ g)))))
theorem mclr (g : BitVec 4) : Statement (.mclr g) := fun _ _ => low _ (base _ g)
theorem mmask (g : BitVec 4) (r c : BitVec 7) : Statement (.mmask g r c) := fun _ _ => low _ (low _ (low _ (base _ g)))
theorem mpushg (g : BitVec 4) (a : BitVec 5) (n : BitVec 2) (k : BitVec 7) (w : BitVec 1) (m : BitVec 2) : Statement (.mpushg g a n k w m) := fun _ _ => low _ (low _ (low _ (low _ (low _ (low _ (low _ (base _ g)))))))
theorem mgload (g : BitVec 4) (t : BitVec 5) (n : BitVec 2) (w : BitVec 1) : Statement (.mgload g t n w) := fun _ _ => low _ (low _ (low _ (low _ (low _ (low _ (base _ g))))))
theorem msrch (g : BitVec 4) (t : BitVec 5) (n : BitVec 2) (c : BitVec 7) (w : BitVec 1) : Statement (.msrch g t n c w) := fun _ _ => low _ (low _ (low _ (low _ (low _ (low _ (base _ g))))))
theorem msproj (g : BitVec 4) (t d : BitVec 5) (n : BitVec 7) (w : BitVec 1) : Statement (.msproj g t d n w) := fun _ _ => low _ (low _ (low _ (low _ (low _ (base _ g)))))
theorem mpushd (g : BitVec 4) (a b : BitVec 5) (k : BitVec 7) (x y : BitVec 1) (m : BitVec 2) : Statement (.mpushd g a b k x y m) := fun _ _ => low _ (low _ (low _ (low _ (low _ (low _ (base _ g))))))
theorem lda (sl : CSlot) (g : BitVec 4) (a : BitVec 5) (w : BitVec 2) (o : BitVec 9) : Statement (.lda sl g a w o) := fun _ _ => low _ (low _ (low _ (low _ (base _ g))))
theorem vlda (sl : CSlot) (g : BitVec 4) (a : BitVec 5) (o : BitVec 9) : Statement (.vlda sl g a o) := fun _ _ => low _ (low _ (low _ (low _ (base _ g))))
theorem tlrow (sl : CSlot) (g : BitVec 4) (t a : BitVec 5) (n : BitVec 8) : Statement (.tlrow sl g t a n) := fun _ _ => low _ (low _ (low _ (low _ (base _ g))))
theorem st (sl : CSlot) (g : BitVec 4) (d a : BitVec 5) (w : BitVec 2) (o : BitVec 9) : Statement (.st sl g d a w o) := fun _ _ => low _ (low _ (low _ (low _ (base _ g))))
theorem vst (sl : CSlot) (g : BitVec 4) (d a : BitVec 5) (o : BitVec 9) : Statement (.vst sl g d a o) := fun _ _ => low _ (low _ (low _ (low _ (base _ g))))
theorem tsrow (sl : CSlot) (g : BitVec 4) (t a : BitVec 5) (n : BitVec 8) : Statement (.tsrow sl g t a n) := fun _ _ => low _ (low _ (low _ (low _ (base _ g))))
theorem atom (sl : CSlot) (g : BitVec 4) (d a b : BitVec 5) (o : BitVec 3) (u : BitVec 1) (w : BitVec 2) : Statement (.atom sl g d a b o u w) := fun _ _ => low _ (low _ (low _ (low _ (low _ (low _ (base _ g))))))
theorem aupd (sl : CSlot) (g : BitVec 4) (d : BitVec 5) (i : BitVec 11) : Statement (.aupd sl g d i) := fun _ _ => low _ (low _ (low _ (base _ g)))
theorem aupds (sl : CSlot) (g : BitVec 4) (d a : BitVec 5) : Statement (.aupds sl g d a) := fun _ _ => low _ (low _ (low _ (base _ g)))
theorem fcopy (sl : CSlot) (g : BitVec 4) (t a b e : BitVec 5) : Statement (.fcopy sl g t a b e) := fun _ _ => low _ (low _ (low _ (low _ (low _ (base _ g)))))
theorem fshape (sl : CSlot) (g : BitVec 4) (a e : BitVec 5) : Statement (.fshape sl g a e) := fun _ _ => low _ (low _ (low _ (low _ (low _ (base _ g)))))
theorem fstamp (sl : CSlot) (g : BitVec 4) (a b : BitVec 5) : Statement (.fstamp sl g a b) := fun _ _ => low _ (low _ (low _ (low _ (base _ g))))
theorem fquant (sl : CSlot) (g : BitVec 4) (t a b e : BitVec 5) : Statement (.fquant sl g t a b e) := fun _ _ => low _ (low _ (low _ (low _ (low _ (base _ g)))))
theorem fdedup (sl : CSlot) (g : BitVec 4) (t a b e : BitVec 5) (x : BitVec 1) : Statement (.fdedup sl g t a b e x) := fun _ _ => low _ (low _ (low _ (low _ (low _ (base _ g)))))
theorem falloc (sl : CSlot) (g : BitVec 4) (t a b c : BitVec 5) (x : BitVec 1) : Statement (.falloc sl g t a b c x) := fun _ _ => low _ (low _ (low _ (low _ (low _ (base _ g)))))
theorem ffree (sl : CSlot) (g : BitVec 4) (t a b : BitVec 5) (x : BitVec 1) : Statement (.ffree sl g t a b x) := fun _ _ => low _ (low _ (low _ (low _ (low _ (base _ g)))))
theorem fatom (sl : CSlot) (g : BitVec 4) (t a b o : BitVec 5) (x : BitVec 1) : Statement (.fatom sl g t a b o x) := fun _ _ => low _ (low _ (low _ (low _ (low _ (base _ g)))))
theorem fmtag (sl : CSlot) (g : BitVec 4) (t a b : BitVec 5) : Statement (.fmtag sl g t a b) := fun _ _ => low _ (low _ (low _ (low _ (base _ g))))
theorem fkvmap (sl : CSlot) (g : BitVec 4) (t a b : BitVec 5) (x : BitVec 1) : Statement (.fkvmap sl g t a b x) := fun _ _ => low _ (low _ (low _ (low _ (low _ (base _ g)))))
theorem fcard (sl : CSlot) (g : BitVec 4) (t a : BitVec 5) : Statement (.fcard sl g t a) := fun _ _ => low _ (low _ (low _ (base _ g)))
theorem fsum (sl : CSlot) (g : BitVec 4) (t a b e : BitVec 5) : Statement (.fsum sl g t a b e) := fun _ _ => low _ (low _ (low _ (low _ (low _ (base _ g)))))
theorem froom (sl : CSlot) (g : BitVec 4) (d : BitVec 5) : Statement (.froom sl g d) := fun _ _ => low _ (low _ (base _ g))
theorem emptyBundle (core : Nat) : Statement (.emptyBundle core) := fun _ h => absurd rfl h
theorem pauseOverdue (core : Nat) : Statement (.pauseOverdue core) := fun _ h => absurd rfl h
theorem idleCoreChoose (core : Nat) : Statement (.idleCoreChoose core) := fun _ h => absurd rfl h
theorem admissionDecision : Statement (.admissionDecision) := fun _ h => absurd rfl h
theorem headReserving (stream : Nat) : Statement (.headReserving stream) := fun _ h => absurd rfl h
theorem startStep (gang : Nat) : Statement (.startStep gang) := fun _ h => absurd rfl h
theorem spawnStart (core ctx : Nat) : Statement (.spawnStart core ctx) := fun _ h => absurd rfl h
theorem cardDeliver (card : Nat) : Statement (.cardDeliver card) := fun _ h => absurd rfl h
theorem cardComplete (card : Nat) : Statement (.cardComplete card) := fun _ h => absurd rfl h
theorem cardWatchdog (card : Nat) : Statement (.cardWatchdog card) := fun _ h => absurd rfl h
theorem faultRecordWrite (core ctx : Nat) : Statement (.faultRecordWrite core ctx) := fun _ h => absurd rfl h
theorem handlerStart (core ctx : Nat) : Statement (.handlerStart core ctx) := fun _ h => absurd rfl h
theorem completionRecordWrite (gang : Nat) : Statement (.completionRecordWrite gang) := fun _ h => absurd rfl h
theorem evictionRequest (gang : Nat) : Statement (.evictionRequest gang) := fun _ h => absurd rfl h
theorem evictionSave (gang : Nat) : Statement (.evictionSave gang) := fun _ h => absurd rfl h
theorem checkpointRequest (gang : Nat) : Statement (.checkpointRequest gang) := fun _ h => absurd rfl h
theorem checkpointComplete (gang : Nat) : Statement (.checkpointComplete gang) := fun _ h => absurd rfl h
theorem gangTerminate (gang : Nat) : Statement (.gangTerminate gang) := fun _ h => absurd rfl h
theorem eventRingTimeTrigger (ring : Nat) : Statement (.eventRingTimeTrigger ring) := fun _ h => absurd rfl h
theorem econsWrite (ring : Nat) (val : Word) : Statement (.econsWrite ring val) := fun _ h => absurd rfl h
theorem eventRingOvClear (port ring : Nat) : Statement (.eventRingOvClear port ring) := fun _ h => absurd rfl h
theorem qctlErrClear (stream : Nat) : Statement (.qctlErrClear stream) := fun _ h => absurd rfl h
theorem qctlEnable (stream : Nat) (en : Bool) : Statement (.qctlEnable stream en) := fun _ h => absurd rfl h
theorem registerWrite (port off : Nat) (val : Word) : Statement (.registerWrite port off val) := fun _ h => absurd rfl h
theorem mownClaim (port : Nat) : Statement (.mownClaim port) := fun _ h => absurd rfl h
theorem mownRelease (port : Nat) : Statement (.mownRelease port) := fun _ h => absurd rfl h
theorem mownErrorClear (port : Nat) : Statement (.mownErrorClear port) := fun _ h => absurd rfl h
theorem hostLinkDown (port : Nat) : Statement (.hostLinkDown port) := fun _ h => absurd rfl h
theorem tripClear (port core : Nat) (bits : BitVec 16) : Statement (.tripClear port core bits) := fun _ h => absurd rfl h
theorem peakClear (port core : Nat) : Statement (.peakClear port core) := fun _ h => absurd rfl h
theorem droopReport (core : Nat) (levels : BitVec 48) : Statement (.droopReport core levels) := fun _ h => absurd rfl h
theorem gaugeUnsync : Statement (.gaugeUnsync) := fun _ h => absurd rfl h
theorem sizenFlit (port : Nat) (gauge : Word) : Statement (.sizenFlit port gauge) := fun _ h => absurd rfl h
theorem linkFail (port : Nat) : Statement (.linkFail port) := fun _ h => absurd rfl h
theorem deviceFailureRecovery (chip : Nat) (spare : Bool) : Statement (.deviceFailureRecovery chip spare) := fun _ h => absurd rfl h
theorem powerUp (img : Image) (domain : Option Domain) : Statement (.powerUp img domain) := fun _ h => absurd rfl h
theorem bootRetry (img : Image) (domain : Option Domain) : Statement (.bootRetry img domain) := fun _ h => absurd rfl h
theorem standbyEnter : Statement (.standbyEnter) := fun _ h => absurd rfl h
theorem standbyWake (domain : Option Domain) : Statement (.standbyWake domain) := fun _ h => absurd rfl h
theorem thermalMonitor (temp : BitVec 8) (vmin : BitVec 12) (watts : Nat) : Statement (.thermalMonitor temp vmin watts) := fun _ h => absurd rfl h
theorem attestationRequest (nonce : List Byte) : Statement (.attestationRequest nonce) := fun _ h => absurd rfl h
theorem heartwoodTableChange (change : TableChange) : Statement (.heartwoodTableChange change) := fun _ h => absurd rfl h
theorem ferryIssue (ferry : Nat) : Statement (.ferryIssue ferry) := fun _ h => absurd rfl h
theorem ferryChunk (ferry stream : Nat) : Statement (.ferryChunk ferry stream) := fun _ h => absurd rfl h
theorem pageArrive (ferry cmd : Nat) (resolved : Bool) : Statement (.pageArrive ferry cmd resolved) := fun _ h => absurd rfl h
theorem stampWrite (ferry cmd : Nat) : Statement (.stampWrite ferry cmd) := fun _ h => absurd rfl h
theorem countedLine (ferry cmd : Nat) : Statement (.countedLine ferry cmd) := fun _ h => absurd rfl h
theorem fmtagApply (ferry cmd : Nat) : Statement (.fmtagApply ferry cmd) := fun _ h => absurd rfl h
theorem migrationStart (asid bid : Nat) (frames : List Nat) : Statement (.migrationStart asid bid frames) := fun _ h => absurd rfl h
theorem migrationCopy (asid bid : Nat) : Statement (.migrationCopy asid bid) := fun _ h => absurd rfl h
theorem requantBlock (asid bid block : Nat) : Statement (.requantBlock asid bid block) := fun _ h => absurd rfl h
theorem cowService (ferry cmd : Nat) : Statement (.cowService ferry cmd) := fun _ h => absurd rfl h
theorem memoryPoison (chip : Nat) (error : StoreError Nat) : Statement (.memoryPoison chip error) := fun _ h => absurd rfl h
theorem coreStorageError (core : Nat) (error : StoreError Place) : Statement (.coreStorageError core error) := fun _ h => absurd rfl h
theorem searchJobEnd (core : Nat) : Statement (.searchJobEnd core) := fun _ h => absurd rfl h
theorem arriveCount (core conf : Nat) : Statement (.arriveCount core conf) := fun _ h => absurd rfl h
theorem peerGrant (core access : Nat) : Statement (.peerGrant core access) := fun _ h => absurd rfl h
theorem illegalOpcode (slot : Slot) (word : Word32) : Statement (.illegalOpcode slot word) := fun h _ => absurd rfl (h _ _)
theorem sizenLinkTrained (port peer : Nat) : Statement (.sizenLinkTrained port peer) := fun _ h => absurd rfl h
theorem hostPortTraining (port : Nat) (near far : List HostGen) : Statement (.hostPortTraining port near far) := fun _ h => absurd rfl h
theorem cxlMemAccess (port addr len : Nat) (store : Option (List Byte)) : Statement (.cxlMemAccess port addr len store) := fun _ h => absurd rfl h

end Sys2Proof.Laws.EncodedGuard
end

