-- ==== Sys2Proof/Tests/Slice0.lean ====
section
/-! SUPPORT. Words written out from the spec's encodings with what they decode to, ill-formed terms that are refused, small
steps with results taken from the spec's words, and a witness for the hypotheses of each statement. -/
namespace Sys2Proof.Tests
open Sys2Proof Sys2Proof.Machine

set_option Elab.async false

/-! ## Decoding (R59, R61, R69-R72)

The words with no rule's example are laid out from the fields of the opcode table. -/

def wordsS0 : List (Word32 × Instr) :=
  [(0x02041800, .add 0 4 3 0), (0x04032140, .sub 0 3 4 5), (0x06032140, .mul 0 3 4 5), (0x08032140, .mulhi 0 3 4 5),
   (0x0A032140, .mulhn 0 3 4 5), (0x0C032140, .div 0 3 4 5), (0x0E032140, .divn 0 3 4 5), (0x10032140, .rem 0 3 4 5),
   (0x12032140, .remn 0 3 4 5), (0x14032140, .and 0 3 4 5), (0x16032140, .or 0 3 4 5), (0x18032140, .xor 0 3 4 5),
   (0x1A032140, .shl 0 3 4 5), (0x1C032140, .shr 0 3 4 5), (0x1E032140, .sra 0 3 4 5), (0x20032140, .min 0 3 4 5),
   (0x22032140, .max 0 3 4 5), (0x24032140, .minn 0 3 4 5), (0x26032140, .maxn 0 3 4 5), (0x28032000, .clz 0 3 4),
   (0x2A032000, .popc 0 3 4), (0x2C032146, .sel 0 3 4 5 6), (0x2E018802, .scmp 0 1 17 0 2),
   (0x30012009, .scmpl 0 1 4 9)]

def wordsS1 : List (Word32 × Instr) :=
  [(0x40031801, .addi 0 3 3 1), (0x42032007, .andi 0 3 4 7), (0x44032007, .ori 0 3 4 7), (0x46032007, .xori 0 3 4 7),
   (0x4803203F, .shli 0 3 4 63), (0x4A032007, .shri 0 3 4 7), (0x4C032007, .srai 0 3 4 7), (0x50010006, .ldi 0 1 6),
   (0x52030000, .lit 0 3), (0x54030000, .lith 0 3), (0x60030000, .lqpop 0 3), (0x62030000, .lqpeek 0 3),
   (0x8000000C, .br 0 12), (0x821FFFFC, .call 0 0x1ffffc), (0x84002000, .bri 0 4), (0x86000000, .ret 0),
   (0x8804012C, .loop 0 4 300), (0x8A003004, .loopi 0 3 4), (0x8C000010, .bswap 0 16), (0x8E000000, .ifence 0),
   (0xA0000000, .tick 0), (0xA2050003, .snow 0 5 3), (0xA4000003, .sclr 0 3), (0xA6000004, .waitp 0 4)]

def wordsS2 : List (Word32 × Instr) :=
  [(0xA800000A, .arrive 0 10), (0xAA00000A, .waitc 0 10), (0xAC008380, .mwait 0 16 14), (0xAE000003, .fence 0 3),
   (0xB0030000, .gauge 0 3), (0xB2030000, .cycles 0 3), (0xB4004800, .fmtset 0 9), (0xB6030000, .fmtget 0 3),
   (0xB8012800, .gseed 0 1 5), (0xBA030001, .gbest 0 3 1), (0xBC033000, .tstat 0 3 6), (0xBE030000, .sqpop 0 3),
   (0xC003000D, .ctlrd 0 3 13), (0xC2030006, .ctlwr 0 3 6), (0xC4000123, .trap 0 291), (0xC6000000, .retire 0),
   (0xC8032140, .spawn 0 3 4 5), (0xCA002001, .fresume 0 4 1), (0xCC000000, .brk 0 0)]

def wordsV0 : List (Word32 × Instr) :=
  [(0x020110C8, .vadd .v0 0 1 2 3 1 0), (0x0403214A, .vsub .v0 0 3 4 5 1 2), (0x0603216D, .vmul .v0 0 3 4 5 5 5),
   (0x08032148, .vmin .v0 0 3 4 5 1 0), (0x0A032148, .vmax .v0 0 3 4 5 1 0), (0x0C032008, .vabs .v0 0 3 4 1 0),
   (0x0E032008, .vneg .v0 0 3 4 1 0), (0x100110CA, .vcmp .v0 0 1 2 3 1 0 2), (0x1203214D, .vsel .v0 0 3 4 5 1 5),
   (0x14032170, .vand .v0 0 3 4 5 6 0), (0x16032170, .vor .v0 0 3 4 5 6 0), (0x18032170, .vxor .v0 0 3 4 5 6 0),
   (0x1A032170, .vshl .v0 0 3 4 5 6 0), (0x1C032170, .vshr .v0 0 3 4 5 6 0), (0x1E032168, .vsra .v0 0 3 4 5 5 0),
   (0x20021889, .vcvt .v0 0 2 3 0 0 2 1 1), (0x22032149, .vdiv .v0 0 3 4 5 1 1), (0x24032009, .vsqrt .v0 0 3 4 1 1),
   (0x26032009, .vrcp .v0 0 3 4 1 1), (0x28032009, .vrsq .v0 0 3 4 1 1), (0x2A032009, .vexp2 .v0 0 3 4 1 1),
   (0x2C032009, .vlog2 .v0 0 3 4 1 1), (0x2E032008, .vredadd .v0 0 3 4 1 0), (0x30032008, .vredmax .v0 0 3 4 1 0)]

def wordsV1 : List (Word32 × Instr) :=
  [(0x32032008, .vredmin .v0 0 3 4 1 0), (0x34032020, .vargmx .v0 0 3 4 4 0), (0x36032030, .vbcast .v0 0 3 4 6),
   (0x38032178, .vperm .v0 0 3 4 5 7), (0x3A032000, .vmov .v0 0 3 4), (0x3C032000, .xmov .v0 0 3 4),
   (0x4003214C, .vfma_d .v0 0 3 4 5 6 0), (0x4203214C, .vfma_s .v0 0 3 4 5 6 0),
   (0x4403214C, .vfma_h .v0 0 3 4 5 6 0), (0x4603214D, .vfma_b .v0 0 3 4 5 6 1), (0x50020000, .bclr .v0 0 2),
   (0x520010C0, .bacc .v0 0 0 2 3 0), (0x54011800, .badd .v0 0 1 3), (0x5603100B, .brnd .v0 0 3 2 1 3),
   (0x58011002, .bsgn .v0 0 1 2 2), (0x5A031001, .bmovb .v0 0 3 2 1), (0x60020800, .vsumm .v0 0 2 1),
   (0x62030800, .vcount .v0 0 3 1), (0x640110C0, .kand .v0 0 1 2 3), (0x66042980, .kor .v0 0 4 5 6),
   (0x68070880, .kxor .v0 0 7 1 2), (0x6A032000, .knot .v0 0 3 4), (0x80001808, .sfeed .v0 0 3 1),
   (0x90001001, .twrow .v0 0 0 2 0 1)]

def wordsV2 : List (Word32 × Instr) :=
  [(0x92060001, .trcol .v0 0 6 0 0 1), (0x94033029, .trrow .v0 0 3 6 5 1), (0xA0001880, .psend .v0 0 3 4),
   (0xA2050080, .ptake .v0 0 5 4), (0xA4030080, .plook .v0 0 3 4), (0xB0032149, .vsnorm .v0 0 3 4 5 1 1),
   (0xB8032008, .vcbq .v0 0 3 4 1), (0xBA032008, .vcbx .v0 0 3 4 1), (0xBC002008, .cbld .v0 0 4 1)]

def wordsM : List (Word32 × Instr) :=
  [(0x02000810, .mpush 0 0 1 1 0 0 0), (0x04000000, .mshift 0), (0x06090468, .macc 0 9 70 1),
   (0x08030052, .mdrain 0 3 5 2), (0x0A000000, .mclr 0), (0x0C004080, .mmask 0 1 1),
   (0x0E000830, .mpushg 0 0 1 3 0 0), (0x10061000, .mgload 0 6 2 0), (0x120500F0, .msrch 0 5 0 15 0),
   (0x14053800, .msproj 0 5 7 0 0), (0x16042815, .mpushd 0 4 5 1 0 1 1)]

def wordsC : List (Word32 × Instr) :=
  [(0x02004600, .lda .c0 0 8 3 0), (0x04002800, .vlda .c0 0 5 0), (0x06044811, .tlrow .c0 0 4 9 17),
   (0x08044E02, .st .c0 0 4 9 3 2), (0x0A144801, .vst .c0 0 20 9 1), (0x0C0620C8, .tsrow .c0 0 6 4 200),
   (0x0E034903, .atom .c0 0 3 9 4 0 0 3), (0x100507C0, .aupd .c0 0 5 0x7c0), (0x12084800, .aupds .c0 0 8 9),
   (0x200052C4, .fcopy .c0 0 0 10 11 2), (0x22006004, .fshape .c0 0 12 2), (0x24006B80, .fstamp .c0 0 13 14),
   (0x261552C6, .fquant .c0 0 21 10 11 3), (0x280052C0, .fdedup .c0 0 0 10 11 0 0),
   (0x2A0052C2, .falloc .c0 0 0 10 11 1 0), (0x2C005341, .ffree .c0 0 0 10 13 1),
   (0x2E005120, .fatom .c0 0 0 10 4 16 0), (0x30005100, .fmtag .c0 0 0 10 4), (0x32005100, .fkvmap .c0 0 0 10 4 0),
   (0x34005000, .fcard .c0 0 0 10), (0x36005342, .fsum .c0 0 0 10 13 1), (0x38070000, .froom .c0 0 7)]

/-- Every word of a list decodes in its slot to the instruction beside it. -/
def decodes (sl : Slot) (ws : List (Word32 × Instr)) : Bool := ws.all fun p => (decodeSlot sl p.1).toOption == some p.2

theorem test_decode_scalar : decodes .S wordsS0 = true := by decide
theorem test_decode_immediate_control : decodes .S wordsS1 = true := by decide
theorem test_decode_special : decodes .S wordsS2 = true := by decide +kernel
theorem test_decode_vector : decodes .V0 wordsV0 = true := by decide
theorem test_decode_basin_mask : decodes .V0 wordsV1 = true := by decide
theorem test_decode_pipe_codebook : decodes .V0 wordsV2 = true := by decide +kernel
theorem test_decode_matrix : decodes .M wordsM = true := by decide
theorem test_decode_copy : decodes .C0 wordsC = true := by decide
/-- The second slot of a kind reads the same words. -/
theorem test_decode_second_slots :
    (decodeSlot .V1 0x020110C8).toOption = some (.vadd .v1 0 1 2 3 1 0) ∧
    (decodeSlot .C1 0x200052C4).toOption = some (.fcopy .c1 0 0 10 11 2) := by decide
/-- A NOP stands in every slot, with its guard; a nonzero bit below it is refused. -/
theorem test_decode_nop :
    (Slot.all.all fun sl => (decodeSlot sl 0x00A00000).toOption == some (.nop sl 5)) = true ∧
    (decodeSlot .M 0x00000001).toOption = none := by decide
/-- R74: an opcode that the map of its slot misses; R59: guard 1000. -/
theorem test_decode_refuses : decodeSlot .S 0x4E000000 = .error .illegalOpcode ∧ decodeSlot .S 0x03041800 = .error .illegalGuard :=
  ⟨rfl, rfl⟩

/-! ## Ill-formed terms -/

/-- One term for each check of `Instr.wf`: the guard, immediates, offsets, selectors, register codes, types, rounding codes,
indices, modes, operations. -/
theorem test_wf_refuses :
    ([.add 8 1 2 3, .shli 0 1 2 64, .shri 0 1 2 64, .srai 0 1 2 0x7FF, .loop 0 1 0, .loopi 0 0 4, .loopi 0 3 0,
      .bswap 0 16384, .fence 0 5, .gbest 0 3 2, .fresume 0 4 3, .scmp 0 1 2 3 10, .scmpl 0 1 2 10,
      .vadd .v0 0 16 2 3 1 0, .vadd .v0 0 1 19 3 1 0, .vadd .v0 0 1 2 19 1 0, .vadd .v0 0 1 2 3 1 5, .vmin .v0 0 1 2 3 5 1,
      .vabs .v0 0 1 2 1 1, .vcmp .v0 0 1 2 3 1 1 0, .vand .v0 0 1 2 3 1 0, .vand .v0 0 1 2 3 5 1,
      .vcvt .v0 0 1 2 1 0 5 1 0, .vcvt .v0 0 1 2 0 1 1 5 0, .vcvt .v0 0 1 2 0 0 1 5 2, .vdiv .v0 0 1 2 3 5 0,
      .vsqrt .v0 0 1 2 1 5, .xmov .v0 0 1 19, .bacc .v0 0 0 2 3 5, .brnd .v0 0 3 2 5 0, .twrow .v0 0 0 2 255 0,
      .trcol .v0 0 1 0 255 1, .vcbq .v0 0 1 2 5, .cbld .v0 0 2 5, .mpush 0 0 1 1 0 0 2, .mdrain 0 0 1 3,
      .mpushg 0 0 1 1 0 2, .msproj 0 0 1 4 0, .mpushd 0 0 1 1 0 0 3, .atom .c0 0 1 2 3 7 0 3, .atom .c0 0 1 2 3 0 1 3,
      .atom .c0 0 1 2 3 0 0 1, .falloc .c0 0 0 1 2 19 0, .fatom .c0 0 0 1 2 31 0] : List Instr).all (fun i => !i.wf) = true := by
  decide

/-! ## A small device -/

def entry0 : Entry :=
  { role := 0, core := 0, ctx := 0, pinned := false, cls := 0, offset := 0x20000, pauseBound := 0x100000, tiles := 0xFFFFFFFF,
    groves := 15, lo := 0, hi := 0x7FFFF, sigs := [], image := 0, length := 0, mailbox := 0x1000, grovetab := 0, args := [7] }
/-- An entry in another context of core 0. -/
def entryIn (x role : Nat) : Entry := { entry0 with ctx := x, role := role }
def gang1 : Gang :=
  { id := 0x0101, stream := 0, prio := 1, handler := some 0x20000, entries := [entry0], pipes := [4], confs := [(10, 2)],
    faultarea := 0x2000000000, occarea := 0, savearea := 0, himage := 0, hlength := 0, dimage := 0, ckarea := 0, asid := 1, start := 0,
    st := .running, faults := 0, first := none, unserved := none, queue := [], status := 0, evict := false, ckpt := false,
    ckDone := 0, ckSealed := [] }
def ctx0 : Ctx :=
  { life := .ready, gang := some 1, seqNext := 0x20000, prio := 1, launchPrio := 2, pauseBound := 0x100000,
    lqs := [{ id := 90, val := some 7 }],
    sregs := [(1, 0x8000000000000000), (2, 0xFFFFFFFFFFFFFFFF), (3, 5), (4, 0x1000), (5, 0x400), (6, 3), (8, 0x40), (9, 0x800),
              (16, 0x1800)] }
def signal (id q phi : Nat) : Nat × Signal :=
  (id, { owner := 0, depth := 4, q := q, phi := phi, rule := 0, fill := 0, piped := none, lags := [9], nw := true, next := 8,
         starved := false, adv := 0 })
def core0 : CoreSt :=
  { ctxs := [(0, ctx0)], issuer := some 0, last := 0, cyc := 100,
    tiles := (List.range 32).map fun n => (n, { owner := some 0 }),
    groves := (List.range 4).map fun n => (n, { owner := some 0, seed := 11 }),
    sigs := [signal 1 1 0, signal 3 2 0] }
/-- One gang with one running context on core 0, in elastic mode, in the issue of a bundle. -/
def demo : State :=
  { State.reset with
    gauge := 1000, seq := 100, gangs := [(1, gang1)], cores := [(0, core0)], pipes := [(4, { gang := some 1, entries := [3] })],
    confs := [(10, { gang := some 1, n := 2 })], cur := { addr := 0x20000, sigs := core0.sigs } }
def withCtx (f : Ctx → Ctx) : State := modCtx demo 0 0 f
def withCore (f : CoreSt → CoreSt) : State := modCore demo 0 f
def withGang (f : Gang → Gang) : State := { demo with gangs := [(1, f gang1)] }
def pinned : State := withCore fun c => { c with pinned := true }

/-- The checks of `Clear` as one Boolean. -/
def clearB (i : Instr) (sl : Slot) (s : State) : Bool :=
  i.wf && decide (literalNeed i = 0 ∨ literalNeed i = hKind s.cur.hdr) && guardPass (curCtx s) (guardField i) &&
    (grantFault s sl i).isNone && (pendingFault s sl i).isNone && (poisonFault s sl i).isNone &&
    (match sourceCheck s sl i with
     | .ok => true
     | _ => false)

theorem clear_of {i : Instr} {sl : Slot} {s : State} (h : clearB i sl s = true) : Clear i sl s := by
  simp only [clearB, Bool.and_eq_true, decide_eq_true_eq, Option.isNone_iff_eq_none] at h
  obtain ⟨⟨⟨⟨⟨⟨h1, h2⟩, h3⟩, h4⟩, h5⟩, h6⟩, h7⟩ := h
  refine ⟨h1, h2, h3, h4, h5, h6, ?_⟩
  split at h7
  · assumption
  · cases h7

/-- The bundle carries a literal of the kind that the word needs. -/
def litFor (i : Instr) : State := { demo with cur := { demo.cur with hdr := BitVec.ofNat 32 (2 ^ 10 * literalNeed i) } }
/-- `Clear` holds of every word of a list in the small device. -/
def allClear (sl : Slot) (ws : List (Word32 × Instr)) : Bool := ws.all fun p => clearB p.2 sl (litFor p.2)

theorem witness_clear_scalar : allClear .S wordsS0 = true ∧ allClear .S wordsS1 = true ∧ allClear .S wordsS2 = true := by decide +kernel
theorem witness_clear_vector : allClear .V0 wordsV0 = true ∧ allClear .V0 wordsV1 = true ∧ allClear .V0 wordsV2 = true := by decide +kernel
theorem witness_clear_matrix_copy : allClear .M wordsM = true ∧ allClear .C0 wordsC = true := by decide +kernel

/-! ## Small steps

Expected results are worked out by hand from the rule that each comment names. -/

/-- The state after an instruction. -/
def after (i : Instr) (s : State) : State := nextOr s (exec i s)
/-- The last result that an instruction puts in flight: its latency and its effect. -/
def result (i : Instr) (s : State) : Option (Nat × Eff) :=
  (curCore (after i s)).pend.getLast?.map fun p => (p.due - (curCore s).cyc, p.eff)
/-- The cause that an instruction leaves in hand. -/
def cause (i : Instr) (s : State) : Option (BitVec 7) := (curCtx (after i s)).fault.map FaultInfo.cause
/-- The low lane of width `w` of a vector result. -/
def lowLane (w : Nat) (i : Instr) (s : State) : Option Nat :=
  (result i s).bind fun r => match r.2 with
    | .vreg _ v => some (lane w v.toNat 0)
    | _ => none

-- R140: 2^63 + 2^63 wraps to 0; 5 - 2^63; 5 * (2^64 - 1) = -5
theorem test_add_wraps : result (.add 0 7 1 1) demo = some (1, .sreg 7 0) := by decide
theorem test_sub : result (.sub 0 7 3 1) demo = some (1, .sreg 7 0x8000000000000005) := by decide
theorem test_mul : result (.mul 0 7 3 2) demo = some (3, .sreg 7 0xFFFFFFFFFFFFFFFB) := by decide
-- the high half of (-2^63) * (-1) = 2^63 is 0; unsigned, 2^63 * (2^64 - 1) = 2^127 - 2^63
theorem test_mulhi : result (.mulhi 0 7 1 2) demo = some (3, .sreg 7 0) := by decide
theorem test_mulhn : result (.mulhn 0 7 1 2) demo = some (3, .sreg 7 0x7FFFFFFFFFFFFFFF) := by decide
-- R141: x / 0 is all ones and x rem 0 is x; -2^63 / -1 is -2^63, remainder 0
theorem test_div_zero : result (.div 0 7 3 0) demo = some (20, .sreg 7 0xFFFFFFFFFFFFFFFF) := by decide
theorem test_div_overflow : result (.div 0 7 1 2) demo = some (20, .sreg 7 0x8000000000000000) := by decide
theorem test_rem_zero : result (.rem 0 7 3 0) demo = some (20, .sreg 7 5) := by decide
theorem test_rem_overflow : result (.rem 0 7 1 2) demo = some (20, .sreg 7 0) := by decide
-- the guard's flag f1 is 0: no effect; with bit 24 it passes (R60)
theorem test_guard_false : (curCore (after (.add 1 7 3 3) demo)).pend = [] := by decide
theorem test_guard_inverted : result (.add 9 7 3 3) demo = some (1, .sreg 7 10) := by decide
-- R142: the immediate 0x7FF is -1; R143: 0x8000 is -32768; R144
theorem test_addi_negative : result (.addi 0 7 3 0x7FF) demo = some (1, .sreg 7 4) := by decide
theorem test_ldi_negative : result (.ldi 0 7 0x8000) demo = some (1, .sreg 7 0xFFFFFFFFFFFF8000) := by decide
theorem test_lith : result (.lith 0 3) { litFor (.lith 0 3) with cur := { (litFor (.lith 0 3)).cur with lit := 0x89ABCDEF } } =
    some (1, .sreg 3 0x89ABCDEF00000005) := by decide
-- R145: -1 < 0 signed, and not below it unsigned
theorem test_scmp_signed : result (.scmp 0 2 2 0 2) demo = some (1, .flag 2 true) := by decide
theorem test_scmp_unsigned : result (.scmp 0 2 2 0 6) demo = some (1, .flag 2 false) := by decide
-- R76: a reserved condition is 0x06; R156
theorem test_scmp_reserved : cause (.scmp 0 2 2 0 12) demo = some 0x06 := by decide
theorem test_trap : cause (.trap 0 0x123) demo = some 0x70 ∧ (curCtx (after (.trap 0 0x123) demo)).life = .stopped := by decide
-- R151: BR +12 goes 48 bytes on, three positions after its own
theorem test_br : (curCtx (after (.br 0 12) demo)).targets = [{ pos := 3, addr := 0x20030, pops := true }] := by decide
theorem test_bri_misaligned : cause (.bri 0 6) demo = some 0x09 := by decide
-- R153: LOOPI 3 with an end offset of 4 (16 bytes) pushes its entry
theorem test_loopi : (curCtx (after (.loopi 0 3 4) demo)).loops = [{ start := 0x20004, stop := 0x20010, count := 3 }] := by decide
-- R188-R190: the due signal 1 takes its next sample, the undue signal 3 keeps its own
theorem test_tick : (sigOf (curCore (after (.tick 0) demo)).sigs 1).map Signal.lags = some [8, 9] ∧
    (sigOf (curCore (after (.tick 0) (withCtx fun c => { c with tick := 0 }))).sigs 3).map Signal.lags = some [9] := by decide +kernel
-- R132: a priority above the launch's is 0x72; one within it lands at issue+1
theorem test_ctlwr_refused : cause (.ctlwr 0 6 4) demo = some 0x72 := by decide
theorem test_ctlwr : result (.ctlwr 0 0 4) demo = some (1, .ctl 4 0) := by decide
-- R164: bytes 0x7F + 1 wrap to 0x80, and saturate to 0x7F; 1.0 + 1.0 = 2.0
theorem test_vadd_bytes :
    lowLane 8 (.vadd .v0 0 1 2 3 7 0) (withCtx fun c => { c with vregs := [(2, 0x7F), (3, 1)] }) = some 0x80 := by decide +kernel
theorem test_vadd_saturates :
    lowLane 8 (.vadd .v0 0 1 2 3 7 1) (withCtx fun c => { c with vregs := [(2, 0x7F), (3, 1)] }) = some 0x7F := by decide +kernel
-- R246-R250: an 8-byte load of the own scratchpad performs three cycles on; 0x41 is misaligned for it
theorem test_lda : (curCore (after (.lda .c0 0 8 3 0) demo)).accs.map (fun a => (a.off, a.due)) = [(0x40, .cycle 103)] := by decide +kernel
theorem test_lda_misaligned :
    cause (.lda .c0 0 8 3 0) (withCtx fun c => { c with sregs := [(8, 0x41)] }) = some 0x06 := by decide +kernel
-- R286: the bundle's ferry command stands in the buffer of the core's ferry
theorem test_fsum : (ferryOf (after (.fsum .c0 0 0 10 13 1) demo) 0).cmds.map (fun c => (c.kind, c.e)) = [(.sum, 1)] := by decide +kernel
-- R85: the largest BF16 value, times 2^1, overflows to infinity in the nearest mode and stays finite toward zero
theorem test_float_overflow :
    fRound { rnd := 0, sub := 0, nan := false } (fmtOf 3) false 255 121 false = 0x7F80 ∧
    fRound { rnd := 1, sub := 0, nan := false } (fmtOf 3) false 255 121 false = 0x7F7F := by decide +kernel
-- R140: the machine's own step from reset begins a gauge step (R317)
theorem test_first_step : step State.reset =
    .next { State.reset with gauge := 1, agenda := [.inputs, .scheduler, .ferries, .cores, .loads, .issues, .settle] } := rfl
-- the word placed for the next fetch is the one that the next step runs: ADD s4, s3, s0 is in flight after it
theorem test_fetch_word : (match step (State.reset.withFetchWord 32 0x02041800) with
    | .next t => (coreOf t 0).pend.map fun p => (p.slot, p.eff)
    | _ => []) = [(0, .sreg 4 0)] := by decide +kernel

/-! ## Witnesses: the forms of the slots

Each theorem shows states and operands that meet the hypotheses of a statement's clauses together; `Clear` is met by the words
above where nothing else is said. -/

theorem witness_DivisionResults :
    (let c := curCtx demo
     sregOf c 0 = 0 ∧ sregOf c 1 = BitVec.intMin 64 ∧ sregOf c 2 = BitVec.allOnes 64 ∧ sregOf c 3 ≠ 0 ∧
     clearB (.div 0 7 3 0) .S demo = true ∧ clearB (.rem 0 7 1 2) .S demo = true ∧ clearB (.divn 0 7 1 3) .S demo = true) := by
  decide +kernel

theorem witness_CompareAndSelectResults : (2 : BitVec 4).toNat ≤ 9 ∧ (9 : BitVec 4).toNat ≤ 9 := by decide +kernel

theorem witness_RegisterReads :
    (∃ y, sigOf (curCore demo).sigs 3 = some y ∧ y.lags.length ≤ y.depth ∧ 1 ≤ y.depth ∧ y.depth ≤ 256) ∧
    (curCtx demo).gang = some 1 ∧ gangOf demo 1 = some gang1 ∧ 16 ≤ (16 : BitVec 6).toNat ∧ (23 : BitVec 6).toNat ≤ 23 ∧
    24 ≤ (24 : BitVec 6).toNat ∧ clearB (.ctlrd 0 3 3) .S demo = true ∧ clearB (.ctlrd 0 3 24) .S demo = true ∧
    clearB (.snow 0 5 3) .S demo = true :=
  ⟨⟨_, rfl, by decide, by decide, by decide⟩, by decide +kernel⟩

/-- A queue of scalars whose oldest entry has not arrived. -/
def late (p : Bool) : State := modCtx (if p then pinned else demo) 0 0 fun c => { c with lqs := [{ id := 1 }] }

theorem witness_QueueReads :
    (curCtx demo).lqs.head? = some { id := 90, val := some 7 } ∧ clearB (.lqpop 0 3) .S demo = true ∧
    (curCtx (withCtx fun c => { c with lqs := [] })).lqs = [] ∧
    clearB (.lqpeek 0 3) .S (withCtx fun c => { c with lqs := [] }) = true ∧
    (curCtx (late true)).lqs.head? = some { id := 1 } ∧ (curCore (late true)).pinned = true ∧ clearB (.lqpop 0 3) .S (late true) = true ∧
    (curCtx (late false)).lqs.head? = some { id := 1 } ∧ (curCore (late false)).pinned = false ∧
    clearB (.lqpop 0 3) .S (late false) = true := by
  decide +kernel

/-- s7 holds a value. -/
def s7 (v : Word) : State := withCtx fun c => { c with sregs := [(7, v)] }
/-- A card that context 0 of core 0 has been delivered under number 5. -/
def card5 : Card :=
  { key := 9, bytes := List.replicate 64 0, stream := 0, ring := 0, asid := 1, attempt := 0, lastReset := none, gang := 1,
    st := .delivered 0 0 900 5 }
def served : State := { modCtx (s7 5) 0 0 fun c => { c with delivery := 5 } with cards := [card5] }

theorem witness_FormatAndSeedWrites :
    (let v := sregOf (curCtx (s7 0x88)) 7
     v.extractLsb' 14 50 = 0 ∧ (v.extractLsb' 0 3).toNat ≤ 3 ∧ (v.extractLsb' 3 3).toNat ≤ 3 ∧ v.extractLsb' 10 2 ≠ 3 ∧
     ((v.extractLsb' 0 3).toNat < 2 ↔ (v.extractLsb' 3 3).toNat < 2) ∧
     (2 ≤ (v.extractLsb' 0 3).toNat ↔ v.extractLsb' 6 2 = 3)) ∧
    (sregOf (curCtx (s7 4)) 7).extractLsb' 0 3 = 4 ∧ clearB (.fmtset 0 7) .S (s7 0x88) = true ∧
    clearB (.fmtset 0 7) .S (s7 4) = true ∧ clearB (.gseed 0 1 7) .S (s7 4) = true ∧ clearB (.gseed 0 1 7) .S (s7 0) = true := by
  decide +kernel

theorem witness_ControlRegisterWrites :
    clearB (.ctlwr 0 7 24) .S (s7 0) = true ∧ (s7 4 |> fun s => (sregOf (curCtx s) 7).extractLsb' 2 62 ≠ 0) ∧
    (s7 3 |> fun s => (curCtx s).launchPrio.toNat < (sregOf (curCtx s) 7).toNat ∧ (sregOf (curCtx s) 7).extractLsb' 2 62 = 0) ∧
    clearB (.ctlwr 0 7 4) .S (s7 3) = true ∧ (sregOf (curCtx (s7 63)) 7).toNat < 64 ∧ clearB (.ctlwr 0 7 6) .S (s7 63) = true ∧
    (s7 2 |> fun s => ¬((curCtx s).launchPrio.toNat < (sregOf (curCtx s) 7).toNat)) ∧ clearB (.ctlwr 0 7 11) .S (s7 2) = true ∧
    clearB (.ctlwr 0 7 10) .S served = true ∧ cardAt served 0 0 5 = some card5 ∧
    clearB (.ctlwr 0 7 10) .S (s7 5) = true ∧ (s7 5).cards = [] := by
  decide +kernel

/-- Half 1 is live. -/
def half1 (v : Word) : State := modCtx (s7 v) 0 0 fun c => { c with liveHalf := true, sregs := [(7, v), (31, v)] }
/-- The bundle stands at another address. -/
def standAt (a : Nat) (s : State) : State := { s with cur := { s.cur with addr := a } }

theorem witness_Branches :
    -- taken in the resident region, and in each half while it is live
    (BitVec.ofNat 64 demo.cur.addr + (12 : BitVec 21).signExtend 64 * 4).toNat = 0x20030 ∧
    (sregOf (curCtx (s7 0xFFFC)) 7).toNat < 0x10000 ∧ (curCtx (s7 0xFFFC)).liveHalf = false ∧
    clearB (.bri 0 7) .S (s7 0xFFFC) = true ∧ (curCtx (half1 0x10000)).liveHalf = true ∧
    0x10000 ≤ (sregOf (curCtx (half1 0x10000)) 31).toNat ∧ clearB (.ret 0) .S (half1 0x10000) = true ∧
    -- misaligned, past the end, in the half that is not live
    (sregOf (curCtx (s7 0x21FFE)) 7).toNat % 4 ≠ 0 ∧ clearB (.bri 0 7) .S (s7 0x21FFE) = true ∧
    0x22000 ≤ (sregOf (curCtx (s7 0x22000)) 7).toNat ∧ clearB (.bri 0 7) .S (s7 0x22000) = true ∧
    (0x10000 ≤ (sregOf (curCtx (s7 0x10000)) 7).toNat ∧ (sregOf (curCtx (s7 0x10000)) 7).toNat < 0x20000) ∧
    (sregOf (curCtx (half1 0xFFFC)) 31).toNat < 0x10000 ∧ clearB (.ret 0) .S (half1 0xFFFC) = true ∧
    0x22000 ≤ (BitVec.ofNat 64 0x21000 + (0x400 : BitVec 21).signExtend 64 * 4).toNat ∧
    clearB (.call 0 0x400) .S (standAt 0x21000 demo) = true ∧
    (BitVec.ofNat 64 0xFFFC + (1 : BitVec 21).signExtend 64 * 4).toNat = 0x10000 ∧
    clearB (.br 0 1) .S (standAt 0xFFFC demo) = true := by
  decide +kernel

/-- The loop stack is full. -/
def looping : State := withCtx fun c => { c with loops := List.replicate 4 { start := 0x20000, stop := 0x20010, count := 2 } }
/-- The bundle stands in half 0. -/
def inHalf : State := standAt 0x100 demo

theorem witness_LoopsAndHalves :
    sregOf (curCtx demo) 3 ≠ 0 ∧ (curCtx demo).loops.length < 4 ∧ clearB (.loop 0 3 4) .S demo = true ∧ sregOf (curCtx demo) 0 = 0 ∧
    clearB (.loop 0 0 4) .S demo = true ∧ 4 ≤ (curCtx looping).loops.length ∧ clearB (.loop 0 3 4) .S looping = true ∧
    clearB (.loopi 0 3 4) .S looping = true ∧ 0x20000 ≤ demo.cur.addr ∧ halfWritten demo 0 true = false ∧
    clearB (.bswap 0 16) .S demo = true ∧ ¬(0x20000 ≤ inHalf.cur.addr) ∧ clearB (.bswap 0 16) .S inHalf = true := by
  decide +kernel

/-- Signal 1 is bound to pipe 4, which is empty. -/
def starving : State :=
  { withCore fun c => { c with sigs := [(1, { (signal 1 1 0).2 with piped := some 4 })] } with pipes := [(4, { gang := some 1 })] }

theorem witness_TickAdvancesDueSignals :
    clearB (.tick 0) .S demo = true ∧ ((curCore demo).sigs.map Prod.fst).Nodup ∧ ((curCtx demo).tick + 1).toNat % 1 = 0 ∧
    ((curCtx demo).tick + 1).toNat % 2 ≠ 0 ∧ (∀ e ∈ (curCore demo).sigs, e.2.piped = none) ∧
    clearB (.tick 0) .S starving = true ∧ ((curCore starving).sigs.map Prod.fst).Nodup ∧
    (∃ e ∈ (curCore starving).sigs, e.2.piped = some 4) ∧ (pipeOf starving 4).entries = [] := by
  decide +kernel

def bound4 : State := { demo with pipes := [(4, { gang := some 1, bound := some (0, 1) })] }
def empty4 : State := { demo with pipes := [(4, { gang := some 1 })] }
/-- Context 0 is armed at confluence 10 with a ticket. -/
def armed (t : BitVec 8) : State := withCtx fun c => { c with armed := [(10, true)], ticket := if t = 0 then [] else [(10, t)] }
/-- The word at 0x1800 of core 0 holds 1. -/
def word1 : State := withCore fun c => { c with spad := [(0x1800, 1)] }

theorem witness_SignalWrites_WaitResults :
    (∃ y, sigOf (curCore starving).sigs 1 = some y ∧ y.piped = some 4) ∧ clearB (.sfeed .v0 0 3 1) .V0 starving = true ∧
    (pipeOf demo 4).bound = none ∧ (pipeOf demo 4).entries ≠ [] ∧ clearB (.waitp 0 4) .S demo = true ∧
    (pipeOf empty4 4).bound = none ∧ (pipeOf empty4 4).entries = [] ∧ clearB (.waitp 0 4) .S empty4 = true ∧
    (pipeOf bound4 4).bound ≠ none ∧ clearB (.waitp 0 4) .S bound4 = true ∧
    armedAt (curCtx demo) 10 = false ∧ armedAt (curCtx (armed 0)) 10 = true ∧ clearB (.arrive 0 10) .S (armed 0) = true ∧
    (confOf (armed 1) 10).g ≠ ticketAt (curCtx (armed 1)) 10 ∧ clearB (.waitc 0 10) .S (armed 1) = true ∧
    (confOf (armed 0) 10).g = ticketAt (curCtx (armed 0)) 10 ∧ clearB (.waitc 0 10) .S (armed 0) = true ∧
    clearB (.waitc 0 10) .S demo = true ∧ (sregOf (curCtx demo) 16).toNat = 0x1800 ∧
    gangGrants demo (curCtx demo).gang (spadTarget 0 0x1800) 0x1800 8 = true ∧ spadPoisoned (coreOf demo 0) 0x1800 8 = false ∧
    readNat (coreOf demo 0).spad 0x1800 7 = 0 ∧ readNat (coreOf word1 0).spad 0x1800 7 ≠ 0 ∧ clearB (.mwait 0 16 14) .S word1 = true := by
  refine ⟨⟨_, rfl, rfl⟩, ?_⟩
  decide +kernel

/-- A store of context 0 has still to perform. -/
def store0 : Access :=
  { seq := 3, ctx := 0, pos := 0, slot := 4, bundle := 0x20000, target := 0, off := 0, due := .cycle 101, land := none,
    kind := .store [1] }
def storing : State := withCore fun c => { c with accs := [store0] }
/-- A copy of context 0 that waits in its ferry. -/
def cmd0 : Cmd :=
  { id := 70, kind := .copy, core := 0, ctx := 0, handle := ctxHandle demo 0 0, gang := 1, slot := 4, bundle := 0x20000, pos := 0,
    pinned := false, t := 0, a := 0, b := 0, e := 0, x := false, enterCyc := 90, entryStep := 900, issueStep := 900, onTime := false,
    batch := 0, idx := 0, st := .waiting, shape := 0, chunk := 0, line := 0, toRead := [], toWrite := [], buf := [], started := false,
    xlat := [], cancelled := false, touched := [], tileFills := [], order := 70, waitSeq := 0, liveHalves := [],
    ending := none, block := none, waitFor := [], lqEntry := none, crc := 0xFFFFFFFF }
def copying (p : Bool) : State :=
  { modCtx (if p then pinned else demo) 0 0 (fun c => c) with ferries := [(0, { cmds := [cmd0] })], cur := { demo.cur with pos := 1 } }

theorem witness_FenceResults :
    clearB (.fence 0 0) .S demo = true ∧ fenceAccs demo 0 0 0 = false ∧ fenceCmds demo 0 0 0 0 = 0 ∧
    clearB (.fence 0 0) .S { storing with cur := { storing.cur with pos := 1 } } = true ∧ fenceAccs storing 0 0 1 = true ∧
    (∀ p, clearB (.fence 0 4) .S (copying p) = true ∧ fenceAccs (copying p) 0 0 1 = false ∧ fenceCmds (copying p) 0 0 1 4 ≠ 0 ∧
      (curCore (copying p)).pinned = p) := by
  decide +kernel

/-- A gang of two contexts of core 0: the start context, and context 1 in another role. -/
def pair (role : Nat) (c : Ctx) : State :=
  { demo with gangs := [(1, { gang1 with entries := [entry0, entryIn 1 role] })],
              cores := [(0, { core0 with ctxs := [(0, { ctx0 with sregs := [(4, 1), (5, 77)] }), (1, c)] })] }
def dormant : Ctx := { life := .idle, gang := some 1, role := 1, entry := 1 }

theorem witness_SpawnResults :
    (let s := pair 1 dormant
     clearB (.spawn 0 3 4 5) .S s = true ∧ (curCtx s).gang = some 1 ∧ (gangOf s 1).map Gang.entries = some [entry0, entryIn 1 1] ∧
     (sregOf (curCtx s) 4).toNat = 1 ∧ (ctxOf s 0 1).life = .idle ∧ (ctxOf s 0 1).gang = some 1 ∧ (ctxOf s 0 1).entry = 1) ∧
    (let s := pair 1 { dormant with life := .ready }
     clearB (.spawn 0 3 4 5) .S s = true ∧ (ctxOf s 0 1).life ≠ .idle) ∧
    (let s := pair 2 dormant
     clearB (.spawn 0 3 4 5) .S s = true ∧ (entryIn 1 2).role ≠ 1) := by
  decide +kernel

/-- A fault in hand that is quiescent since step 990. -/
def fault0 : FaultInfo :=
  { step := 980, cycle := 80, bundle := 0x20000, pos := 0, cause := 0x70, slots := 1, level := false, pinned := false, delay := false,
    loops := 0, ferry := false, lead := [0, 0, 0, 0, 0, 0], tick := 0, d0 := 0, d1 := 0, d2 := 0, batch := none, quiet := some 990,
    recorded := false, queued := false, host := none }
def stopped : Ctx := { life := .stopped, gang := some 1, role := 1, entry := 1, fault := some { fault0 with recorded := true } }
/-- Context 1 is stopped; s4 holds its handle, or 0. -/
def handled (named : Bool) : State :=
  modCtx (pair 1 stopped) 0 0 fun c => { c with sregs := if named then [(4, handleOf 0 1 0)] else [] }

theorem witness_FresumeResults :
    (let s := handled true
     let h := sregOf (curCtx s) 4
     clearB (.fresume 0 4 1) .S s = true ∧ clearB (.fresume 0 4 2) .S s = true ∧ (h.extractLsb' 0 3).toNat = 1 ∧
     (h.extractLsb' 3 8).toNat = 0 ∧ (ctxOf s 0 1).gang = (curCtx s).gang ∧ (ctxOf s 0 1).life = .stopped ∧
     (ctxOf s 0 1).fault ≠ none ∧ h = handleOf 0 1 (ctxOf s 0 1).epoch) ∧
    (let s := handled false
     clearB (.fresume 0 4 1) .S s = true ∧ sregOf (curCtx s) 4 = 0 ∧ handleOf 0 0 (ctxOf s 0 0).epoch ≠ 0) := by
  decide +kernel

theorem witness_VectorResults :
    isFloatT 5 = false ∧ isFloatT 1 = true ∧ isFloatT 7 = false ∧ clearB (.vadd .v0 0 3 4 5 5 1) .V0 demo = true ∧
    clearB (.vadd .v0 0 3 4 5 1 0) .V0 demo = true ∧ clearB (.vcvt .v0 0 3 4 0 1 7 5 1) .V0 demo = true ∧
    4096 / widthT 5 = 2 ^ 7 ∧ clearB (.vredadd .v0 0 3 4 5 0) .V0 demo = true := by
  decide +kernel

/-- Basin 1 in each state: finite, +inf, -inf, NaN. -/
def basin1 (st : BitVec 2) (ov : Bool) : State := withCtx fun c => { c with basins := [(1, { val := 3, st := st, ov := ov })] }

theorem witness_BasinResults :
    (∀ st : BitVec 2, ∀ ov, clearB (.brnd .v0 0 3 1 1 0) .V0 (basin1 st ov) = true ∧ clearB (.bsgn .v0 0 2 1 0) .V0 (basin1 st ov) = true ∧
      (basinOf (curCtx (basin1 st ov)) 1).st = st) := by
  decide +kernel

theorem witness_NormalisationResults :
    clearB (.vsnorm .v0 0 3 4 5 1 1) .V0 demo = true ∧ laneF 0 1 0 = .fin false 0 (-149) ∧ laneF 0 1 0x3F800000 ≠ .fin false 0 (-149) := by
  decide +kernel

theorem witness_FloatValues :
    isFloatT 1 = true ∧ fUnpack (fmtOf 1) 0x3F800000 = .fin false 0x800000 (-23) ∧ fUnpack (fmtOf 1) 1 = .fin false 1 (-149) ∧
    ({ rnd := 1, sub := 0, nan := false } : FEnv).sub = 0 ∧ ({ rnd := 1, sub := 0, nan := false } : FEnv).rnd = 1 ∧
    ({ rnd := 1, sub := 0, nan := false } : FEnv).nan = false ∧ (0x3F800000 : Nat) < 2 ^ widthT 1 := by
  decide +kernel

theorem witness_TileWriteResults :
    rowIndexOk 1 63 = true ∧ clearB (.twrow .v0 0 0 2 63 1) .V0 demo = true ∧ (8191 + 1) * widthT 1 ≤ 262144 := by decide +kernel

/-- Pipe 4 with a number of entries in flight. -/
def pipeIn (p : Bool) (n : Nat) (y : Pipe) : State :=
  { modCtx (if p then pinned else demo) 0 0 (fun c => c) with pipes := [(4, { y with gang := some 1, inflight := n })] }

theorem witness_PipeResults_PipeFaults :
    (pipeOf (pipeIn false 15 {}) 4).entries.length + (pipeOf (pipeIn false 15 {}) 4).inflight < 16 ∧
    clearB (.psend .v0 0 3 4) .V0 (pipeIn false 15 {}) = true ∧ (pipeOf demo 4).entries = [3] ∧ (pipeOf demo 4).bound = none ∧
    clearB (.ptake .v0 0 5 4) .V0 demo = true ∧ clearB (.plook .v0 0 5 4) .V0 bound4 = true ∧ (pipeOf bound4 4).bound ≠ none ∧
    (∀ p, clearB (.ptake .v0 0 5 4) .V0 (pipeIn p 0 {}) = true ∧ (pipeOf (pipeIn p 0 {}) 4).entries = [] ∧
      (curCore (pipeIn p 0 {})).pinned = p ∧ clearB (.psend .v0 0 3 4) .V0 (pipeIn p 16 {}) = true ∧
      16 ≤ (pipeOf (pipeIn p 16 {}) 4).entries.length + (pipeOf (pipeIn p 16 {}) 4).inflight) := by
  decide +kernel

def legalMask (c : CoreSt) : Prop := 1 ≤ c.rows ∧ c.rows ≤ 128 ∧ 1 ≤ c.cols ∧ c.cols ≤ 128
/-- The masks are legal when those of the listed cores are. -/
theorem masksLegal_of {s : State} (h : ∀ e ∈ s.cores, legalMask e.2) : MasksLegal s := by
  intro k
  show legalMask (mapGet {} s.cores k)
  generalize s.cores = m at h
  induction m with
  | nil => show legalMask {}; unfold legalMask; decide
  | cons e m ih =>
    simp only [mapGet]
    split
    · exact h e List.mem_cons_self
    · exact ih fun e he => h e (List.mem_cons_of_mem _ he)
theorem masksLegal_demo : MasksLegal demo := masksLegal_of (by unfold legalMask; decide +kernel)
theorem masksLegal_pinned : MasksLegal pinned := masksLegal_of (by unfold legalMask; decide +kernel)

/-- Tile 0 is full with the sequence it should have. -/
def tagged (p : Bool) (tag : BitVec 2) : State :=
  modCore (if p then pinned else demo) 0 fun c => setTile c 0 { owner := some 0, tag := tag, seq := 1 }

theorem witness_Beats :
    clearB (.mpush 0 0 1 1 1 0 0) .M (tagged true 2) = true ∧ (curCore (tagged true 2)).pinned = true ∧
    (tileOf (curCore (tagged true 2)) 0).tag = 2 ∧ (tileOf (curCore (tagged true 2)) 0).seq = (tileOf (curCore (tagged true 2)) 0).exp + 1 ∧
    (curCore demo).pinned = false ∧ (tileOf (curCore demo) 0).tag ≠ 1 ∧ clearB (.mpushd 0 0 1 1 1 1 0) .M demo = true ∧
    clearB (.macc 0 0 70 1) .M demo = true ∧ 2 ≤ fmtAtype 0x1D2 ∧ ¬(2 ≤ fmtAtype 0) ∧ (fmtAcc 0x40 = 1 ∨ fmtAcc 0x40 = 2) ∧
    (groveOf (curCore demo) 1).seed ≠ 0 ∧ fmtAtype 0 < 2 ∧ clearB (.mpushg 0 0 1 3 1 0) .M demo = true ∧
    -- wait bits that fail
    clearB (.mpush 0 0 1 1 1 0 0) .M pinned = true ∧ (tileOf (curCore pinned) 0).tag ≠ 2 ∧
    clearB (.mpush 0 0 1 1 1 0 0) .M (tagged false 1) = true ∧ (tileOf (curCore (tagged false 1)) 0).tag = 1 := by
  decide +kernel

/-- Tile 0 is tagged and holds a legal grove record. -/
def seeded (p : Bool) (tag : BitVec 2) : State :=
  modCore (tagged p tag) 0 fun c => setTile c 0 { tileOf c 0 with bytes := 11 }

theorem witness_WaitBitFaults :
    (let s := seeded true 0
     (curCore s).pinned = true ∧ (tileOf (curCore s) 0).tag ≠ 2 ∧ (groveOf (curCore s) 1).seed ≠ 0 ∧ fmtAtype (curCtx s).fmt < 2 ∧
     (tileOf (curCore s) 0).bytes.extractLsb' 0 64 ≠ 0 ∧ (tileOf (curCore s) 0).bytes.extractLsb' 66 1982 = 0 ∧
     clearB (.mpushg 0 0 1 3 1 0) .M s = true ∧ clearB (.mgload 0 0 2 1) .M s = true ∧ clearB (.msrch 0 0 1 15 1) .M s = true ∧
     clearB (.msproj 0 0 7 1 1) .M s = true) ∧
    (let s := seeded false 1
     (curCore s).pinned = false ∧ (tileOf (curCore s) 0).tag = 1 ∧ clearB (.mpushg 0 0 1 3 1 0) .M s = true ∧
     clearB (.mgload 0 0 2 1) .M s = true ∧ clearB (.msrch 0 0 1 15 1) .M s = true ∧ clearB (.msproj 0 0 7 1 1) .M s = true) := by
  decide +kernel

/-- Grove slot 1 holds seed 0; the mask has two rows; cell 0 of row 1 is poisoned. -/
def barren : State := withCore fun c => setGrove c 1 { owner := some 0 }
def masked (p : List Place) : State := withCore fun c => { c with rows := 2, poison := p }

theorem witness_GroveBeats_DrainResults :
    (groveOf (curCore barren) 1).seed = 0 ∧ clearB (.mpushg 0 0 1 3 0 0) .M barren = true ∧ clearB (.msrch 0 5 1 15 0) .M barren = true ∧
    clearB (.msproj 0 5 7 1 0) .M barren = true ∧ clearB (.mdrain 0 3 1 0) .M (masked [.acc 128]) = true ∧
    (1 : BitVec 7).toNat < (curCore (masked [.acc 128])).rows ∧ (curCore (masked [])).rows ≤ (2 : BitVec 7).toNat ∧
    clearB (.mdrain 0 3 2 0) .M (masked []) = true ∧
    -- a legal grove record in tile 6, and an illegal one
    (let s := withCore fun c => setTile c 6 { owner := some 0, bytes := 11 }
     clearB (.mgload 0 6 2 0) .M s = true ∧ (tileOf (curCore s) 6).bytes.extractLsb' 0 64 ≠ 0 ∧
     (tileOf (curCore s) 6).bytes.extractLsb' 66 1982 = 0) ∧
    clearB (.mgload 0 6 2 0) .M demo = true ∧ (tileOf (curCore demo) 6).bytes.extractLsb' 0 64 = 0 := by
  decide +kernel

theorem bankFree_of {s : State} {x : Word} (h : (coreOf s (8 * (s.cur.core / 8) + (x.extractLsb' 19 3).toNat)).resv = []) :
    BankFree s x := by
  intro r hr
  rw [h] at hr
  cases hr
theorem noPendingStore_of {s : State} {x : Word} {n : Nat} (h : (curCore s).accs = []) : NoPendingStore s x n := by
  intro _ b hb
  rw [h] at hb
  cases hb

theorem witness_LoadAndStoreResults :
    AddressLegal demo 0x40 8 ∧ AddressLegal demo 0x810 8 ∧ AddressLegal demo 0x400 512 ∧ AddressLegal demo 0xA00 512 ∧
    BankFree demo 0x40 ∧ BankFree demo 0x810 ∧ BankFree demo 0x400 ∧ BankFree demo 0xA00 ∧ NoPendingStore demo 0x40 8 ∧
    NoPendingStore demo 0x400 512 ∧ (curCtx demo).lqs.length < 32 ∧ (curCtx demo).lqv.length < 16 ∧
    sregOf (curCtx demo) 8 = 0x40 ∧ sregOf (curCtx demo) 5 = 0x400 ∧ sregOf (curCtx demo) 9 = 0x800 := by
  refine ⟨?_, ?_, ?_, ?_, bankFree_of rfl, bankFree_of rfl, bankFree_of rfl, bankFree_of rfl, noPendingStore_of rfl,
    noPendingStore_of rfl, by decide⟩ <;> unfold AddressLegal <;> decide +kernel

theorem witness_LineAndAtomResults :
    AddressLegal demo 0x800 128 ∧ AddressLegal demo 0x1000 128 ∧ AddressLegal demo 0x800 8 ∧ IsLocal demo 0x800 ∧
    BankFree demo 0x800 ∧ BankFree demo 0x1000 ∧ NoPendingStore demo 0x800 128 ∧ NoPendingStore demo 0x800 8 ∧
    clearB (.tlrow .c0 0 4 9 17) .C0 demo = true ∧ clearB (.tsrow .c0 0 6 4 200) .C0 demo = true ∧
    clearB (.atom .c0 0 3 9 4 0 0 3) .C0 demo = true := by
  refine ⟨?_, ?_, ?_, ?_, bankFree_of rfl, bankFree_of rfl, noPendingStore_of rfl, noPendingStore_of rfl, by decide +kernel⟩ <;>
    first | (unfold AddressLegal; decide +kernel) | (unfold IsLocal; decide)

/-- A gang that holds the scratchpad of core 1 as well; s9 names an address of it; some requests stand. -/
def peer (as : List Access) : State :=
  { demo with gangs := [(1, { gang1 with entries := [entry0, { entry0 with core := 1 }] })],
              cores := [(0, { core0 with ctxs := [(0, { ctx0 with sregs := [(9, 0x80800)] })], accs := as })] }
/-- The request that an ATOM of the bundle has made, granted or not. -/
def request (land : Option Nat) : Access :=
  { seq := 9, ctx := 0, pos := 0, slot := 4, bundle := 0x20000, target := 1, off := 0x800, due := .grant, land := land,
    kind := .atom 0 false 8 0 3 }

theorem witness_PeerRequestResults :
    (∀ l : List Access, (curCore (peer l)).debug = false) ∧ AddressLegal (peer []) 0x80800 8 ∧ AddressLegal (peer []) 0x80800 128 ∧
    ¬IsLocal (peer []) 0x80800 ∧ sregOf (curCtx (peer [])) 9 = 0x80800 ∧ (curCore (peer [])).pinned = false ∧
    clearB (.atom .c0 0 3 9 4 0 0 3) .C0 (peer []) = true ∧ clearB (.tlrow .c0 0 4 9 17) .C0 (peer []) = true ∧
    (curCore (peer [])).accs = [] ∧ (∀ l, isRequest (request l) = true ∧ (request l).ctx = 0 ∧ (request l).slot = 4 ∧ (request l).pos = 0 ∧
      (request l).target = 8 * (0 / 8) + ((0x80800 : Word).extractLsb' 19 3).toNat ∧ (request l).off = ((0x80800 : Word).extractLsb' 0 19).toNat) ∧
    clearB (.atom .c0 0 3 9 4 0 0 3) .C0 (peer [{ request none with off := 0x808 }]) = true ∧
    clearB (.atom .c0 0 3 9 4 0 0 3) .C0 (peer [request none]) = true ∧
    clearB (.atom .c0 0 3 9 4 0 0 3) .C0 (peer [request (some 90)]) = true ∧ (request (some 90)).land ≠ none ∧
    (coreOf (peer [request (some 90)]) 1).resv = [] := by
  refine ⟨fun _ => rfl, ?_, ?_, ?_, rfl, rfl, by decide +kernel, by decide +kernel, rfl, fun _ => ⟨rfl, rfl, rfl, rfl, rfl, rfl⟩,
    by decide +kernel, by decide +kernel, by decide +kernel, by decide, rfl⟩
  · unfold AddressLegal; decide +kernel
  · unfold AddressLegal; decide +kernel
  · unfold IsLocal; decide

/-- s8, s9, s4 and s5 hold one address. -/
def addressed (x : Word) : State := withCtx fun c => { c with sregs := [(4, x), (5, x), (8, x), (9, x)] }
/-- The gang holds the first 64 bytes of core 0's scratchpad. -/
def confined : State := withGang fun g => { g with entries := [{ entry0 with hi := 63 }] }

theorem witness_ScratchpadAddressFaults :
    2 ^ 22 ≤ (sregOf (curCtx (addressed 0x400000)) 8).toNat ∧ clearB (.lda .c0 0 8 3 0) .C0 (addressed 0x400000) = true ∧
    (sregOf (curCtx (addressed 0x41)) 9).toNat % 128 ≠ 0 ∧ (sregOf (curCtx (addressed 0x41)) 9).toNat < 2 ^ 22 ∧
    clearB (.tlrow .c0 0 4 9 17) .C0 (addressed 0x41) = true ∧ ¬AddressLegal confined 0x40 8 ∧ (0x40 : Word).toNat % 8 = 0 ∧
    AddressLegal confined 0x38 8 ∧ clearB (.lda .c0 0 8 3 0) .C0 confined = true := by
  refine ⟨by decide, by decide +kernel, by decide, by decide, by decide +kernel, ?_, by decide, ?_, by decide +kernel⟩ <;>
    unfold AddressLegal <;> decide +kernel

/-- Full queues, and a bank cycle that is taken. -/
def fullQueues : State :=
  withCtx fun c => { c with lqs := List.replicate 32 { id := 1 }, lqv := List.replicate 16 { id := 1 } }
def taken : State := withCore fun c => { c with resv := [{ bank := 0, peer := false, cyc := 103, step := 1003, holder := 0, bundle := 0, slot := 0 }] }
/-- Both causes of a load meet. -/
def fullAndTaken : State := { taken with cores := [(0, { curCore taken with ctxs := (curCore fullQueues).ctxs })] }

theorem witness_QueueAndBankFaults :
    32 ≤ (curCtx fullQueues).lqs.length ∧ 16 ≤ (curCtx fullQueues).lqv.length ∧ AddressLegal fullQueues 0x40 8 ∧
    AddressLegal fullQueues 0x400 512 ∧ clearB (.lda .c0 0 8 3 0) .C0 fullQueues = true ∧
    clearB (.vlda .c0 0 5 0) .C0 fullQueues = true ∧ NoPendingStore fullQueues 0x40 8 ∧ ¬BankFree taken 0x40 ∧
    AddressLegal taken 0x40 8 ∧ NoPendingStore taken 0x40 8 ∧ (curCtx taken).lqs.length < 32 ∧
    clearB (.lda .c0 0 8 3 0) .C0 taken = true ∧ clearB (.st .c0 0 4 8 3 0) .C0 taken = true ∧
    clearB (.atom .c0 0 3 8 4 0 0 3) .C0 taken = true ∧ ¬BankFree fullAndTaken 0x40 ∧ AddressLegal fullAndTaken 0x40 8 ∧
    NoPendingStore fullAndTaken 0x40 8 ∧ 32 ≤ (curCtx fullAndTaken).lqs.length ∧ clearB (.lda .c0 0 8 3 0) .C0 fullAndTaken = true := by
  refine ⟨by decide, by decide, ?_, ?_, by decide +kernel, by decide +kernel, noPendingStore_of rfl, ?_, ?_, noPendingStore_of rfl,
    by decide, by decide +kernel, by decide +kernel, by decide +kernel, ?_, ?_, noPendingStore_of rfl, by decide +kernel,
    by decide +kernel⟩
  · unfold AddressLegal; decide +kernel
  · unfold AddressLegal; decide +kernel
  · intro h
    exact (h _ List.mem_cons_self rfl).1 rfl rfl rfl
  · unfold AddressLegal; decide +kernel
  · intro h
    exact (h _ List.mem_cons_self rfl).1 rfl rfl rfl
  · unfold AddressLegal; decide +kernel

/-- The ferry of core 0 is full; s10 and s11 hold an address of a reserved space. -/
def fullFerry : State := { demo with ferries := [(0, { cmds := List.replicate 64 cmd0 })] }
def reservedSpace : State := withCtx fun c => { c with sregs := [(10, 0x4000000000000000), (12, 0x4000000000000000), (13, 0x4000000000000000)] }

theorem witness_FerryCommands :
    (ferryOf demo 0).cmds.length < 64 ∧ (sregOf (curCtx demo) 10).toNat < 2 ^ 62 ∧ (sregOf (curCtx demo) 11).toNat < 2 ^ 62 ∧
    64 ≤ (ferryOf fullFerry 0).cmds.length ∧ ¬((sregOf (curCtx reservedSpace) 10).toNat < 2 ^ 62) ∧
    allClear .C0 wordsC = true ∧ (wordsC.all fun p => clearB p.2 .C0 fullFerry) = true ∧
    (wordsC.all fun p => clearB p.2 .C0 reservedSpace) = true := by
  decide +kernel

/-! ## Witnesses: words, steps and frames -/

theorem witness_EncodedInstructionDecodes :
    (wordsS0.all fun p => slotOf p.2 == some .S && p.2.wf && encode p.2 == p.1) = true ∧
    (wordsC.all fun p => slotOf p.2 == some .C0 && p.2.wf && encode p.2 == p.1) = true := by decide +kernel
theorem witness_DecodedWordEncodes : decodeSlot .M 0x08030052 = .ok (.mdrain 0 3 5 2) := rfl

theorem witness_MissingOpcodesFault :
    isMissing .S 0x27 = true ∧ isMissing .S 0x26 = false ∧ isMissing .V0 0x1F = true ∧ isMissing .M 0x0C = true ∧
    isMissing .M 0x0B = false ∧ isMissing .C1 0x0F = true ∧ isMissing .C1 0x10 = false := by decide

/-- The word and the form that the map gives it, with the bits that must be zero. -/
theorem witness_IllegalWordsFault :
    (0x03041800 : Word32).extractLsb' 21 4 = 8 ∧ rawDecode .S 0x52030000 = some (0xFFFF, .lit 0 3) ∧
    literalNeed (.lit 0 3) ≠ 0 ∧ literalNeed (.lit 0 3) ≠ hKind demo.cur.hdr ∧
    rawDecode .S 0x02041801 = some (0x3F, .add 0 4 3 0) ∧ (0x02041801 : Word32) &&& 0x3F ≠ 0 ∧ literalNeed (.add 0 4 3 0) = 0 ∧
    rawDecode .S 0x48032040 = some (0, .shli 0 3 4 64) ∧ (Instr.shli 0 3 4 64).wf = false ∧
    (0x00000001 : Word32).extractLsb' 25 7 = 0 ∧ (0x00000001 : Word32).extractLsb' 0 21 ≠ 0 ∧
    -- BRI s7 with an unused bit, to a misaligned target, past the end, and to one inside
    (rawDecode .S 0x84003801).map Prod.snd = some (.bri 0 7) ∧ ((rawDecode .S 0x84003801).any fun r => r.1 &&& 0x84003801 ≠ 0) = true ∧
    guardPass (curCtx (s7 0x21FFE)) 0 = true ∧ sregOf (curCtx (s7 0x21FFE)) 7 = 0x21FFE ∧ sregOf (curCtx (s7 0x22000)) 7 = 0x22000 ∧
    sregOf (curCtx (s7 0x100)) 7 = 0x100 := by decide

theorem witness_GuardedSlotHasNoEffect :
    slotOf (.add 1 4 3 0) = some .S ∧ (Instr.add 1 4 3 0).wf = true ∧ literalNeed (.add 1 4 3 0) = 0 ∧
    xor (flagOf (curCtx demo) ((guardField (.add 1 4 3 0)).extractLsb' 0 3).toNat) ((guardField (.add 1 4 3 0)).getLsbD 3) = false ∧
    xor (flagOf (curCtx demo) ((guardField (.add 8 4 3 0)).extractLsb' 0 3).toNat) ((guardField (.add 8 4 3 0)).getLsbD 3) = false := by
  decide

/-- Core 0 is about to issue one bundle at 0x20000: its M slot holds the word of MCLR. -/
def fetched : State :=
  { withCore fun c => { c with isp := writeBytes [] 0x20000 (natToBytes 4 8 ++ natToBytes 4 0x0A000000) } with
    agenda := [.issue 0, .settle] }
/-- The state in which that word runs. -/
def running : State := standing { fetched with agenda := [.settle] } 0 0 0x20000 8 0 .M 0x0A000000

theorem witness_StandsAt : StandsAt fetched 0 0 0x20000 8 where
  issuer := by decide +kernel
  ready := by decide +kernel
  slots := by decide +kernel
  next := by decide +kernel
  word := by decide +kernel
  inside := by decide +kernel
  stall := by decide +kernel
  gang := by
    intro key g hk hg
    have h1 : key = 1 := by
      have : (ctxOf fetched 0 0).gang = some 1 := rfl
      rw [this] at hk; exact (Option.some.inj hk).symm
    subst h1
    have : gangOf fetched 1 = some gang1 := rfl
    rw [this] at hg
    cases hg
    exact ⟨rfl, entry0, List.mem_cons_self, rfl, rfl⟩

theorem witness_StepRunsDecodedInstruction :
    fetched.agenda = [.issue 0, .settle] ∧ hMask 8 = 2 ^ Slot.M.idx ∧ hY 8 = false ∧ hP 8 = false ∧ hE 8 = false ∧ hKind 8 = 0 ∧
    headerAt (coreOf fetched 0) (0x20000 + 4) = 0x0A000000 ∧ bundleCause false 0x20000 8 0 [(3, 0x0A000000)] = none ∧
    (ctxOf fetched 0 0).pauseCount < (ctxOf fetched 0 0).pauseBound.toNat ∧
    (let v := after (.mclr 0) running
     v.cur = { running.cur with out := .issued } ∧ v.gangs = fetched.gangs ∧ (coreOf v 0).issuer = some 0 ∧
     (coreOf v 0).cyc = (coreOf fetched 0).cyc ∧ (ctxOf v 0 0).life = .ready ∧ (ctxOf v 0 0).fault = none ∧
     (ctxOf v 0 0).gang = some 1 ∧ (ctxOf v 0 0).slipStall = 0 ∧ (ctxOf v 0 0).spos = (ctxOf running 0 0).spos ∧
     (ctxOf v 0 0).win = (ctxOf running 0 0).win ∧ (ctxOf v 0 0).npos = (ctxOf fetched 0 0).npos + 1) := by
  decide +kernel

theorem witness_StepRunsDecodedInstruction_word : decodeSlot .M 0x0A000000 = .ok (.mclr 0) ∧
    { State.reset with agenda := [.ev .gaugeUnsync] }.agenda = .ev .gaugeUnsync :: [] := ⟨rfl, rfl⟩

theorem memoryCanonical_reset : MemoryCanonical State.reset := ⟨rfl, fun _ => ⟨rfl, rfl⟩⟩
theorem witness_StepKeepsInvariant :
    MemoryCanonical State.reset ∧ MasksLegal State.reset ∧ ∃ t, step State.reset = .next t :=
  ⟨memoryCanonical_reset, masksLegal_of (fun _ h => nomatch h), _, rfl⟩

theorem witness_SlotsKeepState_frames :
    slotOf (.add 0 4 3 0) ≠ none ∧ isCompute (.add 0 4 3 0) = true ∧ isControl (.br 0 12) = true ∧ isMeeting (.waitp 0 4) = true ∧
    isBeat (.mclr 0) = true ∧ isAccess (.lda .c0 0 8 3 0) = true ∧ isCommand (.fsum .c0 0 0 10 13 1) = true ∧
    (∃ t, exec (.add 0 4 3 0) demo = .next t) ∧ (∃ t, exec (.br 0 12) demo = .next t) ∧ (∃ t, exec (.waitp 0 4) demo = .next t) ∧
    (∃ t, exec (.mclr 0) demo = .next t) ∧ (∃ t, exec (.lda .c0 0 8 3 0) demo = .next t) ∧
    ∃ t, exec (.fsum .c0 0 0 10 13 1) demo = .next t :=
  ⟨by decide, rfl, rfl, rfl, rfl, rfl, rfl, ⟨_, rfl⟩, ⟨_, rfl⟩, ⟨_, rfl⟩, ⟨_, rfl⟩, ⟨_, rfl⟩, ⟨_, rfl⟩⟩

theorem witness_FaultsTaken :
    (curCtx demo).fault = none ∧ fault0.step < 2 ^ 64 ∧ fault0.lead.length ≤ 6 ∧ fault0.batch = none := by decide

/-- A result that is due, of a slot of the bundle at a position. -/
def due (pos slot : Nat) (e : Eff) : Pend := { due := 100, ctx := 0, pos := pos, slot := slot, seq := 50 + slot, bundle := 0x20000, eff := e }
/-- Two results for s7: the later bundle's remains (R17). -/
def colliding : State := withCore fun c => { c with pend := [due 1 0 (.sreg 7 2), due 0 4 (.sreg 7 1)] }

theorem witness_LastResultRemains :
    (let p := due 1 0 (.sreg 7 2)
     p ∈ (coreOf colliding 0).pend ∧ p.due ≤ (coreOf colliding 0).cyc ∧ p.poison = false ∧ p.slot < 6 ∧ placeOf p.eff ≠ none ∧
     ∀ q ∈ (coreOf colliding 0).pend, q ≠ p → q.slot < 6 ∧ q.pos < p.pos) ∧
    sregOf (ctxOf (landAll colliding 0) 0 0) 7 = 2 := by
  decide +kernel

/-- Context 0 has been resumed, or waits at confluence 10 for its last arrival but `n - 1`. -/
def resumed : State := withCtx fun c => { c with life := .resuming }
def meeting (n : Nat) : State := { withCtx (fun c => { c with life := .parked (.conf 10) }) with confs := [(10, { gang := some 1, n := n })] }
/-- Basin 1 in a state of R95. -/
def basinIn (st : BitVec 2) : State := withCtx fun c => { c with basins := [(1, { st := st })] }
/-- Row 0 of tile 2 with an accumulate type: FP32, BF16 or INT32. -/
def accumulate (a : Nat) : Word := BitVec.ofNat 64 (a * 2 ^ 6)

theorem witness_LandingResults :
    (due 0 0 (.flag 7 true)).poison = false ∧ (7 : Nat) < 8 ∧ (basinOf (ctxOf demo 0 0) 1).st = 0 ∧
    -(2 ^ 4351) ≤ (basinOf (ctxOf demo 0 0) 1).val.toInt + 5 ∧ (basinOf (ctxOf demo 0 0) 1).val.toInt + 5 < 2 ^ 4351 ∧
    Place.basin 0 1 ∉ (coreOf demo 0).poison ∧
    (∃ g, sigOf (coreOf demo 0).sigs 1 = some g ∧ g.owner = 0) ∧ (pipeOf demo 4).freshStep ≠ demo.gauge ∧ (pipeOf demo 4).fresh = [] ∧
    -- states of a basin that are not finite: the same one, another one, NaN
    (∀ b : BitVec 2, (basinOf (ctxOf (basinIn b) 0 0) 1).st = b ∧ Place.basin 0 1 ∉ (coreOf (basinIn b) 0).poison) ∧
    -- no ferry has written the tile in the step; the row ends within the tile; the context is one of the core's
    (coreOf demo 0).ferried = [] ∧ (coreOf pinned 0).pinned = true ∧ (0 : Nat) + 4 ≤ 32768 ∧
    (∀ a < 4, fmtAcc (accumulate a) = a ∧ (0 + 1) * 128 * (if a = 0 ∨ a = 3 then 32 else 16) ≤ 262144) ∧
    (List.replicate 128 (0 : Word32)).length = 128 ∧ (1 : Nat) ≤ 128 ∧ (0 : Nat) < 8 ∧
    -- one arrival is the last of two, or is not; a context waits for it; a context is resumed
    (∀ n, (confOf (meeting n) (512 * 0 + 10)).a + 1 = n ↔ n = 1) ∧ (ctxOf (meeting 1) 0 0).life = .parked (.conf 10) ∧
    (ctxOf resumed 0 0).life = .resuming ∧ { due 0 0 (.sreg 7 1) with poison := true }.poison = true ∧ (7 : Nat) ≠ 0 := by
  refine ⟨rfl, by decide, by decide +kernel, by decide +kernel, by decide +kernel, by decide, ⟨_, rfl, rfl⟩, by decide +kernel,
    by decide +kernel, by decide +kernel, rfl, rfl, by decide, by decide +kernel, List.length_replicate, by decide, by decide, ?_, rfl,
    rfl, rfl, by decide⟩
  intro n
  show (0 + 1 = n ↔ n = 1)
  exact eq_comm

theorem witness_AccessesPerform :
    (coreOf storing 0).poison = [] ∧ store0.kind = .store [1] ∧ (request none).kind = .atom 0 false 8 0 3 ∧ (1 : Nat) ≤ 8 ∧ (8 : Nat) ≤ 8 ∧
    (∀ op : BitVec 3, { request none with kind := .atom op true 1 0 3 }.kind = .atom op true 1 0 3) ∧
    ({ store0 with kind := .loadV 1 } : Access).late = false ∧ ({ store0 with kind := .loadS 1 8, late := true } : Access).late = true ∧
    ({ store0 with kind := .tileLoad 2 17 } : Access).kind = .tileLoad 2 17 := by
  decide +kernel
/-! ## Witnesses: the device's own events -/

/-- The parts of `StandsAt` and `HeldBy` as Booleans. -/
def standsB (s : State) (k x a : Nat) (h : Word32) : Bool :=
  let c := coreOf s k
  let t := ctxOf s k x
  decide (c.issuer = some x ∧ c.relock = none ∧ dropsNow s k = false) && decide (t.life = .ready ∧ t.fault = none ∧ t.deferred = []) &&
  decide (t.spos = List.replicate 6 t.npos ∧ t.win = [] ∧ t.slipStall = 0) &&
  decide (t.targets = [] ∧ t.loopNext = none ∧ t.bubbles = [] ∧ t.seqNext = a) &&
  decide (headerAt c a = h ∧ c.ispOld = [] ∧ bundlePoisoned c a h = false) &&
  decide (a % 4 = 0 ∧ a < 0x22000 ∧ otherHalf t a = false) && decide (t.stallUntil ≤ c.cyc) &&
  (t.gang.bind (gangOf s)).all fun g => decide (g.queue = []) && g.entries.any fun e => decide (e.core = k ∧ e.ctx = x)

theorem standsAt_of {s : State} {k x a : Nat} {h : Word32} (hs : standsB s k x a h = true) : StandsAt s k x a h := by
  simp only [standsB, Bool.and_eq_true, decide_eq_true_eq] at hs
  obtain ⟨⟨⟨⟨⟨⟨⟨h1, h2⟩, h3⟩, h4⟩, h5⟩, h6⟩, h7⟩, h8⟩ := hs
  refine ⟨h1, h2, h3, h4, h5, h6, h7, ?_⟩
  intro key g hk hg
  rw [hk, Option.bind_some, hg] at h8
  simp only [Option.all_some, Bool.and_eq_true, decide_eq_true_eq, List.any_eq_true] at h8
  exact h8

def heldB (s : State) (key : Nat) (g : Gang) : Bool :=
  decide (g.entries.map fun e => (e.core, e.ctx)).Nodup &&
  (List.range g.entries.length).all fun i => (g.entries[i]?).all fun e =>
    decide (e.ctx < 8 ∧ (ctxOf s e.core e.ctx).gang = some key ∧ (ctxOf s e.core e.ctx).entry = i)

theorem heldBy_of {s : State} {key : Nat} {g : Gang} (h : heldB s key g = true) : HeldBy s key g := by
  simp only [heldB, Bool.and_eq_true, decide_eq_true_eq, List.all_eq_true, List.mem_range] at h
  refine ⟨h.1, fun i e he => ?_⟩
  have hi := h.2 i (List.getElem?_eq_some_iff.mp he).1
  rw [he] at hi
  simpa using hi

/-- Core 0's next bundle has the header `h` alone, and its context is as `f` makes it. -/
def atHeader (h : Nat) (f : Ctx → Ctx) : State :=
  modCtx (withCore fun c => { c with isp := writeBytes [] 0x20000 (natToBytes 4 h) }) 0 0 f
def oneLoop (c : Ctx) : Ctx := { c with loops := [{ start := 0x20000, stop := 0x20000, count := 2 }] }
/-- Core 0 has no issuer; its contexts 0 and 1 have priorities. -/
def idleCore (a b : BitVec 2) (pin : Bool) : State :=
  withCore fun c => { c with issuer := none, ctxs := [(0, { ctx0 with prio := a }), (1, { ctx0 with prio := b, pinReq := pin, pinCur := pin })] }

theorem witness_SequencerEvents :
    standsB (atHeader 0 id) 0 0 0x20000 0 = true ∧ hMask 0 = 0 ∧ (0 : Word32).toNat < 2 ^ 10 ∧
    (ctxOf (atHeader 0 id) 0 0).pauseCount < (ctxOf (atHeader 0 id) 0 0).pauseBound.toNat ∧
    standsB (atHeader 0x100 oneLoop) 0 0 0x20000 0x100 = true ∧ hMask 0x100 = 0 ∧ hE 0x100 = true ∧
    (ctxOf (atHeader 0x100 oneLoop) 0 0).loops.head?.map LoopEntry.stop = some 0x20000 ∧
    standsB (atHeader 0x40 id) 0 0 0x20000 0x40 = true ∧ hY 0x40 = true ∧ isDirty (coreOf (atHeader 0x40 id) 0) 0 = false ∧
    (let s := atHeader 0 fun c => { c with pauseCount := 0x100000 }
     standsB s 0 0 0x20000 0 = true ∧ (ctxOf s 0 0).pauseBound.toNat ≤ (ctxOf s 0 0).pauseCount ∧ isPaused s (ctxOf s 0 0) = false ∧
     (gangOf s 1).all fun g => g.handler.isSome) ∧
    (coreOf State.reset 0).issuer = none ∧ (coreOf State.reset 0).relock = none ∧ (List.range 8).all (fun y => (ctxOf State.reset 0 y).life ≠ .ready) ∧
    -- two ready contexts: the higher priority, and the lower number after the last issuer
    (∀ p, (coreOf (idleCore 1 2 p) 0).issuer = none ∧ (ctxIn (coreOf (idleCore 1 2 p) 0) 1).life = .ready ∧
      (ctxIn (coreOf (idleCore 1 2 p) 0) 0).life = .ready ∧ isStopping (idleCore 1 2 p) (ctxIn (coreOf (idleCore 1 2 p) 0) 1) = false ∧
      (ctxIn (coreOf (idleCore 1 2 p) 0) 0).prio.toNat < (ctxIn (coreOf (idleCore 1 2 p) 0) 1).prio.toNat) ∧
    (ctxIn (coreOf (idleCore 1 1 false) 0) 0).prio = (ctxIn (coreOf (idleCore 1 1 false) 0) 1).prio ∧
    (1 + 7 - (coreOf (idleCore 1 1 false) 0).last) % 8 < (0 + 7 - (coreOf (idleCore 1 1 false) 0).last) % 8 := by
  decide +kernel

/-- The gang is admitted and waits for its start step. -/
def loading : State :=
  { withCore fun c => { c with issuer := none, ctxs := [(0, { ctx0 with life := .toStart })] } with
    gangs := [(1, { gang1 with st := .loading, start := 1000 })] }
/-- Context 0 starts at a step, in the resident region or in half 0, which a copy may be writing. -/
def toStart (n off : Nat) (h busy : Bool) : State :=
  { withCtx fun c => { c with life := .starting n h, seqNext := off } with
    ferries := if busy then [(0, { cmds := [{ cmd0 with st := .issued, b := 0x3000000000000000, shape := 0x100000004 }] })] else [] }

theorem witness_StartEvents :
    gangOf loading 1 = some { gang1 with st := .loading, start := 1000 } ∧ heldB loading 1 gang1 = true ∧
    (ctxOf loading 0 0).life = .toStart ∧ (coreOf loading 0).issuer = none ∧ (coreOf loading 0).relock = none ∧
    (∀ h, (ctxOf (toStart 1000 0x20000 h false) 0 0).life = .starting 1000 h ∧
      isStopping (toStart 1000 0x20000 h false) (ctxOf (toStart 1000 0x20000 h false) 0 0) = false) ∧
    regionOf 0x20000 = 2 ∧ halfWritten (toStart 1000 0 false false) 0 false = false ∧
    halfWritten (toStart 1000 0 false true) 0 false = true := by
  decide +kernel

/-- Page tables of address space 1 that map its first GiB onto chip 0's, with one buffer over it; some bytes of it. -/
def mapped (bs : List (Nat × List Byte)) (s : State) : State :=
  { s with roots := [(1, 0)], leafs := [{ frame := 0, count := 0x40000, asid := 1, va := 0, level := 3, bid := 1 }],
           buffers := [(0x100001, BitVec.ofNat 512 (2 ^ 64 * 2 ^ 30 + 2 ^ 112))],
           dram := (bs ++ [(0, natToBytes 16 0x1007), (0x1000, natToBytes 16 0x2007), (0x2000, natToBytes 16 (13 + 2 ^ 64))]).foldl
             (fun (m : Mem) (e : Nat × List Byte) => writeBytes m e.1 e.2) [] }
/-- Stream 0 has one record, at 0x4000. -/
def headed (bs : List Byte) : State :=
  mapped [(0x4000, bs)] { State.reset with
    gauge := 1000, ready := true, streams := [(0, { base := 0x4000, tail := 1, en := true, size := 4, asid := 1, headSince := some 990 })],
    rings := [(0, { size := 6 })] }
/-- A launch record with one context, its table at 0x4080: start role, core 0, context 0, the first 4 KiB of the scratchpad. -/
def launchBytes : List Byte :=
  [1, 0, 0, 1, 0, 0, 0, 0, 1, 0, 0, 0, 0, 0, 0, 0] ++ List.replicate 32 0 ++ natToBytes 8 0x4080 ++ List.replicate 72 0 ++
    List.replicate 24 0 ++ natToBytes 8 (0xFFF * 2 ^ 32) ++ List.replicate 96 0
def grantOf (v : Verdict) : Option Launch :=
  match v with
  | .grants l => some l
  | _ => none
def launching : State := headed launchBytes
/-- An evicted gang heads stream 2. -/
def saved1 : Saved :=
  { key := 1, gang := { gang1 with stream := 2, savearea := 64 }, since := 900, ctxs := [(0, 0, ctx0)], tiles := [], groves := [],
    sigs := [], spads := [], pipes := [], confs := [], poison := [] }
def evicted : State := { State.reset with gauge := 1000, ready := true, streams := [(2, { out := [saved1] })] }

def restful (s : State) : Bool := (List.range 16).all fun n => decide (noteHead s n = s) && (decide (judge s n = .wait) || (judge s n).gang?.isSome)

theorem witness_AdmissionEvents_admit :
    restful launching = true ∧ launching.crit = false ∧ launching.ready = true ∧ evicted.ready = true ∧ State.reset.ready = false ∧ (grantOf (judge launching 0)).isSome = true ∧
    ((grantOf (judge launching 0)).all fun l => decide (l.gang.entries.map fun e => (e.core, e.ctx)).Nodup) = true ∧
    ((List.range 16).all fun m => decide (m = 0) || (judge launching m).gang?.isNone) = true ∧
    restful evicted = true ∧ judge evicted 2 = .readmit saved1 ∧ (saved1.ctxs.map fun e => (e.1, e.2.1)).Nodup ∧
    ((List.range 16).all fun m => decide (m = 2) || (judge evicted m).gang?.isNone) = true ∧
    restful State.reset = true ∧ ((List.range 16).all fun n => decide (judge State.reset n = .wait)) = true := by
  decide +kernel

/-- The streams after 0 have nothing to consume, and nothing can be admitted afterwards. -/
def consumes (s u : State) : Bool :=
  decide (noteHead s 0 = s) && ((List.range 15).all fun m => decide (consumeHead u (m + 1) = u)) && decide (bestHead u = none)

theorem witness_AdmissionEvents_consume :
    (let s := headed (List.replicate 128 0)
     judge s 0 = .skip ∧ consumes s (advanceHead s 0 false) = true) ∧
    (let s := headed (2 :: List.replicate 127 0)
     judge s 0 = .card (2 :: List.replicate 63 0) ∧ consumes s (consumeHead s 0) = true ∧ (consumeHead s 0).cards.length = 1) ∧
    (let s := headed (7 :: List.replicate 127 0)
     judge s 0 = .consume false 1 0 0x75 ∧ consumes s (consumeHead s 0) = true) ∧
    (let s := { headed [] with roots := [] }
     judge s 0 = .stop ∧ consumes s (consumeHead s 0) = true) := by
  decide +kernel

/-- The head of stream 0 has waited for a context that another gang holds, longer than two aging steps at priority 3. -/
def hungry : State := { launching with gauge := 0x6000000, cores := [(0, core0)] }

theorem witness_AdmissionEvents_reserve :
    hungry.reserving = none ∧ oldestStarving hungry = some 0 ∧ (headGang hungry 0).isSome = true ∧
    -- another stream reserves, and its head is gone
    (let s := { hungry with reserving := some 5 }
     s.reserving = some 5 ∧ headGang s 5 = none ∧ oldestStarving s = some 0 ∧ (headGang s 0).isSome = true) := by
  decide +kernel

/-- A waiting card of class 1 with one replay and a deadline of 10 steps; a server of class 1 in context 1. -/
def card1 : Card := { card5 with bytes := natToBytes 8 77 ++ [1, 1, 0, 0] ++ natToBytes 4 10 ++ List.replicate 48 0, st := .queued }
def serving (c : Card) (x : Ctx) : State :=
  { pair 3 x with gangs := [(1, { gang1 with entries := [entry0, { entryIn 1 3 with cls := 1 }] })], cards := [c] }
def server : Ctx := { dormant with role := 3 }
/-- The card that context 0 has acknowledged, before or after a command of its own that has not performed. -/
def acked (before : Nat) : State := { copying false with cards := [{ card1 with gang := 1, st := .acked 0 0 before }] }
def delivered (attempt step : Nat) : State :=
  serving { card1 with gang := 1, attempt := attempt, st := .delivered 0 1 step 1 } { server with life := .ready }

/-- A card with an error stamp in a scratchpad. -/
def stamped : Card :=
  { card1 with bytes := natToBytes 8 77 ++ [1, 0, 0, 0] ++ natToBytes 4 10 ++ natToBytes 8 0x1000000000000800 ++ List.replicate 40 0 }

theorem witness_CardEvents :
    cardStamp stamped ≠ 0 ∧ locOf (cardStamp stamped).toNat = .spad 0 0x800 ∧ 0x800 + 8 ≤ 2 ^ 19 ∧ (coreOf demo 0).poison = [] ∧
    (let y : Card := { card5 with st := .queued }
     cardAtKey { demo with cards := [y] } 9 = some y ∧ cardWaits demo y = true ∧ cardBad y = true) ∧
    cardAtKey { demo with cards := [card1] } 9 = some card1 ∧ cardWaits demo card1 = true ∧ cardBad card1 = false ∧
    serverExists demo (cardClass card1) = false ∧
    (let s := serving card1 server
     serverExists s (cardClass card1) = true ∧ chooseServer s card1 = some (1, { entryIn 1 3 with cls := 1 }) ∧
     (coreOf s 0).poison = [] ∧ card1.bytes.length = 64 ∧ (ctxOf s 0 1).life = .idle) ∧
    commandsBefore (acked 80) { card1 with gang := 1 } 0 0 80 = true ∧ commandsBefore (acked 10) { card1 with gang := 1 } 0 0 10 = false ∧
    cardDue (delivered 0 995) { card1 with gang := 1, st := .delivered 0 1 995 1 } = false ∧
    (∀ n ∈ [0, 1], (let s := delivered n 900
      ∃ y ∈ s.cards, cardAtKey s 9 = some y ∧ cardDue s y = true ∧ y.attempt = n ∧ cardReplays y = 1 ∧
        (gangOf s 1).any (heldB s 1) = true)) := by
  decide +kernel

/-- Context 1 is stopped by a fault whose record is due, at 0x5000 and up; context 0 is as given. -/
def recording (area : Word) (l : Life) : State :=
  mapped [] { pair 1 { stopped with fault := some fault0 } with
    gangs := [(1, { gang1 with faultarea := area, entries := [entry0, entryIn 1 1] })],
    cores := [(0, { core0 with ctxs := [(0, { ctx0 with life := l }), (1, { stopped with fault := some fault0 })] })] }
/-- An ended gang, a command of which may still be under way. -/
def ended (held : Bool) : State :=
  { withGang fun g => { g with st := .ending } with cores := [], ferries := if held then [(0, { cmds := [cmd0] })] else [] }
/-- A fault whose record was open when its gang ended, and which is quiescent since step 990. -/
def open0 : OpenFault :=
  { core := 0, ctx := 1, entry := 1, handle := handleOf 0 1 0, nfault := 1, pending := false, waits := [], info := fault0 }
def openEnded (area : Word) : State :=
  mapped [] { demo with gangs := [(1, { gang1 with st := .ending, faultarea := area, openFaults := [open0] })], cores := [] }

theorem witness_FaultAndGangEvents :
    (∀ p ∈ [((0x5000 : Word), Life.retired), (0x5000, .ready), (0x2000000000, .ready)],
      let s := recording p.1 p.2
      recordDue s 0 1 = true ∧ (ctxOf s 0 1).fault = some fault0 ∧ (ctxOf s 0 1).gang = some 1 ∧ (ctxOf s 0 1).life = .stopped ∧
      (gangOf s 1).any (fun g => heldB s 1 g && decide (g.st = .running)) = true ∧
      (gangOf s 1).any (fun g => decide ((chooseHost s g 0).isSome = decide (p.2 = .retired)) &&
        decide ((dvWrite s 1 (p.1 + 64) (faultBytes s 0 1 { fault0 with queued := (chooseHost s g 0).isNone })).isSome
          = decide (p.1 = 0x5000))) = true) ∧
    (∀ h, (gangOf (ended h) 1).any (fun g => decide (g.st = .ending) && (gangBusy (ended h) 1 g == h)) = true) ∧
    ([((0x5000 : Word), true), (0x2000000000, false)].all fun p =>
      decide ((openRecords (openEnded p.1)).find? (fun o => o.2.core = 0 && o.2.ctx = 1) = some (1, open0)) &&
      (dvWrite (openEnded p.1) 1 (p.1 + 64) (faultRecord (openEnded p.1) 0 (handleOf 0 1 0) 1 false fault0)).isSome == p.2) = true ∧
    openRecords (recording 0x5000 .ready) = [] ∧
    -- canopy has terminated the gang whose record cannot be written
    (let s := openEnded 0x2000000000
     let s := { s with gangs := s.gangs.map fun e => (e.1, { e.2 with status := 0x7E }) }
     (gangOf s 1).any (fun g => decide (g.st = .ending ∧ g.status = 0x7E)) &&
       decide ((openRecords s).find? (fun o => o.2.core = 0 && o.2.ctx = 1) = some (1, open0))) = true ∧
    gangOf demo 1 = some gang1 ∧ gang1.st = .running ∧ heldB demo 1 gang1 = true ∧
    (let s := recording 0x5000 .ready
     (gangOf s 1).any (heldB s 1) = true ∧ (ctxOf s 0 1).fault = some fault0 ∧ fault0.recorded = false) := by
  decide +kernel

/-- The gang stands still, or its context issues; it is to be evicted or checkpointed. -/
def leaving (still ckpt : Bool) : State :=
  { withGang fun g => { g with evict := !ckpt, ckpt := ckpt, savearea := 64, ckarea := 64 } with
    cores := [(0, { core0 with issuer := if still then none else some 0 })] }

theorem witness_SaveEvents :
    (∀ b c, (gangOf (leaving b c) 1).any (fun g => decide (g.st = .running) && (g.evict == !c) && (g.ckpt == c) &&
      (gangStill (leaving b c) 1 g == b) && heldB (leaving b c) 1 g) = true) ∧
    (∀ w, (let z : Ckpt := { gang := 1, chip := 5, slot := 0, number := 0, saved := saved1, buffers := [], whole := w }
     let s := { State.reset with ckpts := [z] }
     s.ckpts = [z] ∧ gangOf s z.gang = none ∧ s.streams = [])) ∧
    State.reset.ready = false ∧ { State.reset with ready := true }.ready = true ∧ gangOf loading 1 = some { gang1 with st := .loading, start := 1000 } ∧ (5 : Nat) ≠ State.reset.chip.toNat := by
  decide +kernel

/-- Event ring 0 as given. -/
def ringed (r : Ring) : State := { State.reset with gauge := 1000, rings := [(0, r)] }

def note0 : Completion := { id := 1, kind := 1, status := 0, stream := 0, dep := some (0, 1) }

theorem witness_RingEvents :
    2 ^ (ringOf (ringed { prod := 1 }) 0).size.toNat ≤ ((ringOf (ringed { prod := 1 }) 0).prod - (ringOf (ringed { prod := 1 }) 0).cons).toNat ∧
    (∀ b, (let r := ringOf (ringed { inten := b, count := 1 }) 0
      (r.prod - r.cons).toNat < 2 ^ r.size.toNat ∧ r.held = [] ∧ r.inten = b ∧ r.count = 1)) ∧
    (let r := ringOf (ringed { inten := true, time := 5, unsignalled := 1, oldest := 995 }) 0
     r.inten = true ∧ r.time ≠ 0 ∧ 0 < r.unsignalled ∧ r.oldest + r.time.toNat ≤ (1000 : Nat)) ∧
    (let r := ringOf (ringed { prod := 2, cons := 0, size := 1, held := [note0] }) 0
     r.held = [note0] ∧ (r.prod - 1).toNat < 2 ^ r.size.toNat) := by
  decide +kernel

theorem witness_ManagementEvents :
    (∀ n < 16, (ringOf State.reset n).held = []) ∧ (coreOf State.reset 0).pinned = false ∧ (coreOf pinned 0).pinned = true ∧
    State.reset.standby = false ∧ { State.reset with standby := true }.standby = true ∧ State.reset.owner = 0 ∧ { State.reset with owner := 2 }.owner.toNat = 1 + 1 := by
  decide +kernel

theorem witness_LinkEvents :
    (let s := { demo with links := [(3, 1)] }
     (mapGet 0 s.links 3).getLsbD 0 = true ∧ (mapGet 0 s.links 4).getLsbD 0 = false ∧
     (s.gauge + 2 ^ 64 - (1000 : Word).toNat) % 2 ^ 64 ≤ 8 ∧ 2 ^ 64 - 8 ≤ (s.gauge + 2 ^ 64 - (1008 : Word).toNat) % 2 ^ 64 ∧
     8 < (s.gauge + 2 ^ 64 - (1009 : Word).toNat) % 2 ^ 64 ∧ (s.gauge + 2 ^ 64 - (1009 : Word).toNat) % 2 ^ 64 < 2 ^ 64 - 8) ∧
    (∀ g ∈ [HostGen.pcie5], g ∉ [HostGen.cxl31]) ∧ (∀ h ∈ [HostGen.pcie5, .cxl20], h ∈ [HostGen.pcie5, .cxl20] → h.rank ≤ HostGen.cxl20.rank) := by
  decide +kernel

def image0 : Image := { magic := 0x4C59, version := 0, length := 0, key := [], body := [], sig := [] }
/-- The image runs, or waits in standby. -/
def imaged (up : Bool) : State := { State.reset with image := some image0, ready := up, standby := !up }

/-- Boot stands at a stage; the next free choice is `d`. -/
def booting (stage : BitVec 3) (d : Nat) : State :=
  { State.reset with stage := stage, boot := some { img := image0, domain := none }, tape := [d] }

theorem witness_PowerEvents :
    (imaged true).ready = true ∧ (imaged false).ready = false ∧ (imaged false).bootHeld = false ∧ noGangs (imaged false) = true ∧
    noGangs demo = false ∧ (imaged false).standby = true ∧ (imaged false).image = some image0 ∧ (imaged true).image = some image0 ∧
    ({ demo with crit := true }).crit = true ∧ demo.gangs = [(1, gang1)] ∧ gang1.st = .running ∧ State.reset.gangs = [] ∧
    State.reset.image = none ∧ State.reset.crit = false ∧
    ({ State.reset with bootFails := 1 }.bootHeld = false ∧ State.reset.bootFails = 0) ∧
    (∀ d < 2, ∀ stage : BitVec 3, (booting stage d).boot = some { img := image0, domain := none } ∧ (draw (booting stage d)).1 = d ∧
      (booting stage d).stage = stage) ∧
    (image0.magic = 0x4C59 ∧ image0.length ≤ 64 * 2 ^ 20 ∧ (booting 2 0).identity.minVersion ≤ image0.version) ∧
    ¬(image0.key.length = 1312) ∧ noGangs State.reset = true ∧
    (let s := { demo with stage := 4, boot := some { img := image0, domain := none } }; s.stage = 4 ∧ s.boot ≠ none ∧ noGangs s = false) := by
  decide +kernel
/-- The first GiB is mapped for asid 1, and something else holds. -/
def tables (f : State → State) : State := f (mapped [] demo)
def leaf1 : LeafRec := { frame := 0, count := 0x40000, asid := 1, va := 0, level := 3, bid := 1 }
/-- Entry 1 of the table that maps the first GiB: the next GiB, of a buffer. -/
def nextGib (bid : Nat) : BitVec 128 := BitVec.ofNat 128 (13 + 2 ^ 30 + 2 ^ 64 * bid)
/-- A migration of buffer 1 to the third GiB; a command may hold the buffer, a sector of it may be bad. -/
def migrating (busy : Bool) (bad : List Nat) : State :=
  tables fun s => { s with migrations := [{ asid := 1, bid := 1, frames := [0x80000] }], badSectors := bad,
                           ferries := if busy then [(0, { cmds := [{ cmd0 with touched := [(1, 1)] }] })] else [] }
/-- Buffer 1 holds uncompressed blocks that may be requantised to format 2, by the map at 0x6000. -/
def requanting : State :=
  tables fun s => { s with tape := [5], buffers := [(0x100001, BitVec.ofNat 512 (2 ^ 64 * 2 ^ 30 + 2 ^ 112 + 2 ^ 256 * 0x6000 + 2 ^ 321))] }
/-- Host port 0 has trained to CXL and its window holds the first 4 KiB; buffer 1 may be sealed. -/
def windowed (bad : List Nat) (sealed : Bool) : State :=
  tables fun s => { s with
    hostLinks := [(0, 4)], windows := [(0, 0, 0x1000)], badSectors := bad,
    buffers := if sealed then [(0x100001, BitVec.ofNat 512 (2 ^ 64 * 2 ^ 30 + 2 ^ 109 + 2 ^ 112))] else s.buffers }
def isOk {ε α : Type} (e : Except ε α) : Bool :=
  match e with
  | .ok _ => true
  | .error _ => false

theorem witness_TableEvents_changes :
    (let s := tables id
     (∀ l ∈ s.leafs, l.asid ≠ 5 ∧ overlaps l (0x40000000 / 4096) 2 = false) ∧ (∃ l ∈ s.leafs, overlaps l 0 2 = true) ∧
     frameAwaited s none (0x40000000 / 4096) 2 = false ∧ frameAwaited (migrating false []) none 0x80000 1 = true ∧
     entryAddr s 1 0x40000000 3 = some 0x2010 ∧ (∀ b < 3, (leafOf 1 0x40000000 3 (nextGib b).toNat).isSome) ∧
     (∀ m ∈ s.leafs, underEntry 1 0x40000000 3 m = true → busyOf s 1 m.bid = 0) ∧
     hOwnerB (headerOf s 1 1) = 1 ∧ hOwnerB (headerOf s 1 2) ≠ 1 ∧ frameTaken s 1 0x40000 0x40000 = false) ∧
    (let s := tables id
     let h := hSet (headerOf s 1 1) 128 64 0
     hImm (headerOf s 1 1) = false ∧ busyOf s 1 1 = 0 ∧ rangeTaken s 1 1 h = false ∧ hOwnerB h = 1 ∧ hRqmap (headerOf s 1 1) = 0 ∧
     rangeTaken s 1 2 h = true ∧ rebindOk s 1 (headerOf s 1 1) h = true ∧ h.extractLsb' 323 189 = 0 ∧ hFmt h < 6 ∧ hFmt h ≠ 5 ∧
     hBase h % 4096 = 0 ∧ hSizeB h % 4096 = 0) ∧
    -- a block's header: 4 KiB at a frame that nothing holds, for address space 1
    (let s := tables id
     let h := BitVec.ofNat 512 (2 ^ 64 * 4096 + 2 ^ 112 + 2 ^ 192 * 0x80000000)
     hSet (hSet h 128 64 0) 111 1 0 = h ∧ blockOf s 7 = none ∧ busyOf s (2 ^ 16) 7 = 0 ∧ h.extractLsb' 323 189 = 0 ∧ hFmt h = 0 ∧
     hBase h = 0 ∧ hSizeB h = 4096 ∧ hAux h = 0x80000000 ∧ hOwnerB h = 1 ∧ (∀ l ∈ s.leafs, l.asid = 1) ∧ s.blocks = []) ∧
    rootOf (tables id) 1 ≠ none ∧ rootOf (tables id) 2 = none ∧ (BitVec.ofNat 64 (2 ^ 40)).extractLsb' 40 12 ≠ 0 ∧
    (let s := tables id
     kvValid (0x8000000000000000 : Word) = true ∧ kvGranted s 1 0x8000000000000000 = none ∧ kvValid 0 = false ∧
     blockOf s 0 = none ∧ (∀ l ∈ s.leafs, overlaps l 0x40000 1 = false) ∧ (0x40000000 : Nat) % 4096 = 0) := by
  decide +kernel

theorem witness_TableEvents_migration :
    (let s := tables id
     hPin (headerOf s 1 1) = false ∧ hMig (headerOf s 1 1) = false ∧ leavesOf s 1 1 = [leaf1] ∧ 0x80000 % leaf1.count = 0 ∧
     (∀ l ∈ s.leafs, overlaps l 0x80000 leaf1.count = false) ∧ s.blocks = [] ∧ s.migrations = [] ∧ chipOf (0x80000 * 4096) < 432 ∧ (leavesOf s 1 1).length ≠ ([] : List Nat).length) ∧
    (∀ b, busyOf (migrating b []) 1 1 = if b = true then 1 else 0) ∧
    (migrating false []).migrations.find? (fun m => m.asid = 1 && m.bid = 1) = some { asid := 1, bid := 1, frames := [0x80000] } ∧
    badChunk (migrating false [200]) (headerOf (migrating false []) 1 1) [leaf1] [0x80000] = some 1 ∧
    badChunk (migrating false []) (headerOf (migrating false []) 1 1) [leaf1] [0x80000] = none ∧
    Memory.wf (migrating false []).dram = true ∧ entryAddr (migrating false []) 1 0 3 = some 0x2000 ∧ 0x2000 + 16 ≤ 0x80000 * 4096 ∧
    (let s := requanting
     let h := headerOf s 1 1
     mayRequant h 0 = true ∧ mayRequant h (2 ^ 23) = false ∧
     (match blockFormat s 1 h 0 with
      | .ok r => decide (r = (0, false))
      | .error _ => false) = true ∧
     isOk (logicalBlock s 1 h 0) = true ∧ isOk (auxRead s 1 (hRqmap h) 1) = true ∧
     isOk (auxWrite s 1 (hRqmap h) [1]) = true) := by
  decide +kernel

theorem witness_TableEvents_host :
    windowHolds (windowed [] false) 0 0x100 8 = true ∧ windowHolds (windowed [] false) 0 0x1000 8 = false ∧
    (∀ i < 8, sectorBad (windowed [] false) (0x100 + i) = false) ∧ (∃ i < 8, sectorBad (windowed [8] false) (0x100 + i) = true) ∧
    (windowed [8] false).chip = 0 ∧ windowHolds (windowed [8] false) 0 0x100 8 = true ∧
    holdsSealed (windowed [] false) 0x100 8 = false ∧ holdsSealed (windowed [] true) 0x100 8 = true ∧
    windowHolds (windowed [] true) 0 0x100 8 = true := by
  decide +kernel
/-- Ferry 0 has one command of context 0, whose slots have passed the issuing bundle; the next free choice is `d`. The
scratchpad of core 0 has a legal shape at 0x800, one row of 8 bytes, which is also shape 0 of the context. -/
def ferrying (d : Nat) (c : Cmd) : State :=
  mapped [] { modCtx (withCore fun k => { k with spad := writeBytes [] 0x800 (natToBytes 8 0x100000008) }) 0 0 fun x =>
                { x with spos := List.replicate 6 1, npos := 1, shapes := [(0, 0x100000008)] } with
    ferries := [(0, { cmds := [c] })], tape := [d] }
def spad800 : Word := 0x1000000000000800
/-- A command of a kind that holds stream 0. -/
def onStream (k : CmdKind) : Cmd := { cmd0 with kind := k, st := .stream 0, a := spad800 }
/-- A copy whose one unit has been read and is to be written. -/
def lastUnit : Cmd :=
  { onStream .copy with b := spad800, started := true, shape := 0x100000008, toRead := [], toWrite := [0x1000000000000800],
                        buf := [(0, 7)] }
/-- The same copy before it has read. -/
def firstUnit : Cmd := { lastUnit with toRead := [0x1000000000000800], buf := [] }
def isDone {α : Type} (t : Try α) : Bool :=
  match t with
  | .ok _ => true
  | _ => false

theorem witness_FerryEvents_issue :
    issuable State.reset 0 = [] ∧
    (let s := ferrying 0 { cmd0 with a := spad800, b := spad800 }
     issuable s 0 = [{ cmd0 with a := spad800, b := spad800 }] ∧
     issueIllegal { cmd0 with a := spad800, b := spad800 } (mapGet 0 (ctxOf s 0 0).shapes 0) = false ∧
     issueIllegal cmd0 (mapGet 0 (ctxOf demo 0 0).shapes 0) = true ∧
     issueIllegal { cmd0 with kind := .alloc, a := 0x4000000000000000, b := spad800 } 0 = true ∧ resultOk spad800.toNat = true ∧
     issuable (ferrying 0 cmd0) 0 = [cmd0]) := by
  decide +kernel

theorem witness_FerryEvents_streams :
    (∀ d < 2, (let s := ferrying d (onStream .shape)
      (ferryOf s 0).cmds.find? (fun c => c.st = .stream 0) = some (onStream .shape) ∧ mayPerform s (onStream .shape) = true ∧
      (draw s).1 = d)) ∧
    (let s := (draw (ferrying 0 (onStream .shape))).2
     (match smallRead s 0 (onStream .shape) true spad800.toNat 32 with
      | (_, .ok bs) => shapeLegal (BitVec.ofNat 256 (bytesToNat bs))
      | _ => false) = true) ∧
    (let s := (draw (ferrying 0 (onStream .card))).2
     mayPerform s (onStream .card) = true ∧ isDone (smallRead s 0 (onStream .card) true spad800.toNat 64).2 = true) ∧
    (let c := { onStream .kvmap with a := 0x100000000000000, b := 0 }
     mayPerform (ferrying 0 c) c = true ∧ locOf c.a.toNat = .dev 0x100000000000000 ∧ kvValid c.b = false ∧
     c.started = false ∧ c.ending = none ∧ chunksThrough (draw (ferrying 0 c)).2 (cmdAsid (ferrying 0 c) c) (0x100000000000000 / 4096) c.id = []) ∧
    (let s := ferrying 0 firstUnit
     mayPerform s firstUnit = true ∧ hasShape firstUnit.kind = true ∧ firstUnit.started = true ∧
     pickWords (draw s).2 (0 / 2) firstUnit.toRead = ([0x1000000000000800], []) ∧
     isOk (readUnits (draw s).2 [0x1000000000000800] firstUnit) = true) ∧
    (let s := ferrying 0 lastUnit
     mayPerform s lastUnit = true ∧ sharedWrite (draw s).2 lastUnit = none ∧
     pickWrites (draw s).2 lastUnit (0 / 2) = ([0x1000000000000800], []) ∧
     isOk (writeChunk lastUnit [0x1000000000000800] (draw s).2) = true ∧ blockLen lastUnit ≤ 4096 * (lastUnit.chunk + 1)) := by
  decide +kernel

/-- A stamp that has a stream, alone in its batch. -/
def stamp0 : Cmd := { cmd0 with kind := .stamp, st := .stream 0, a := spad800, b := 5 }
/-- A counted copy, of one line or of two, whose first line is due at step `t` + 16. -/
def counted (rows t : Nat) : Cmd :=
  { lastUnit with st := .counted, pinned := true, onTime := true, t := BitVec.ofNat 64 t, issueStep := t,
                  shape := BitVec.ofNat 256 (512 + 2 ^ 32 * rows + 2 ^ 192 * 16) }
def tagging : Cmd := { cmd0 with kind := .mtag, st := .stream 0, a := 0x4000, b := 0x20 }
/-- A tag change of buffer 1, which a command may hold busy or a migration may hold. -/
def tagged1 (busy mig : Bool) : State :=
  { ferrying 0 tagging with
    ferries := [(0, { cmds := tagging :: if busy then [{ cmd0 with id := 60, touched := [(1, 1)] }] else [] })],
    buffers := [(0x100001, BitVec.ofNat 512 (2 ^ 64 * 2 ^ 30 + 2 ^ 112 + if mig then 2 ^ 111 else 0))] }

theorem witness_FerryEvents_apart :
    (∀ k ∈ [CmdKind.copy, .sum], (let c := { cmd0 with kind := k, st := .parked (some 3) false 0x4000 4 }
     cmdOf (ferrying 0 c) 0 70 = some c ∧ c.ending = none)) ∧
    (let s := ferrying 0 stamp0
     cmdOf s 0 70 = some stamp0 ∧ stampDue (ferryOf s 0) stamp0 = true ∧ mayPerform s stamp0 = true ∧
     locOf stamp0.a.toNat = .spad 0 0x800 ∧ stamp0.a.toNat % 16 = 0 ∧ stamp0.a.toNat < 2 ^ 61 ∧
     isDone (smallWrite s 0 stamp0 stamp0.a.toNat (stampBytes (ferryOf s 0) stamp0)).2 = true) ∧
    stampDue { cmds := [stamp0, { cmd0 with id := 60 }] } stamp0 = false ∧
    (∀ rows ∈ [1, 2], (let c := counted rows 984
      let s := ferrying 0 c
      cmdOf s 0 70 = some c ∧ c.st = .counted ∧ lineStep c = s.gauge ∧ lineRead c = true ∧ lineRead { c with started := false } = false ∧
      mayPerform s c = true ∧ lineClash s c = false ∧
      lineClash { s with ferries := s.ferries ++ [(1, { banks := (lineBanks s c).map fun b => (s.gauge, b) })] } c = true ∧
      isOk (writeCounted (draw s).2 0 c) = true ∧ blockLen c = 512 * rows ∧
      -- the gang does not hold the line's bytes
      isOk (writeCounted (draw { s with gangs := [(1, { gang1 with entries := [{ entry0 with hi := 0x7FF }] })] }).2 0 c) = false)) ∧
    lineStep (counted 1 900) < (ferrying 0 (counted 1 900)).gauge ∧
    (∀ b m, (let s := tagged1 b m
      cmdOf s 0 70 = some tagging ∧ locOf tagging.a.toNat = .dev 0x4000 ∧ isKv 0x4000 = false ∧
      (bufferAt s (cmdAsid s tagging) 0x4000).map Prod.fst = some 1 ∧ hOwnerB (headerOf s 1 1) = cmdAsid s tagging ∧
      hMig (headerOf s 1 1) = m ∧ busyOf s (cmdAsid s tagging) 1 = if b = true then 1 else 0)) ∧
    tagIllegal (headerOf (tagged1 false false) 1 1) 0x20 = false ∧ tagIllegal (headerOf (tagged1 false false) 1 1) 1 = true := by
  decide +kernel

/-- A deduplicating write waits for its own copy of block 3, mapped at the first page of the key-value region; block 4 is idle. -/
def dup : Cmd := { cmd0 with kind := .dedup, st := .parked none true 0x100000000000000 0, b := 0x100000000000000 }
def blockAt (frame dref : Nat) : Block := { hdr := BitVec.ofNat 512 (2 ^ 64 * 4096 + 2 ^ 112 + 2 ^ 160 * dref + 2 ^ 192 * frame), fp := none }
def sharing : State :=
  { ferrying 0 dup with
    kv := [(kvKey 1 (kvPage 0x100000000000000), 0x8000000000000003)], blocks := [(3, blockAt 0x8000 2), (4, blockAt 0x9000 0)] }

theorem witness_FerryEvents_copy :
    cmdOf sharing 0 70 = some dup ∧ kvResolve sharing (cmdAsid sharing dup) 0x100000000000000 = some (3, blockAt 0x8000 2) ∧
    (blockAt 0x8000 2).dref = 2 ∧ (blockAt 0x8000 2).frame = 0x8000 ∧ (blockAt 0x9000 0).frame = 0x9000 ∧
    Memory.wf sharing.dram = true ∧
    (let idle := sharing.blocks.filter fun e => e.1 / 2 ^ 40 = 3 / 2 ^ 40 && e.2.owner = cmdAsid sharing dup && e.2.dref = 0
     idle[(draw sharing).1 % idle.length]? = some (4, blockAt 0x9000 0)) := by
  decide +kernel

/-- A search job of context 0 that ends in the core's cycle 100, with its record for tile 2 or none. -/
def job0 (dest : Option Nat) : Job :=
  { ctx := 0, handle := 0, pos := 0, bundle := 0x20000, start := 50, finish := 100, target := 0, seed := 1, rank := 0, count := 1,
    dest := dest }
def arrival (seq : Nat) : Pend := { due := 100, ctx := 0, pos := 0, slot := 0, seq := seq, bundle := 0x20000, eff := .arrive 10 [] }
/-- An arrival stands at confluence 10, which has its arrivals but one, or none yet. -/
def arriving (a : Nat) : State :=
  { withCore fun c => { c with pend := [arrival 60] } with confs := [(10, { gang := some 1, n := 2, a := a })] }
/-- A load or an atomic request that waits for the peer port of core 1. -/
def atPort (k : AccKind) : Access := { request none with kind := k }

theorem witness_CoreEvents :
    (∀ j ∈ (coreOf demo 0).jobs, (coreOf demo 0).cyc < j.finish) ∧
    (∀ d ∈ [none, some 2], (let c := coreOf (withCore fun c => { c with jobs := [job0 d] }) 0
      c.jobs = [job0 d] ∧ (job0 d).finish ≤ c.cyc ∧ (job0 d).ctx < 8 ∧ (job0 d).mute = false ∧ (job0 d).dest = d)) ∧
    -- the kernel that issued the job has retired
    (let j := { job0 none with mute := true }
     (coreOf (withCore fun c => { c with jobs := [j] }) 0).jobs = [j] ∧ j.mute = true ∧ j.dest = none) ∧
    arrivalsAt (coreOf demo 0) 10 = [] ∧
    (∀ a < 2, arrivalsAt (coreOf (arriving a) 0) 10 = [arrival 60] ∧ ((confOf (arriving a) 10).a + 1 = 2 ↔ a = 1) ∧
      (confOf (arriving a) 10).n = 2) ∧
    (∀ k ∈ [AccKind.loadS 1 8, .atom 0 false 8 0 3], ∀ d < 2,
      (let s := { peer [atPort k] with tape := [d] }
       (coreOf s 0).accs.find? (fun b => b.seq = 9 && b.due = .grant && b.land.isNone) = some (atPort k) ∧ (draw s).1 = d ∧
       earlierAccs (coreOf s 0) (atPort k) = [] ∧ isRequest (atPort k) = decide (k = .atom 0 false 8 0 3))) := by
  decide +kernel

/-! ## Witnesses: shared checks, turns, frames and copies -/

/-- The parts of `Reached` as one Boolean. -/
def reachedB (i : Instr) (s : State) : Bool :=
  i.wf && decide (literalNeed i = 0 ∨ literalNeed i = hKind s.cur.hdr) && guardPass (curCtx s) (guardField i)
/-- The context holds no grove, no signal and not tile 0. -/
def ungranted : State := withCore fun c => { setTile c 0 {} with groves := [], sigs := [] }

theorem witness_CheckFaults_grants :
    (needs .M 0 (.mpush 0 1 0 1 0 0 0) = [.tile 1, .tile 0] ∧ (tileOf (curCore ungranted) 1).owner = some 0 ∧
     (tileOf (curCore ungranted) 0).owner = none ∧ reachedB (.mpush 0 1 0 1 0 0 0) ungranted = true) ∧
    (needs .S 0 (.gseed 0 2 3) = [.grove 2] ∧ (groveOf (curCore ungranted) 2).owner = none ∧ reachedB (.gseed 0 2 3) ungranted = true) ∧
    (needs .S 0 (.snow 0 5 3) = [.sig 3] ∧ sigOf (curCore ungranted).sigs 3 = none ∧ reachedB (.snow 0 5 3) ungranted = true) ∧
    (needs .S 0 (.waitp 0 9) = [.pipe 9] ∧ (pipeOf demo 9).gang ≠ (curCtx demo).gang ∧ reachedB (.waitp 0 9) demo = true) ∧
    (needs .S 0 (.arrive 0 99) = [.conf 99] ∧ (confOf demo 99).gang ≠ (curCtx demo).gang ∧ reachedB (.arrive 0 99) demo = true) := by
  decide +kernel
-- R342: the causes of those five
theorem test_grant_causes :
    cause (.mpush 0 1 0 1 0 0 0) ungranted = some 0x11 ∧ cause (.gseed 0 2 3) ungranted = some 0x11 ∧
    cause (.snow 0 5 3) ungranted = some 0x12 ∧ cause (.waitp 0 9) demo = some 0x13 ∧ cause (.arrive 0 99) demo = some 0x13 := by
  decide +kernel

/-- A result for s7 is in flight in debug mode, or s7 is poisoned. -/
def pendingS7 : State := withCore fun c => { c with debug := true, pend := [due 0 0 (.sreg 7 2)] }
def poisonedS7 : State := withCore fun c => { c with poison := [.sreg 0 7] }

theorem witness_CheckFaults_places :
    needs .S 0 (.add 0 6 3 7) = [] ∧ mayWait (.add 0 6 3 7) demo = false ∧ reachedB (.add 0 6 3 7) demo = true ∧
    reads pendingS7 .S (.add 0 6 3 7) = [.sreg 0 3] ++ .sreg 0 7 :: [] ∧ (curCore pendingS7).debug = true ∧
    isPending (curCore pendingS7) 0 (.sreg 0 3) = false ∧ isPending (curCore pendingS7) 0 (.sreg 0 7) = true ∧
    reads poisonedS7 .S (.add 0 6 3 7) = [.sreg 0 3] ++ .sreg 0 7 :: [] ∧ (curCore poisonedS7).debug = false ∧
    Place.sreg 0 7 ∈ (curCore poisonedS7).poison ∧ Place.sreg 0 3 ∉ (curCore poisonedS7).poison := by
  decide +kernel
theorem test_place_causes :
    (curCtx (after (.add 0 6 3 7) pendingS7)).fault.map (fun f => (f.cause, f.d0)) = some (0x34, 0x701) ∧
    (curCtx (after (.add 0 6 3 7) poisonedS7)).fault.map (fun f => (f.cause, f.d0, f.d1)) = some (0x7D, 1, 7) := by decide +kernel

/-- A bundle whose V1 slot names a tap, or the load-data queue; V0's word of it may have to act first. -/
def sourced (lit : Word32) (q : List LqEntry) (ahead : Option Instr) : State :=
  let s := withCtx fun c =>
    { c with lqv := q, win := (ahead.map fun i =>
      { pos := 0, addr := 0x20000, hdr := 0x26, lit := lit, words := [(1, encode i)], level := false, delay := false }).toList }
  { s with cur := { s.cur with hdr := BitVec.ofNat 32 (2 ^ 10 * literalNeed (.vmov .v0 0 5 16)), lit := lit } }

theorem witness_CheckFaults_sources :
    (let s := sourced 0x01040000 [] none
     16 ∈ vectorSources (.vmov .v1 0 5 16) ∧ sigOf s.cur.sigs 1 = some (signal 1 1 0).2 ∧ (signal 1 1 0).2.depth ≤ 4 ∧
     reachedB (.vmov .v1 0 5 16) s = true ∧ (grantFault s .V1 (.vmov .v1 0 5 16)).isNone ∧
     (pendingFault s .V1 (.vmov .v1 0 5 16)).isNone ∧ (poisonFault s .V1 (.vmov .v1 0 5 16)).isNone ∧
     cause (.vmov .v1 0 5 16) s = some 0x21) ∧
    (let i : Instr := .vmov .v1 0 5 17
     17 ∈ vectorSources i ∧ reachedB i (sourced 0 [] none) = true ∧ (grantFault (sourced 0 [] none) .V1 i).isNone ∧
     (pendingFault (sourced 0 [] none) .V1 i).isNone ∧ (poisonFault (sourced 0 [] none) .V1 i).isNone ∧
     behindV0 (sourced 0 [] none) .V1 namesQueue = false ∧ cause i (sourced 0 [] none) = some 0x32 ∧
     -- late in pinned mode, late in elastic mode, poisoned, behind V0
     (let s := modCore (sourced 0 [{ id := 5 }] none) 0 fun c => { c with pinned := true }
      (curCore s).pinned = true ∧ reachedB i s = true ∧ cause i s = some 0x32) ∧
     (let s := sourced 0 [{ id := 5 }] none
      (curCore s).pinned = false ∧ reachedB i s = true ∧ cause i s = none) ∧
     (let s := sourced 0 [{ id := 5, val := some 1, poison := true }] none
      reachedB i s = true ∧ cause i s = some 0x7D) ∧
     (let s := sourced 0 [{ id := 5, val := some 1 }] (some (.vmov .v0 0 5 17))
      reachedB i s = true ∧ behindV0 s .V1 namesQueue = true ∧ (after i s).cur.out = .waits)) := by
  decide +kernel

/-- An operation on pipe 4 stands in V0's word of the bundle. -/
def sharedPipe (i : Instr) : State := sourced 0 [] (some i)

theorem witness_PipeTurns :
    behindV0 (pipeIn false 15 {}) .V0 (fun i => decide (pipeNamed i = some 4)) = false ∧
    (∀ i ∈ [Instr.ptake .v0 0 5 4, .psend .v0 0 3 4], let s := sharedPipe i
      behindV0 s .V1 (fun i => decide (pipeNamed i = some 4)) = true ∧ behindV0 s .V1 (fun i => decide (pipeNamed i = some 5)) = false ∧
      (pipeOf s 4).bound = none ∧ clearB (.ptake .v1 0 5 4) .V1 s = true ∧ clearB (.psend .v1 0 3 4) .V1 s = true ∧
      (after (.ptake .v1 0 5 4) s).cur.out = .waits ∧ (after (.psend .v1 0 3 4) s).cur.out = .waits) := by
  decide +kernel

/-- Tile 0 passes its check, tile 1 has a tag that fails it. -/
def tagsAB (p : Bool) (tag : BitVec 2) : State := modCore (tagged p 2) 0 fun c => setTile c 1 { owner := some 0, tag := tag }

theorem witness_WaitBitFaults_second :
    (∀ x : BitVec 1, (let s := tagsAB true 0
      (curCore s).pinned = true ∧ (tileOf (curCore s) 0).tag = 2 ∧ (tileOf (curCore s) 0).seq = (tileOf (curCore s) 0).exp + 1 ∧
      (tileOf (curCore s) 1).tag ≠ 2 ∧ clearB (.mpush 0 0 1 1 x 1 0) .M s = true ∧ cause (.mpush 0 0 1 1 x 1 0) s = some 0x52)) ∧
    (let s := tagsAB false 1
     (curCore s).pinned = false ∧ (tileOf (curCore s) 1).tag = 1 ∧ clearB (.mpushd 0 0 1 1 0 1 0) .M s = true) := by
  decide +kernel

theorem witness_QueueReads_poison :
    (let s := withCtx fun c => { c with lqs := [{ id := 90, val := some 7, poison := true }] }
     (curCtx s).lqs.head? = some { id := 90, val := some 7, poison := true } ∧ clearB (.lqpop 0 3) .S s = true ∧
     clearB (.lqpeek 0 3) .S s = true ∧ cause (.lqpop 0 3) s = some 0x7D) := by decide +kernel

/-- In debug mode a store of core 0 has still to write the byte at 0x44; or the word at 0x40 is poisoned. -/
def storing44 : State := withCore fun c => { c with debug := true, accs := [{ store0 with off := 0x44 }] }
def poisoned40 : State := withCore fun c => { c with poison := [.spad 8] }

theorem witness_PendingByteFaults :
    (curCore storing44).debug = true ∧ (curCore storing44).accs = [{ store0 with off := 0x44 }] ∧ isWrite { store0 with off := 0x44 } = true ∧
    isRequest { store0 with off := 0x44 } = false ∧ AddressLegal storing44 0x40 8 ∧ sregOf (curCtx storing44) 8 = 0x40 ∧
    clearB (.lda .c0 0 8 3 0) .C0 storing44 = true ∧ clearB (.mwait 0 8 4) .S storing44 = true ∧ accBytes { store0 with off := 0x44 } = 1 ∧
    AddressLegal poisoned40 0x40 8 ∧ NoPendingStore poisoned40 0x40 8 ∧ Place.spad (0x40 / 8) ∈ (coreOf poisoned40 0).poison ∧
    clearB (.mwait 0 8 4) .S poisoned40 = true := by
  refine ⟨rfl, rfl, rfl, rfl, ?_, rfl, by decide +kernel, by decide +kernel, rfl, ?_, noPendingStore_of rfl, by decide, by decide +kernel⟩ <;>
    unfold AddressLegal <;> decide +kernel
theorem test_pending_byte :
    (curCtx (after (.lda .c0 0 8 3 0) storing44)).fault.map (fun f => (f.cause, f.d0)) = some (0x34, 0x4407) ∧
    (curCtx (after (.mwait 0 8 4) poisoned40)).fault.map (fun f => (f.cause, f.d0, f.d1)) = some (0x7D, 7, 0x40) := by decide +kernel

theorem witness_ScratchpadAddressFaults_mwait :
    2 ^ 22 ≤ (sregOf (curCtx (addressed 0x400000)) 8).toNat ∧ clearB (.mwait 0 8 3) .S (addressed 0x400000) = true ∧
    (sregOf (curCtx (addressed 0x44)) 8).toNat % 8 ≠ 0 ∧ clearB (.mwait 0 8 3) .S (addressed 0x44) = true ∧
    clearB (.mwait 0 8 3) .S confined = true ∧ ¬AddressLegal confined 0x40 8 := by
  refine ⟨by decide, by decide +kernel, by decide, by decide +kernel, by decide +kernel, ?_⟩
  unfold AddressLegal; decide +kernel

/-- Signal 1 is bound to pipe 4, which has an entry; signal 2 is due and has no sample. -/
def sampled : State :=
  { withCore fun c => { c with sigs := [(1, { (signal 1 1 0).2 with piped := some 4 }), (2, { (signal 2 1 0).2 with nw := false })] } with
    pipes := [(4, { gang := some 1, entries := [3, 6] })] }

theorem witness_TickAdvancesDueSignals_pipe :
    clearB (.tick 0) .S sampled = true ∧ ((curCore sampled).sigs.map Prod.fst).Nodup ∧ (pipeOf sampled 4).entries ≠ [] ∧
    ((curCtx sampled).tick + 1).toNat % 1 = 0 ∧ (0 : Nat) < 8 := by decide +kernel
-- R190, R196, R347: the pipe loses its head; the starved signal 2 records its id and T = 1
theorem test_tick_pipe :
    (pipeOf (after (.tick 0) sampled) 4).entries = [6] ∧
    (curCtx (after (.tick 0) sampled)).statNew = [(1000, BitVec.ofNat 64 (4 + 2 ^ 6 * (0x20000 % 2 ^ 18) + 2 ^ 24 * (2 + 2 ^ 8)))] := by
  decide +kernel

def isNext {α β γ : Type} : Host.Outcome α β γ → Bool
  | .next _ => true
  | .fault _ => false
  | .refused _ => false
theorem witness_OtherFrames_queues_contexts :
    isNext (exec (.lqpop 0 3) demo) = true ∧ isNext (exec (.sqpop 0 3) demo) = true ∧ isNext (exec (.psend .v0 0 3 4) demo) = true ∧
    isNext (exec (.ptake .v0 0 5 4) demo) = true ∧ isNext (exec (.tick 0) sampled) = true ∧ ((curCore sampled).sigs.map Prod.fst).Nodup ∧
    isNext (exec (.ctlwr 0 7 4) (s7 2)) = true ∧ isNext (exec (.retire 0) demo) = true ∧
    isNext (exec (.spawn 0 3 4 5) (pair 1 dormant)) = true ∧ isNext (exec (.fresume 0 4 1) (handled true)) = true := by
  decide +kernel
/-- The contexts that the index and the handle of those forms name are not context 0. -/
theorem witness_SlotsKeepState_contexts :
    (∀ key y e, (curCtx (pair 1 dormant)).gang = some key → gangOf (pair 1 dormant) key = some y →
      y.entries[(sregOf (curCtx (pair 1 dormant)) 4).toNat]? = some e → ¬(e.core = 0 ∧ e.ctx = 0)) ∧
    ((sregOf (curCtx (handled true)) 4).extractLsb' 0 3).toNat ≠ 0 ∧
    (ctxOf (handled true) 0 0).fault = none := by
  refine ⟨fun key y e hk hg he => ?_, by decide +kernel, rfl⟩
  have h1 : (curCtx (pair 1 dormant)).gang = some 1 := rfl
  rw [h1] at hk
  cases hk
  have h2 : gangOf (pair 1 dormant) 1 = some { gang1 with entries := [entry0, entryIn 1 1] } := rfl
  rw [h2] at hg
  cases hg
  have h3 : (sregOf (curCtx (pair 1 dormant)) 4).toNat = 1 := rfl
  rw [h3] at he
  cases he
  decide

/-- Poisoned results for a tile, a row of a tile and the two queues. -/
theorem witness_LandingResults_poison :
    { due 0 3 (.tile 2 8 [1, 2] 128) with poison := true }.eff = .tile 2 8 [1, 2] 128 ∧ (coreOf demo 0).ferried = [] ∧
    { due 0 3 (.drain 2 1 0 0 128 true [] true 0) with poison := true }.eff = .drain 2 1 0 0 128 true [] true 0 ∧
    { due 0 3 (.lqs 90 7) with poison := true }.eff = .lqs 90 7 ∧ { due 0 3 (.lqv 90 7) with poison := true }.eff = .lqv 90 7 := by
  exact ⟨rfl, rfl, rfl, rfl, rfl⟩

/-- Core 0 has one beat in flight, issued `n` cycles ago. -/
def beating (n : Nat) (k : BeatKind) : State :=
  withCore fun c => { c with beats := [{ cyc := 100 - n, fmt := 0, rows := 128, cols := 128, kind := k }],
                             pend := [{ due := 231, ctx := 0, pos := 0, slot := 3, seq := 50, bundle := 0x20000,
                                        eff := .drain 2 1 0 0 128 true [] false 0 }] }

theorem witness_CoreStorage :
    (∀ b ∈ (coreOf demo 0).beats, ¬((coreOf demo 0).cyc < b.cyc + 2 + 130 / 128 + 130 % 128)) ∧
    (∀ k ∈ [BeatKind.clear, .drain 50 1 [] (List.replicate 128 false)],
      (coreOf (beating 0 k) 0).beats = [{ cyc := 100, fmt := 0, rows := 128, cols := 128, kind := k }] ∧
      (coreOf (beating 0 k) 0).cyc < 100 + 2 + 130 / 128 + 130 % 128 ∧ 130 / 128 = 1 ∧ 130 % 128 < (List.replicate 128 false).length) ∧
    ((coreOf (after (.coreStorageError 0 (.uncorrectable (.acc 130))) (beating 0 .clear)) 0).poison = []) ∧
    ((coreOf (after (.coreStorageError 0 (.uncorrectable (.acc 130))) (beating 0 (.drain 50 1 [] (List.replicate 128 false)))) 0).pend.all
      Pend.poison) = true ∧
    -- beyond the fifth cycle cell (1, 2) has been read
    ((coreOf (after (.coreStorageError 0 (.uncorrectable (.acc 130))) (beating 5 (.drain 50 1 [] (List.replicate 128 false)))) 0).pend.all
      Pend.poison) = false := by
  decide +kernel

/-- The gang is to be checkpointed; buffer 1 has one leaf of one page at frame 16 and block 3 of its address space a page. -/
def copied (sealed : List Nat) (old : List Ckpt) : State :=
  let s := leaving true true
  { s with
    gangs := s.gangs.map fun e => (e.1, { e.2 with ckSealed := sealed }), ckpts := old
    leafs := [{ frame := 16, count := 1, asid := 1, va := 0x5000, level := 5, bid := 1 }], buffers := [(0x100001, 2 ^ 112)]
    dram := [(0x10007, 9), (0x20003, 8)], newEnc := [(0x100001, [(0, 7)])]
    blocks := [(3, { hdr := BitVec.ofNat 512 (2 ^ 64 * 4096 + 2 ^ 112 + 2 ^ 192 * 0x20000), fp := none })] }
def ckpt0 : Ckpt := { gang := 1, chip := 0, slot := 0, number := 0, saved := saved1, buffers := [(1, { bytes := [(0x5007, 3)] })] }

theorem witness_SaveEvents_copies :
    (gangOf (copied [] []) 1).any (fun g => decide (g.st = .running) && g.ckpt && gangStill (copied [] []) 1 g && decide (g.asid = 1)) = true ∧
    asidBuffers (copied [] []) 1 = [1] ∧ (leavesHere (copied [] []) 1 1).length = 1 ∧
    ((copied [] []).blocks.all fun b => b.2.owner = 1 && chipOf b.2.frame = 0 && b.2.frame % 4096 = 0) = true ∧
    (copied [] []).newEnc = [(bufKey 1 1, [(0, 7)])] ∧ (copied [1] [ckpt0]).ckpts = [ckpt0] ∧ asidBuffers (copied [1] [ckpt0]) 1 = [1] := by
  decide +kernel
-- R364: the copies hold the bytes under their device-virtual addresses, and a sealed buffer keeps the copy of the slot before
theorem test_copies :
    (checkpointBuffers (copied [] []) 1 { gang1 with st := .running }).map (fun b => (b.1, b.2.bytes)) = [(1, [(0x5007, 9)])] ∧
    ((asidBlocks (copied [] []) 1).map fun b => (b.1, (copyOut (copied [] []) (b.2.frame / 4096) 1 0).bytes)) = [(3, [(3, 8)])] ∧
    checkpointBuffers (copied [1] [ckpt0]) 1 { gang1 with ckSealed := [1] } = ckpt0.buffers := by
  decide +kernel
/-- A spare with the slot of a device that failed. -/
def spare : State := { copied [] [{ ckpt0 with whole := true, reencoded := [(1, [(0, 6)])] }] with gangs := [], streams := [], ready := true }
theorem witness_SaveEvents_restores :
    spare.ckpts = [{ ckpt0 with whole := true, reencoded := [(1, [(0, 6)])] }] ∧ gangOf spare 1 = none ∧ ckpt0.chip.toNat = 0 ∧
    ckpt0.saved.gang.asid = 1 ∧ Memory.wf ([(0x5007, 3)] : Mem) = true ∧
    (leavesHere ({ spare with chip := BitVec.ofNat 9 0 } : State) 1 1).length = 1 := by
  decide +kernel
-- R363: the slot's bytes come back through the leaf that the spare's tables hold
theorem test_restores : mapGet 0 (after (.deviceFailureRecovery 0 true) spare).dram 0x10007 = 3 := by decide +kernel

/-- Entry 0 of the second level's table leads to a table in the third GiB; a table of another address space may stand there. -/
def nextTable : BitVec 128 := BitVec.ofNat 128 (7 + 2 ^ 12 * 0x80000)
def tabled (ts : List TableRec) : State := tables fun s => { s with tables := ts }

theorem witness_TableEvents_tables :
    (∀ ts ∈ [[], [({ frame := 0x80001, asid := 2, va := 0, level := 1 } : TableRec)]],
      let s := tabled ts
      (entryAddr s 1 0x40000000 3).isSome ∧ (tableOf 1 0x40000000 3 0x2010 nextTable.toNat) =
        some { frame := 0x80000, asid := 1, va := 0x40000000, level := 4 } ∧
      (∀ m ∈ s.leafs, underEntry 1 0x40000000 3 m = true → busyOf s 1 m.bid = 0) ∧
      tableRoom s (tablesBut s 1 0x40000000 3) 0x80000 = ts.isEmpty ∧ tableAt (tablesBut s 1 0x40000000 3) 0x80001 1 = !ts.isEmpty) := by
  decide +kernel

/-- A buffer of lossless lines at the second page of the window. -/
def lined : State :=
  { windowed [] false with
    leafs := [{ frame := 0, count := 1, asid := 1, va := 0x8000, level := 5, bid := 1 }]
    buffers := [(0x100001, BitVec.ofNat 512 (0x8000 + 2 ^ 64 * 4096 + 2 ^ 104 + 2 ^ 112 + 2 ^ 192 * 0x6000))] }

theorem witness_TableEvents_lines :
    (∀ i < 8, hostLine (windowed [] false) (0x100 + i) = none) ∧
    (let s := lined
     windowHolds s 0 0x100 8 = true ∧ holdsSealed s 0x100 8 = false ∧ (hostLine s 0x100).isSome ∧
     ((List.range 8).all fun i => hostLine s (0x100 + i) = hostLine s 0x100)) := by
  decide +kernel

theorem witness_FerryEvents_kvmap :
    (let c := { onStream .kvmap with a := 0x100000000000000, b := 0 }
     let s := (draw (ferrying 0 c)).2
     ownerAway s c.b = false ∧ ownerAway s (kvOf s (cmdAsid s c) (kvPage 0x100000000000000)) = false) ∧
    -- the entry names a block of a chip without a route
    (let c := { onStream .kvmap with a := 0x100000000000000, b := 0x8010000000000000 }
     let s := ferrying 0 c
     mayPerform s c = true ∧ c.started = false ∧ c.ending = none ∧ ownerAway (draw s).2 c.b = true) ∧
    (let c := counted 1 985
     let s := ferrying 0 c
     cmdOf s 0 70 = some c ∧ lineStep c = s.gauge + 1 ∧ mayPerform s c = true) := by
  decide +kernel

theorem witness_LinkEvents_joined :
    (∀ b, (let s := { demo with links := [(3, 1)], ready := b }
      (mapGet 0 s.links 3).getLsbD 0 = true ∧ s.ready = b)) := by decide +kernel

/-! ## Witnesses: reads at a release, turns of the copy slots, drains onto poison, copies on write -/

/-- In debug mode a store of core 0 has still to write bytes of its own scratchpad at 0x800. -/
def storing800 : State := withCore fun c => { c with debug := true, accs := [{ store0 with off := 0x804 }] }
def peerStore : Access := { store0 with target := 1, off := 0x804, due := .step 1000 }
/-- In debug mode a granted request of C0 for the word at 0x800 of core 1 stands before a store to it. -/
def released : State := modCore (peer [request (some 90), peerStore]) 0 fun c => { c with debug := true }

theorem witness_PendingByteFaults_lines :
    sregOf (curCtx storing800) 9 = 0x800 ∧ IsLocal storing800 0x800 ∧ AddressLegal storing800 0x800 128 ∧ AddressLegal storing800 0x800 8 ∧
    clearB (.tlrow .c0 0 4 9 17) .C0 storing800 = true ∧ clearB (.atom .c0 0 3 9 4 0 0 3) .C0 storing800 = true ∧
    (curCore storing800).accs = [{ store0 with off := 0x804 }] ∧ accBytes { store0 with off := 0x804 } = 1 := by
  refine ⟨rfl, ?_, ?_, ?_, by decide +kernel, by decide +kernel, rfl, rfl⟩ <;>
    first | (unfold AddressLegal; decide +kernel) | (unfold IsLocal; decide)
theorem witness_PeerRequestResults_pending :
    (curCore released).debug = true ∧ (curCore released).accs = [request (some 90), peerStore] ∧
    isWrite peerStore = true ∧ isRequest peerStore = false ∧
    clearB (.atom .c0 0 3 9 4 0 0 3) .C0 released = true ∧ releaseFree released (request (some 90)) = true ∧ cause (.atom .c0 0 3 9 4 0 0 3) released = some 0x34 ∧
    (coreOf released 1).resv = [] := by decide +kernel
-- R257: ATOM and TLROW of the own scratchpad; R255: a slot that still waits raises nothing
theorem test_pending_lines :
    (curCtx (after (.atom .c0 0 3 9 4 0 0 3) storing800)).fault.map (fun f => (f.cause, f.d0)) = some (0x34, 0x80407) ∧
    cause (.tlrow .c0 0 4 9 17) storing800 = some 0x34 ∧
    (let s := modCore (peer [request none, peerStore]) 0 fun c => { c with debug := true }
     (after (.atom .c0 0 3 9 4 0 0 3) s).cur.out = .waits) := by decide +kernel

/-- R257: a half-row of a 64-bit view pends with the other half of its row of 1 KiB. -/
theorem test_half_row_pends :
    (let c := { coreOf demo 0 with pend := [due 0 1 (.tile 2 512 (List.replicate 512 0) 1024)] }
     isPending c 0 (.tile 2 0) = true ∧ isPending c 0 (.tile 2 127) = true ∧ isPending c 0 (.tile 2 128) = false) := by decide +kernel

/-- C0's word of the bundle gives a command and has not issued. -/
def behind : State := withCtx fun c =>
  { c with win := [{ pos := 0, addr := 0x20000, hdr := 0x30, lit := 0, words := [(4, encode (.fsum .c0 0 0 10 13 1))], level := false,
                     delay := false }] }
theorem witness_FerryCommands_turn :
    behindC0 demo .C0 givesCmd = false ∧ behindC0 demo .C1 givesCmd = false ∧ behindC0 behind .C0 givesCmd = false ∧
    behindC0 behind .C1 givesCmd = true ∧ clearB (.fsum .c1 0 0 10 13 1) .C1 behind = true := by decide +kernel
-- R269: C1's command waits
theorem test_command_turn :
    (after (.fsum .c1 0 0 10 13 1) behind).cur.out = .waits ∧ (after (.fsum .c0 0 0 10 13 1) behind).cur.out = .issued := by decide +kernel

/-- Word 64 of tile 2, the first of row 1 in BF16's and FP16's accumulate types or of half of row 1 of FP32, is poisoned. -/
def tileBad (w : Nat) : State := withCore fun c => { c with poison := [.tile 2 w] }
def addDrain : Pend := due 0 3 (.drain 2 1 0 1 128 true (List.replicate 128 1) false 0)
theorem witness_LandingResults_met :
    addDrain.eff = .drain 2 1 0 1 128 true (List.replicate 128 1) false 0 ∧ addDrain.poison = false ∧
    (64 : Nat) * 8 < 1 * 512 + 512 / 128 * 128 ∧ (1 : Nat) * 512 < 8 * 64 + 8 ∧ Place.tile 2 64 ∈ (coreOf (tileBad 64) 0).poison ∧
    (coreOf demo 0).poison = [] := by decide
-- R349: the row stays as it was, poisoned whole; a word of another row does not matter
theorem test_drain_onto_poison :
    (let t := landEff (tileBad 64) 0 addDrain
     (coreOf t 0).poison.contains (.tile 2 127) = true ∧ (tileOf (coreOf t 0) 2).bytes.extractLsb' (8 * 520) 32 = 0) ∧
    ((coreOf (landEff (tileBad 63) 0 addDrain) 0).poison = [.tile 2 63]) := by decide +kernel

theorem witness_FerryEvents_cow :
    noRoute sharing (3 / 2 ^ 40) = false ∧ noRoute sharing (chipOf (blockAt 0x8000 2).frame) = false ∧
    noRoute (draw sharing).2 (chipOf (blockAt 0x9000 0).frame) = false ∧
    chunksThrough sharing (cmdAsid sharing dup) (0x100000000000000 / 4096) dup.id = [] ∧
    (let s := { sharing with ferries := [(0, { cmds := [dup, { cmd0 with id := 60, started := true, xlat := [(0x100000000000000 / 4096, 8)] }] })] }
     cmdOf s 0 70 = some dup ∧ kvResolve s (cmdAsid s dup) 0x100000000000000 = some (3, blockAt 0x8000 2) ∧
     chunksThrough s (cmdAsid s dup) (0x100000000000000 / 4096) dup.id = [(0, 60, 0)]) := by decide +kernel
-- R298, R311: canopy looks again in the next step
theorem test_cow_waits :
    (let s := { sharing with ferries := [(0, { cmds := [dup, { cmd0 with id := 60, started := true, xlat := [(0x100000000000000 / 4096, 8)] }] })] }
     (after (.cowService 0 70) s).inputs = [(s.gauge + 1, .cowService 0 70)] ∧ (after (.cowService 0 70) s).kv = s.kv) := by decide +kernel

/-- Ring 2 has unsignalled records. -/
def unsignalled (n : Nat) : State := { demo with rings := [(2, { size := 6, prod := 3, unsignalled := n })], owner := 1 }
theorem witness_ManagementEvents_inten :
    (∀ n < 2, (ringOf (unsignalled n) 2).held = [] ∧ (ringOf (unsignalled n) 2).unsignalled = n ∧ (unsignalled n).standby = false) ∧
    (0x4006 : Word).getLsbD 14 = true ∧ (0x4006 : Word).extractLsb' 5 8 = 0 ∧ (0x4006 : Word).extractLsb' 16 32 = 0 := by decide
theorem test_inten_signals :
    (after (.registerWrite 0 0x2098 0x4006) (unsignalled 1)).outbox.length = 1 ∧
    (after (.registerWrite 0 0x2098 0x4006) (unsignalled 0)).outbox = [] := by decide +kernel

theorem witness_CheckFaults_feeds :
    (∀ i ∈ [Instr.sfeed .v1 0 17 3, .psend .v1 0 17 4], let s := sourced 0 [] none
      vectorSources i = [17] ∧ reachedB i s = true ∧ (grantFault s .V1 i).isNone ∧ (pendingFault s .V1 i).isNone ∧
      (poisonFault s .V1 i).isNone ∧ behindV0 s .V1 namesQueue = false ∧ cause i s = some 0x32) ∧
    behindV0 (sourced 0 [] none) .V1 (fun j => decide (pipeNamed j = some 4)) = false ∧
    (pipeOf (sourced 0 [] none) 4).entries.length + (pipeOf (sourced 0 [] none) 4).inflight < 16 ∧
    (sigOf (curCore (sourced 0 [] none)).sigs 3).all (fun y => y.piped.isNone) = true := by decide +kernel

/-! ## Small checks -/

-- R108: the handler's length keeps the table with the handler bit clear
theorem test_handler_length :
    handlerOk (List.replicate 128 0) = true ∧ handlerOk ((List.replicate 128 0).set 104 2) = false := by decide +kernel

-- R150: after a resumed fault of a LOOP the next bundle is not reached before the LOOP has issued
theorem test_loop_held :
    (let b : Bundle := { pos := 0, addr := 0x20000, hdr := 1, lit := 0, words := [(0, encode (.loop 0 5 8))], level := true, delay := false }
     levelHeld { ctx0 with win := [b], spos := [0, 1, 1, 1, 1, 1], npos := 1 } = true ∧
     levelHeld { ctx0 with win := [b], spos := List.replicate 6 1, npos := 1 } = false) := by decide +kernel

-- R265: a word that a ferry has replaced is still a choice after a switch point, and not after an IFENCE
theorem test_old_words :
    (let s := withCore fun c => { c with isp := [(0x10000, 7)], ispOld := [(950, 0x10000, 9)] }
     fetchChoices (coreOf s 0) 0 0x10000 = [7, 9] ∧ fetchChoices (coreOf (switchPoint s 0 0 .yields) 0) 0 0x10000 = [7, 9] ∧
     fetchChoices (coreOf (after (.ifence 0) s) 0) 0 0x10000 = [7]) := by decide +kernel

/-- Buffer 1 is a grove at 0x8000, buffer 2 has blocks of format 2 at 0x9000; a copy from the one to the other. -/
def groveToCoded : State :=
  { ferrying 0 cmd0 with
    leafs := [], roots := [(1, 0)]
    buffers := [(0x100001, BitVec.ofNat 512 (0x8000 + 2 ^ 64 * 4096 + 2 ^ 104 * 5 + 2 ^ 112)),
                (0x100002, BitVec.ofNat 512 (0x9000 + 2 ^ 64 * 4096 + 2 ^ 104 * 2 + 2 ^ 112))] }
def groveCopy : Cmd := { cmd0 with a := 0x8000, b := 0x9000, shape := BitVec.ofNat 256 (128 + 2 ^ 32) }
-- R284: the stored bytes of a grove lie one behind the other among the stored bytes of the destination
theorem test_grove_spread :
    (spreadOf groveToCoded groveCopy 3, landsAt groveToCoded groveCopy 0, landsAt groveToCoded groveCopy 1, landsAt groveToCoded groveCopy 64) =
      (2, 0x9000, 0x9002, 0x9080) ∧ rawMismatch groveToCoded groveCopy = false := by decide +kernel
end Sys2Proof.Tests
end

section
/-!
SUPPORT, and O53. Every step keeps the stores canonical and the masks legal. One predicate `Sound` says both; for each
operation on the state one lemma `Sound.<operation>` says that it keeps it, so that the proof about an operation names
the operations that it is made of: `h.modCtx.wakeNext` is the soundness of `wakeNext (modCtx s …) …`.
-/
namespace Sys2Proof.Machine
-- One theorem after another: hundreds of them at once, each waiting for the kernel, take a thread's stack each.
set_option Elab.async false

/-! ## The invariant -/

/-- The scratchpads of a core are in canonical form and its mask has 1 to 128 rows and columns (R218). -/
structure CoreStores (spad isp : Mem) (rows cols : Nat) : Prop where
  spad : Memory.wf spad = true
  isp : Memory.wf isp = true
  rows : 1 ≤ rows ∧ rows ≤ 128
  cols : 1 ≤ cols ∧ cols ≤ 128

/-- What O53 says of one core. -/
def CoreSound (c : CoreSt) : Prop := CoreStores c.spad c.isp c.rows c.cols

/-- Device memory is in canonical form and every core is sound. -/
structure Stores (dram : Mem) (cores : SMap CoreSt) : Prop where
  dram : Memory.wf dram = true
  core : ∀ k, CoreSound (mapGet {} cores k)

/-- What O53 says of a state. It reads only the device memory and the cores, so a change of any other field keeps it by
definition. -/
def Sound (s : State) : Prop := Stores s.dram s.cores

theorem CoreSound.intro {c : CoreSt} (hs : Memory.wf c.spad = true) (hi : Memory.wf c.isp = true)
    (hr : 1 ≤ c.rows ∧ c.rows ≤ 128) (hc : 1 ≤ c.cols ∧ c.cols ≤ 128) : CoreSound c := ⟨hs, hi, hr, hc⟩

theorem Sound.intro {s : State} (hd : Memory.wf s.dram = true) (hc : ∀ k, CoreSound (coreOf s k)) :
    Sound s := ⟨hd, hc⟩

theorem Sound.core {s : State} (h : Sound s) (k : Nat) : CoreSound (coreOf s k) := Stores.core h k

theorem sound_iff (s : State) : Sound s ↔ MemoryCanonical s ∧ MasksLegal s := by
  constructor
  · rintro ⟨hd, hc⟩
    exact ⟨⟨hd, fun k => ⟨(hc k).spad, (hc k).isp⟩⟩,
      fun k => ⟨(hc k).rows.1, (hc k).rows.2, (hc k).cols.1, (hc k).cols.2⟩⟩
  · rintro ⟨⟨hd, hm⟩, hl⟩
    refine .intro hd fun k => ?_
    obtain ⟨hr1, hr2, hc1, hc2⟩ := hl k
    exact .intro (hm k).1 (hm k).2 ⟨hr1, hr2⟩ ⟨hc1, hc2⟩

theorem coreSound_default : CoreSound {} := .intro rfl rfl (by decide) (by decide)

/-! ## The invariant of what an operation answers -/

/-- The value of an `Except`, if it is no error, meets a predicate. -/
inductive OkWith {ε α : Type} (p : α → Prop) : Except ε α → Prop
  | ok {a : α} (h : p a) : OkWith p (.ok a)
  | error {e : ε} : OkWith p (.error e)

/-- The value of an `Except`, or what its error carries, meets the predicate for it. -/
def ResultWith {ε α : Type} (q : ε → Prop) (p : α → Prop) : Except ε α → Prop
  | .ok a => p a
  | .error e => q e

/-- The next state of an outcome is sound. -/
def NextSound : Host.Outcome State Fault Refusal → Prop
  | .next t => Sound t
  | _ => True

/-- The state that a waiting slot's check answers is sound. -/
def PreSound : Pre → Prop
  | .wait t => Sound t
  | _ => True

section
variable {ε α β : Type} {p : α → Prop} {q : ε → Prop} {r : Except ε α}

theorem OkWith.pair {t : State} {b : β} (h : Sound t) :
    OkWith (fun r => Sound r.1) (.ok (t, b) : Except ε (State × β)) :=
  .ok h

theorem OkWith.of_ok {a : α} (h : OkWith p r) (e : r = .ok a) : p a := by
  cases h with
  | ok h => cases e; exact h
  | error => cases e

theorem OkWith.of_ok_pair {r : Except ε (State × β)} {t : State} {b : β} (h : OkWith (fun x => Sound x.1) r)
    (e : r = .ok (t, b)) : Sound t := h.of_ok e

theorem OkWith.map {p : β → Prop} {q : α → Prop} {f : α → β} (h : OkWith q r) (hf : ∀ a, q a → p (f a)) :
    OkWith p (r.map f) := by
  cases h with
  | ok h => exact .ok (hf _ h)
  | error => exact .error

theorem ResultWith.of_ok {a : α} (h : ResultWith q p r) (e : r = .ok a) : p a := by rw [e] at h; exact h

theorem ResultWith.of_error {x : ε} (h : ResultWith q p r) (e : r = .error x) : q x := by rw [e] at h; exact h

theorem PreSound.of_wait {x : Pre} {t : State} (h : PreSound x) (e : x = .wait t) : Sound t := by rw [e] at h; exact h

theorem PreSound.ite {c : Prop} [Decidable c] {x y : Pre} (hx : PreSound x) (hy : PreSound y) :
    PreSound (if c then x else y) := by
  split
  · exact hx
  · exact hy

theorem PreSound.andThen {x y : Pre} (hx : PreSound x) (hy : PreSound y) : PreSound (x.andThen y) := by
  cases x with
  | ok => exact hy
  | wait t => exact hx
  | fault => trivial
  | level => trivial

end

/-! ## Cores -/

section
variable {c d : CoreSt}

theorem CoreSound.ite {p : Prop} [Decidable p] (hc : CoreSound c) (hd : CoreSound d) :
    CoreSound (if p then c else d) := by
  split
  · exact hc
  · exact hd

theorem CoreSound.foldl {β : Type} {f : CoreSt → β → CoreSt} {xs : List β} (h : CoreSound c)
    (hf : ∀ c x, CoreSound c → CoreSound (f c x)) : CoreSound (xs.foldl f c) :=
  List.foldlRecOn xs f h fun c hc x _ => hf c x hc

variable (h : CoreSound c)
include h

/-- A change of a core outside its scratchpads and its mask. -/
protected theorem CoreSound.same {ctxs' issuer' last' pinned' relock' leftAt' cyc' credit' levels' dropAt' pend'
    accs' resv' acc' wrap' beats' tiles' ferried' groves' jobs' sigs' ispOld' poison' trip' stretched' drops' peak'
    debug'} :
    CoreSound ⟨ctxs', issuer', last', pinned', relock', leftAt', cyc', credit', levels', dropAt', pend', accs',
      resv', acc', wrap', c.rows, c.cols, beats', tiles', ferried', groves', jobs', sigs', c.spad, c.isp, ispOld',
      poison', trip', stretched', drops', peak', debug'⟩ := h

protected theorem CoreSound.putCtx {x t} : CoreSound (putCtx c x t) := .same h
protected theorem CoreSound.setTile {n v} : CoreSound (setTile c n v) := .same h
protected theorem CoreSound.setGrove {n v} : CoreSound (setGrove c n v) := .same h
protected theorem CoreSound.setSig {n v} : CoreSound (setSig c n v) := .same h

protected theorem CoreSound.clearSpad {lo n ps} :
    CoreSound { c with spad := mapClearRange c.spad lo n, poison := ps } :=
  ⟨mapWf_mapClearRange 0 c.spad lo n h.spad, h.isp, h.rows, h.cols⟩

protected theorem CoreSound.setAccRow {i cells} : CoreSound (setAccRow c i cells) := .same h

protected theorem CoreSound.overRows {f cols is} : CoreSound (overRows f cols is c) := by
  induction is generalizing c with
  | nil => exact h
  | cons i is ih => exact ih h.setAccRow

protected theorem CoreSound.beatPush {fmt aty bty diag a b} : CoreSound (beatPush c fmt aty bty diag a b) := h.overRows

protected theorem CoreSound.beatMacc {fmt k t} : CoreSound (beatMacc c fmt k t) := .ite h.overRows h

protected theorem CoreSound.beatClear : CoreSound (beatClear c) := .same h
protected theorem CoreSound.redrain {cyc b seq k wraps bad} : CoreSound (redrain cyc c b seq k wraps bad) := .same h

protected theorem CoreSound.beatAfter {cyc b} : CoreSound (beatAfter cyc c b) := by
  unfold beatAfter
  split
  · exact h.overRows
  · exact h.redrain
  · exact h.overRows

protected theorem CoreSound.clearArray : CoreSound (clearArray c) := by
  refine .foldl (.intro h.spad h.isp ⟨?_, ?_⟩ ⟨?_, ?_⟩) fun _ _ h => h.beatAfter
  all_goals dsimp only; omega

protected theorem CoreSound.spoilCell {n} : CoreSound (spoilCell c n) := .same h
protected theorem CoreSound.noteBeat {b} : CoreSound (noteBeat b c) := .same h

protected theorem CoreSound.endRelock {u} : CoreSound (endRelock u c) := by
  unfold endRelock
  split
  · exact h
  · exact .ite (.same h) h

protected theorem CoreSound.spoilPlace {p} : CoreSound (spoilPlace c p) := by
  unfold spoilPlace
  split
  · exact h.spoilCell
  · exact h.putCtx
  · exact h.putCtx
  · exact .same h

protected theorem CoreSound.pruneOld : CoreSound (pruneOld c) := .same h

end

/-! ## The states: the changes that the operations are made of -/

section
variable {s t : State}

theorem Sound.ite {p : Prop} [Decidable p] (hs : Sound s) (ht : Sound t) : Sound (if p then s else t) := by
  split
  · exact hs
  · exact ht

theorem Sound.foldl {β : Type} {f : State → β → State} {xs : List β} (h : Sound s)
    (hf : ∀ s x, Sound s → Sound (f s x)) : Sound (xs.foldl f s) :=
  List.foldlRecOn xs f h fun s hs x _ => hf s x hs

/-- A core after a change of every core is the default one, or the change of the core that stood there. -/
theorem mapGet_map {α : Type} (d : α) (m : SMap α) (g : Nat × α → α) (n : Nat) :
    mapGet d (m.map fun e => (e.1, g e)) n = d ∨ mapGet d (m.map fun e => (e.1, g e)) n = g (n, mapGet d m n) := by
  induction m with
  | nil => exact .inl rfl
  | cons e m ih =>
    obtain ⟨k, v⟩ := e
    simp only [List.map_cons, mapGet]
    by_cases hk : k = n
    · subst hk; simp
    · simpa [hk] using ih

variable (h : Sound s)
include h

/-- A change of the state outside its cores and its device memory. -/
protected theorem Sound.same {gauge' agenda' inputs' tape' draws' outbox' seq' cur' pipes' confs' ferries' streams'
    rings' gangs' gangKey' done' cards' lastAdmitted' reserving' reserveOpen' reserveSamples' aging' ckpts'
    badSectors' corrected' roots' tables' leafs' buffers' newEnc' kv' blocks' pools' migrations' windows' ready'
    unsync' owner' stage' merr' chip' temp' vmin' proc' hot' crit' mhz' links' routes' hostLinks' quarantine'
    refGauge' bootFails' boot' bootHeld' image' identity' standby'} :
    Sound ⟨gauge', agenda', inputs', tape', draws', outbox', seq', cur', s.cores, pipes', confs', ferries',
      streams', rings', gangs', gangKey', done', cards', lastAdmitted', reserving', reserveOpen', reserveSamples',
      aging', ckpts', s.dram, badSectors', corrected', roots', tables', leafs', buffers', newEnc', kv', blocks',
      pools', migrations', windows', ready', unsync', owner', stage', merr', chip', temp', vmin', proc', hot',
      crit', mhz', links', routes', hostLinks', quarantine', refGauge', bootFails', boot', bootHeld', image',
      identity', standby'⟩ := h

/-- A change of device memory to a canonical one. -/
protected theorem Sound.withDram (hd : Memory.wf t.dram = true) (hc : t.cores = s.cores := by rfl) : Sound t :=
  ⟨hd, hc ▸ Stores.core h⟩

/-- A change of every core. -/
protected theorem Sound.mapCores {g : Nat × CoreSt → CoreSt} (hc : t.cores = s.cores.map fun e => (e.1, g e))
    (hg : ∀ e, CoreSound e.2 → CoreSound (g e)) (hd : t.dram = s.dram := by rfl) : Sound t := by
  refine .intro (hd ▸ h.dram) fun k => ?_
  rw [coreOf, hc]
  rcases mapGet_map {} s.cores g k with e | e <;> rw [e]
  · exact coreSound_default
  · exact hg _ (h.core k)

protected theorem Sound.setCore {k : Nat} {c : CoreSt} (hc : CoreSound c) : Sound (setCore s k c) := by
  refine .intro h.dram fun j => ?_
  rw [coreOf_setCore]
  split
  · exact hc
  · exact h.core j

protected theorem Sound.modCore {k : Nat} {f : CoreSt → CoreSt}
    (hf : CoreSound (coreOf s k) → CoreSound (f (coreOf s k))) :
    Sound (modCore s k f) := h.setCore (hf (h.core k))

/-- A change of a core outside its scratchpads and its mask. -/
protected theorem Sound.modCore_same {k : Nat} {f : CoreSt → CoreSt}
    (hs : (f (coreOf s k)).spad = (coreOf s k).spad := by rfl)
    (hi : (f (coreOf s k)).isp = (coreOf s k).isp := by rfl) (hr : (f (coreOf s k)).rows = (coreOf s k).rows := by rfl)
    (hc : (f (coreOf s k)).cols = (coreOf s k).cols := by rfl) : Sound (modCore s k f) :=
  h.modCore fun ⟨cs, ci, cr, cc⟩ => ⟨hs ▸ cs, hi ▸ ci, hr ▸ cr, hc ▸ cc⟩

protected theorem Sound.modCurCore {f : CoreSt → CoreSt} (hf : CoreSound (curCore s) → CoreSound (f (curCore s))) :
    Sound (modCurCore s f) := h.modCore hf

protected theorem Sound.modCurCore_same {f : CoreSt → CoreSt} (hs : (f (curCore s)).spad = (curCore s).spad := by rfl)
    (hi : (f (curCore s)).isp = (curCore s).isp := by rfl) (hr : (f (curCore s)).rows = (curCore s).rows := by rfl)
    (hc : (f (curCore s)).cols = (curCore s).cols := by rfl) : Sound (modCurCore s f) := h.modCore_same hs hi hr hc

protected theorem Sound.setCtx {k x c} : Sound (setCtx s k x c) := h.modCore fun c => c.putCtx
protected theorem Sound.modCtx {k x f} : Sound (modCtx s k x f) := h.setCtx
protected theorem Sound.modCurCtx {f} : Sound (modCurCtx s f) := h.modCtx
end

/-! ## The checks that hold no slot back -/

section
variable {s : State}

theorem preSound_targetPre {a fromReg} : PreSound (targetPre s a fromReg) :=
  .ite trivial (.ite trivial (.ite trivial trivial))

theorem preSound_loopPre {n} : PreSound (loopPre s n) := .ite trivial trivial

theorem preSound_addrPre {a n} : PreSound (addrPre s a n) :=
  .ite trivial (.ite trivial (.ite trivial trivial))

theorem preSound_bankPre {a} : PreSound (bankPre s a) := by
  refine .ite trivial ?_
  split
  · trivial
  · trivial

theorem preSound_spadPendingPre {a n} : PreSound (spadPendingPre s a n) := by
  unfold spadPendingPre
  dsimp only
  split
  · trivial
  · trivial

theorem preSound_boundPre {p} : PreSound (boundPre s p) := .ite trivial trivial

theorem preSound_wordPoisonPre {a} : PreSound (wordPoisonPre s a) := .ite trivial trivial

theorem preSound_ctlPre {n v} : PreSound (ctlPre s n v) :=
  .ite trivial (.ite trivial (.ite trivial trivial))

theorem preSound_queuePre {q cap vec} : PreSound (queuePre q cap vec) := .ite trivial trivial

theorem preSound_loadPre {a n q cap vec} : PreSound (loadPre s a n q cap vec) :=
  preSound_addrPre.andThen (preSound_spadPendingPre.andThen (preSound_bankPre.andThen preSound_queuePre))

end

/-! ## The states: the accessors and the slots -/

section
variable {s t : State} (h : Sound s)
include h

protected theorem Sound.setPipe {p x} : Sound (setPipe s p x) := .same h
protected theorem Sound.setConf {c x} : Sound (setConf s c x) := .same h
protected theorem Sound.setFerry {f x} : Sound (setFerry s f x) := .same h
protected theorem Sound.setStream {n x} : Sound (setStream s n x) := .same h
protected theorem Sound.setRing {n x} : Sound (setRing s n x) := .same h
protected theorem Sound.setGang {g x} : Sound (setGang s g x) := .same h

protected theorem Sound.modGang {g f} : Sound (modGang s g f) := by
  unfold modGang
  split
  · exact h.setGang
  · exact h

protected theorem Sound.draw : Sound (draw s).2 := by
  unfold draw
  split <;> exact .same h

protected theorem Sound.push {sl lat eff poison} : Sound (push s sl lat eff poison) := .same h.modCurCore_same
protected theorem Sound.pushS {sl lat d v} : Sound (pushS s sl lat d v) := h.push
protected theorem Sound.pushF {sl lat d v} : Sound (pushF s sl lat d v) := h.push

protected theorem Sound.statAppend {k x kind bundle payload} : Sound (statAppend s k x kind bundle payload) :=
  .ite h h.modCtx

/-- A statistics record that an effect may leave. -/
protected theorem Sound.iteStat {p : Prop} [Decidable p] {k x kind bundle payload} :
    Sound (if p then statAppend s k x kind bundle payload else s) := .ite h.statAppend h

protected theorem Sound.takeFault {k x f} : Sound (takeFault s k x f) := h.modCtx
protected theorem Sound.busySlot {sl} : Sound (busySlot s sl) := h.modCurCtx
protected theorem Sound.quietFault {sl cause d0 d1 d2} : Sound (quietFault s sl cause d0 d1 d2) := .same h.takeFault
protected theorem Sound.slotFault {sl cause d0 d1 d2} : Sound (slotFault s sl cause d0 d1 d2) := h.busySlot.quietFault
protected theorem Sound.levelFault {cause d0 d1 d2} : Sound (levelFault s cause d0 d1 d2) := .same h.takeFault

protected theorem Sound.encodingFault {sl cause w} : Sound (encodingFault s sl cause w) :=
  .quietFault (.ite h.busySlot h)

protected theorem Sound.wakeNext {k x} : Sound (wakeNext s k x) := .same h.modCurCore_same
protected theorem Sound.resumeFault {k x how w} : Sound (resumeFault s k x how w) := h.modCtx.wakeNext
protected theorem Sound.dropRequests {k x sel} : Sound (dropRequests s k x sel) := h.modCore_same

/-- A slot waits here only for the head of the vector queue. -/
protected theorem Sound.sourceCheck {sl i} : PreSound (sourceCheck s sl i) := by
  unfold sourceCheck
  extract_lets codes tap lagOver q
  clear_value lagOver q
  refine PreSound.ite trivial (PreSound.ite (PreSound.ite h ?_) trivial)
  cases q with
  | nil => trivial
  | cons e q =>
    dsimp only
    split
    · exact .ite trivial h
    · exact .ite trivial trivial

protected theorem Sound.popSource {i} : Sound (popSource s i) := .ite h.modCurCtx h

protected theorem Sound.issued : Sound (issued s) := .same h
protected theorem Sound.waits : Sound (waits s) := .same h

protected theorem Sound.slotStep {i sl pre eff} (hp : PreSound (pre s)) (he : Sound (eff s)) :
    Sound (slotStep i sl s pre eff) := by
  have hown : PreSound ((pre s).andThen (sourceCheck s sl i)) := hp.andThen h.sourceCheck
  unfold slotStep
  split
  · exact h.encodingFault
  split
  · exact h.encodingFault
  split
  · exact h.encodingFault
  split
  · exact h.issued
  split
  · exact h.slotFault
  dsimp only
  split
  · exact h.slotFault
  split
  · exact .ite h.encodingFault h.slotFault
  · exact h.levelFault
  · exact (hown.of_wait ‹_›).waits
  · exact he.busySlot.popSource.issued

protected theorem Sound.runSlot {i sl pre eff} (hp : PreSound (pre s)) (he : Sound (eff s)) :
    NextSound (runSlot i sl s pre eff) := h.slotStep hp he

protected theorem Sound.fetchWord {k x a} : Sound (fetchWord s k x a).2 := by
  unfold fetchWord
  split
  · exact h
  · exact h.draw

protected theorem Sound.fetchSlots {k x sls a} : Sound (fetchSlots s k x sls a).2 := by
  induction sls generalizing s a with
  | nil => exact h
  | cons sl sls ih => exact ih h.fetchWord

protected theorem Sound.dirtyDetail {k x} : Sound (dirtyDetail s k x).2.2 := by
  unfold dirtyDetail
  dsimp only
  split
  · exact h.draw
  · exact h
end

/-! ## The states: the issuing context, wake-ups and landings -/

section
variable {s t : State} (h : Sound s)
include h

protected theorem Sound.handOver {k y from'} : Sound (handOver s k y from') := by
  unfold handOver
  dsimp only
  split <;> exact h.modCore_same

protected theorem Sound.switchPoint {k x w} : Sound (switchPoint s k x w) := by
  unfold switchPoint
  dsimp only
  split
  · exact h.modCtx.modCore_same
  · exact h.modCtx.handOver

protected theorem Sound.chooseIdle {k} : Sound (chooseIdle s k) := by
  unfold chooseIdle
  dsimp only
  split
  · exact h
  · split
    · exact h
    · exact h.handOver

protected theorem Sound.dropIssuer {k x} : Sound (dropIssuer s k x) := by
  refine .modCore h fun c => ?_
  split
  · exact .same c
  · exact c

protected theorem Sound.retireCtx {k x} : Sound (retireCtx s k x) := .modCore h fun c => .same c.putCtx

protected theorem Sound.wakePipe {p} : Sound (wakePipe s p) := by
  unfold wakePipe
  dsimp only
  refine .foldl h fun _ _ h => ?_
  split
  · split
    · exact h.modCtx
    · exact h
  · split
    · exact h
    · exact h.modCtx
  · exact h

protected theorem Sound.wakeWords {target} : Sound (wakeWords s target) := by
  unfold wakeWords
  dsimp only
  refine .foldl h fun _ _ h => ?_
  split
  · split
    · exact h.modCtx
    · exact h
  · exact h

protected theorem Sound.countArrival {k cf} : Sound (countArrival s k cf) :=
  .ite (.foldl h.setConf fun _ _ h => .ite h.modCtx h) h.setConf

protected theorem Sound.spadWrite {target off bs} : Sound (spadWrite s target off bs) := by
  refine .wakeWords (.modCore h fun c => .intro ?_ c.isp c.rows c.cols)
  exact mapWf_foldl_mapSet 0 Prod.fst Prod.snd _ _ c.spad

protected theorem Sound.landPlace {k x p poison f} : Sound (landPlace s k x p poison f) :=
  .ite h.modCore_same h.modCore_same.modCtx

protected theorem Sound.pipePut {k q v} : Sound (pipePut s k q v) := by
  unfold pipePut
  exact .wakePipe h.setPipe

protected theorem Sound.landTile {k t off bs poison} : Sound (landTile s k t off bs poison) := by
  refine .modCore h fun c => ?_
  split
  · exact .same c
  · exact .same c.setTile

protected theorem Sound.clearTilePoison {k t off n} : Sound (clearTilePoison s k t off n) := h.modCore_same

protected theorem Sound.tieTile {k t off n} : Sound (tieTile s k t off n) := .ite h (.modCore h.draw fun c => c.setTile)

protected theorem Sound.landEff {k p} : Sound (landEff s k p) := by
  unfold landEff
  cases p.eff with
  | sreg => exact .ite h h.landPlace
  | flag | vreg | mask | basinAdd => exact h.landPlace
  | fmt | cb | ctl | search | lqs | lqv | wake => exact h.modCtx
  | basinClear => exact .modCore_same h.landPlace
  | sigFeed =>
    refine .modCore h fun c => ?_
    split
    · exact .ite (.same c.setSig) c
    · exact c
  | sigClear =>
    refine .modCore h fun c => ?_
    split
    · exact .same c.setSig
    · exact c
  | tile => exact h.landTile.tieTile
  | drain =>
    refine .ite (.iteStat ?_) (.iteStat (.iteStat (.iteStat (.tieTile (.ite ?_ ?_)))))
    · exact .modCore h.landTile fun c => c.setTile
    · exact .modCore h fun c => c.setTile
    · exact .clearTilePoison (.modCore h fun c => c.setTile)
  | seed | grove => exact .modCore h fun c => c.setGrove
  | pipe => exact h.pipePut
  | arrive => exact h.countArrival

protected theorem Sound.landAll {k} : Sound (landAll s k) :=
  .foldl (.foldl h.modCore_same fun _ _ h => h.landEff) fun _ _ h => h.landEff

protected theorem Sound.accResult {k a lat e poison} : Sound (accResult s k a lat e poison) := h.modCore_same

protected theorem Sound.performWrite {k a} : Sound (performWrite s k a) := by
  unfold performWrite
  dsimp only
  split
  · exact h.spadWrite
  · split
    · exact h.accResult
    · exact h.spadWrite.accResult
  · exact h

protected theorem Sound.performRead {k a} : Sound (performRead s k a) := by
  have hd : ∀ {p : Prop} [Decidable p], Sound (if p then Machine.draw s else (0, s)).2 := by
    intro p _
    split
    · exact h.draw
    · exact h
  unfold performRead
  split
  · exact hd.accResult
  · exact hd.accResult
  · exact h.accResult
  · exact h

protected theorem Sound.performSel {k sel f} (hf : ∀ t a, Sound t → Sound (f t k a)) :
    Sound (performSel s k sel f) := by
  refine Sound.foldl (h.modCore fun c => CoreSound.foldl c fun c a hc => ?_) hf
  split
  · exact hc.putCtx
  · exact hc

protected theorem Sound.peerWritesNow : Sound (peerWritesNow s) :=
  .foldl h fun _ _ h => h.performSel fun _ _ h => h.performWrite

protected theorem Sound.coreWritesNow {k} : Sound (coreWritesNow s k) := h.performSel fun _ _ h => h.performWrite
protected theorem Sound.readsNow : Sound (readsNow s) := .foldl h fun _ _ h => h.performSel fun _ _ h => h.performRead
end

/-! ## The states: slots with a check of their own, branches -/

section
variable {s t : State} (h : Sound s)
include h

protected theorem Sound.lqsPre : PreSound (lqsPre s) := by
  unfold lqsPre
  dsimp only
  split
  · trivial
  · split
    · exact .ite trivial h
    · exact .ite trivial trivial

protected theorem Sound.takeBranch {a pops} : Sound (takeBranch s a pops) := h.modCurCtx
protected theorem Sound.openLoop {n off} : Sound (openLoop s n off) := h.modCurCtx
protected theorem Sound.vres {i sl lat d f} : NextSound (vres i sl lat d f s) := h.runSlot trivial h.push
end

/-! ## The states: device memory -/

section
variable {s t : State} (h : Sound s)
include h

protected theorem Sound.setHeader {asid bid w} : Sound (setHeader s asid bid w) := .same h

protected theorem Sound.tlbPut {f asid va w} : Sound (tlbPut s f asid va w) := by
  unfold tlbPut
  dsimp only
  split
  · split
    · exact h
    · exact h.setFerry
  · exact h

protected theorem Sound.tlbDrop {asid hit} : Sound (tlbDrop s asid hit) := .same h
protected theorem Sound.setBlock {b x} : Sound (setBlock s b x) := .same h

protected theorem Sound.modBlock {b f} : Sound (modBlock s b f) := by
  unfold modBlock
  split
  · exact h.setBlock
  · exact h

protected theorem Sound.putPhys {ws} : Sound (putPhys s ws) :=
  h.withDram (mapWf_foldl_mapSet 0 Prod.fst Prod.snd ws s.dram h.dram)

protected theorem Sound.writePhys {whole ws} : OkWith Sound (writePhys s whole ws) := by
  unfold writePhys
  split
  · exact .error
  · exact .ok (.same h.putPhys)

protected theorem Sound.copySpan {src dst n} : Sound (copySpan s src dst n) :=
  h.withDram (mapWf_foldl_mapSet 0 _ Prod.snd _ _ (mapWf_mapClearRange 0 s.dram dst n h.dram))

protected theorem Sound.auxWrite {asid va bs} : OkWith Sound (auxWrite s asid va bs) := by
  unfold auxWrite
  split
  · exact h.writePhys
  · exact .error

protected theorem Sound.writeStored {xl all whole va bs} : OkWith Sound (writeStored s xl all whole va bs) := by
  unfold writeStored
  exact h.writePhys

protected theorem Sound.writeLine {asid xl w va merge line} : OkWith Sound (writeLine s asid xl w va merge line) := by
  unfold writeLine
  dsimp only
  split
  · exact .error
  · split
    · exact .error
    · split
      · exact .error
      · exact (h.auxWrite.of_ok ‹_›).writeStored

protected theorem Sound.writeBlock {asid xl w fmt n theta bs} :
    OkWith (fun r => Sound r.1) (writeBlock s asid xl w fmt n theta bs) := by
  unfold writeBlock
  dsimp only
  split
  · exact .error
  · split
    · exact .error
    · exact .ok ((h.auxWrite.of_ok ‹_›).writeStored.of_ok ‹_›)

protected theorem Sound.writeNew {key fmt n theta bs} : Sound (writeNew s key fmt n theta bs).1 := .same h

protected theorem Sound.writeBook {asid xl w whole va upd} : OkWith Sound (writeBook s asid xl w whole va upd) := by
  unfold writeBook
  dsimp only
  split
  · exact .error
  · split
    · exact .error
    · exact h.writeStored

protected theorem Sound.writeCoded {asid bid xl w theta whole va upd} :
    OkWith (fun r => Sound r.1) (writeCoded s asid bid xl w theta whole va upd) := by
  unfold writeCoded
  dsimp only
  split
  · exact .error
  · split
    · exact .map h.writeBook fun _ h => h
    · split
      · exact .map h.writePhys fun _ h => h
      · split
        · exact .error
        · split
          · exact .map h.writeLine fun _ h => h
          · split
            · exact .ok h.writeNew
            · exact h.writeBlock

protected theorem Sound.writeRaw {asid bid xl w whole va upd} :
    OkWith Sound (writeRaw s asid bid xl w whole va upd) := by
  unfold writeRaw
  dsimp only
  split
  · exact .error
  · split
    · exact .ok (.same h)
    · split
      · exact .error
      · exact h.writePhys

protected theorem Sound.dropFingerprint {xl va} : Sound (dropFingerprint s xl va) := .ite (.same h) h

protected theorem Sound.writeUnit {asid xl raw theta whole va upd} :
    OkWith (fun r => Sound r.1) (writeUnit s asid xl raw theta whole va upd) := by
  unfold writeUnit
  split
  · split
    · exact .map h.writePhys fun _ h => h
    · split
      · exact .map h.writeRaw fun _ h => h
      · exact h.writeCoded
  · exact .map h.dropFingerprint.writePhys fun _ h => h

protected theorem Sound.writeUnits {asid xl whole ws us} : OkWith Sound (writeUnits asid xl whole ws us s) := by
  induction us generalizing s with
  | nil => exact .ok h
  | cons u us ih =>
    unfold writeUnits
    split
    · exact ih (h.writeUnit.of_ok ‹_›)
    · exact .error

protected theorem Sound.dvWrite {asid a bs} (e : dvWrite s asid a bs = some t) : Sound t := by
  unfold dvWrite at e
  split at e
  · split at e
    · cases e
    · split at e
      · cases e
      · dsimp only at e
        split at e
        · cases e
          exact h.writeUnits.of_ok ‹_›
        · cases e
  · cases e

protected theorem Sound.dvPut {asid a bs} : Sound (dvPut s asid a bs) := by
  unfold dvPut
  cases e : dvWrite s asid a bs with
  | none => exact h
  | some t => exact h.dvWrite e
end

/-! ## The states: event rings and records -/

section
variable {s t : State} (h : Sound s)
include h

protected theorem Sound.ringSignal {n} : Sound (ringSignal s n) := .same h.setRing

protected theorem Sound.ringCount {n} : Sound (ringCount s n) := .ite h.ringSignal h

protected theorem Sound.ringPut {n c} : Sound (ringPut s n c) := by
  refine .ringCount (.setRing (h.withDram ?_))
  exact mapWf_writeBytes s.dram _ _ h.dram

protected theorem Sound.ringWrite {n c} : Sound (ringWrite s n c) := .ite h.setRing h.ringPut

protected theorem Sound.ringDrain {k n} : Sound (ringDrain k n s) := by
  induction k generalizing s with
  | zero => exact h
  | succ k ih =>
    unfold ringDrain
    dsimp only
    split
    · exact h
    · split
      · exact h
      · exact ih h.setRing.ringPut

protected theorem Sound.complete {ring c} : Sound (complete s ring c) := h.ringWrite

protected theorem Sound.occWrite {g counts} : Sound (occWrite s g counts) := .ite h (.foldl h fun _ _ h => h.dvPut)
end

/-! ## The states: ferries and their commands -/

section
variable {s t : State} (h : Sound s)
include h

protected theorem Sound.modFerry {f g} : Sound (modFerry s f g) := h.setFerry
protected theorem Sound.putCmd {f c} : Sound (putCmd s f c) := h.modFerry

protected theorem Sound.modOccF {c f} : Sound (modOccF s c f) := .ite h.modCtx h.modGang

protected theorem Sound.deferCause {k x d} : Sound (deferCause s k x d) := h.modCtx

protected theorem Sound.deferFailure {f c status} : Sound (deferFailure s f c status) :=
  .ite h (.ite h.deferCause (.ite h.deferCause h))

protected theorem Sound.endFill {ok c e} : Sound (endFill ok c s e) := .ite h (.modCore h fun c => c.setTile)

protected theorem Sound.endEntry {c ok} : Sound (endEntry s c ok) := by
  unfold endEntry
  split
  · exact h
  · split
    · exact h
    · exact h.modCtx

protected theorem Sound.takeEddy {f n c} : Sound (takeEddy s f n c) := by
  unfold takeEddy
  split
  · split
    · exact h.putCmd.modOccF
    · exact .same h.putCmd.modOccF
  · exact h.putCmd
  · exact h

protected theorem Sound.fillEddies {f} : Sound (fillEddies s f) := by
  refine .foldl h fun _ _ h => ?_
  split
  · exact h.takeEddy
  · exact h

/-- A count of its gang or context that a command may leave. -/
protected theorem Sound.iteOccF {p : Prop} [Decidable p] {c f} : Sound (if p then modOccF s c f else s) :=
  .ite h.modOccF h

protected theorem Sound.finishCmd {f id status} : Sound (finishCmd s f id status) := by
  unfold finishCmd
  split
  · exact h
  · exact .deferFailure (.iteOccF (.endEntry (.foldl h.modFerry.fillEddies fun _ _ h => h.endFill)))

protected theorem Sound.cancelCmd {f c} : Sound (cancelCmd s f c) := .ite h.modOccF.modOccF.putCmd h.modOccF.finishCmd

protected theorem Sound.cancelOne {f c} : Sound (cancelOne s f c) := by
  unfold cancelOne
  split
  · exact h.putCmd
  · split
    · exact h.cancelCmd
    · exact h
  · exact h

protected theorem Sound.cancelWhere {sel} : Sound (cancelWhere s sel) :=
  .foldl h fun _ _ h => .foldl h fun _ _ h => .ite h.cancelOne h

protected theorem Sound.startFills {ts} : Sound (startFills s ts) := .foldl h fun _ _ h => .modCore h fun c => c.setTile

protected theorem Sound.enterCmd {f c} : Sound (enterCmd s f c) := by
  have he : ∀ {p : Prop} [Decidable p] {c' o ts u}, Sound (if p
      then modFerry (startFills (modOccF (putCmd { s with seq := s.seq + 1 } f c') c o) ts) f u
      else startFills (modOccF (putCmd { s with seq := s.seq + 1 } f c') c o) ts) :=
    .ite (.modFerry (.startFills (.modOccF (.putCmd (.same h))))) (.startFills (.modOccF (.putCmd (.same h))))
  refine .ite he.cancelCmd (.ite (.ite he.finishCmd ?_) he)
  exact he.modCtx.putCmd

protected theorem Sound.enterDue {sel} : Sound (enterDue s sel) :=
  .foldl h fun _ _ h => .foldl h fun _ _ h => .ite h.enterCmd h

protected theorem Sound.enterPinned : Sound (enterPinned s) := h.enterDue
protected theorem Sound.enterElastic {k} : Sound (enterElastic s k) := h.enterDue
protected theorem Sound.cmdPre {sl addrs} : PreSound (cmdPre s sl addrs) := .ite h (.ite trivial (.ite trivial trivial))
protected theorem Sound.giveCmd {sl kind t a b e x} : Sound (giveCmd s sl kind t a b e x) := .same h.modFerry.modCurCtx
end

/-! ## The states: scratchpad accesses -/

section
variable {s t : State} (h : Sound s)
include h

protected theorem Sound.reserve {x holder} : Sound (reserve s x holder) := by
  unfold reserve
  split
  · exact h.modCore_same
  · exact h.modCore_same
  · exact h

protected theorem Sound.grantStep {core first a} : Sound (grantStep s core first a) := h.modCore_same.reserve

protected theorem Sound.grantEarlier {x} : Sound (grantEarlier s x) := by
  unfold grantEarlier
  split
  · exact .foldl h fun _ _ h => h.grantStep
  · exact h

protected theorem Sound.putAccess {sl a kind} : Sound (putAccess s sl a kind) :=
  .same h.reserve.grantEarlier.modCurCore_same

protected theorem Sound.releasePre {sl a kind} : PreSound (releasePre s sl a kind) := by
  unfold releasePre
  split
  · exact .ite trivial h
  · exact .same h.dropRequests.modCurCore_same

protected theorem Sound.putReleased {sl a kind} : Sound (putReleased s sl a kind) :=
  .same h.dropRequests.modCurCore_same.reserve

protected theorem Sound.readWritePre {sl a n kind} : PreSound (readWritePre s sl a n kind) :=
  .ite (.andThen h.releasePre preSound_spadPendingPre) (.andThen preSound_spadPendingPre preSound_bankPre)

protected theorem Sound.putReadWrite {sl a kind} : Sound (putReadWrite s sl a kind) := .ite h.putReleased h.putAccess

protected theorem Sound.execPeerGrant {core access} : NextSound (execPeerGrant core access s) := by
  unfold execPeerGrant
  dsimp only
  split
  · exact h
  · split
    · exact h.draw
    · split
      · exact h.draw.modCore_same
      · split
        · exact h.draw
        · exact h.draw.grantStep
end

/-! ## The states: what a command writes -/

section
variable {s t : State} (h : Sound s)
include h

protected theorem Sound.spadPut {k ws} : Sound (spadPut s k ws) := by
  refine .wakeWords (.modCore h fun c => .intro ?_ c.isp c.rows c.cols)
  exact mapWf_foldl_mapSet 0 Prod.fst Prod.snd _ _ c.spad

protected theorem Sound.tilePut {k t ws} : Sound (tilePut s k t ws) := .modCore h fun c => .same c.setTile

protected theorem Sound.ispPut {k ws} : Sound (ispPut s k ws) := by
  refine .modCore h fun c => .intro c.spad ?_ c.rows c.cols
  exact mapWf_foldl_mapSet 0 Prod.fst Prod.snd _ _ c.isp

protected theorem Sound.storeUnit {c raw theta xl whole a upd} :
    OkWith (fun r => Sound r.1) (storeUnit s c raw theta xl whole a upd) := by
  unfold storeUnit
  split
  · exact .error
  · exact .pair h.spadPut
  · exact .pair h.tilePut
  · split
    · exact .error
    · exact .pair h.ispPut
  · split
    · exact .error
    · exact h.writeUnit

protected theorem Sound.storeSpan {c xl whole ws us} : OkWith Sound (storeSpan c xl whole ws us s) := by
  induction us generalizing s with
  | nil => exact .ok h
  | cons u us ih =>
    unfold storeSpan
    split
    · exact ih (h.storeUnit.of_ok ‹_›)
    · exact .error

protected theorem Sound.putSpan {c xl a bs} : OkWith Sound (putSpan s c xl a bs) := h.storeSpan

protected theorem Sound.smallWrite {f c a bs m} (e : smallWrite s f c a bs = (m, .ok t)) : Sound t := by
  unfold smallWrite at e
  split at e
  · have e2 := congrArg Prod.snd e
    dsimp only at e2
    split at e2
    · cases e2
      exact h.putSpan.of_ok ‹_›
    · cases e2
  · cases e
  · cases e
  · cases e

protected theorem Sound.parkCmd {f c addr cow} : Sound (parkCmd s f c addr cow) := .fillEddies (.putCmd (.same h))
protected theorem Sound.holdCmd {f c} : Sound (holdCmd s f c) := .fillEddies (.putCmd (.same h))
protected theorem Sound.releaseHeld : Sound (releaseHeld s) := .foldl (.same h) fun _ _ h => h.fillEddies

protected theorem Sound.cmdStat {c kind payload} : Sound (cmdStat s c kind payload) := .ite h.statAppend h

protected theorem Sound.poisonStat {c sector} : Sound (poisonStat s c sector) := by
  unfold poisonStat
  split
  · exact h.cmdStat
  · exact h

protected theorem Sound.endWith {f c res status} : Sound (endWith s f c res status) := by
  unfold endWith
  dsimp only
  split
  · exact (h.smallWrite ‹_›).putCmd.finishCmd
  · exact h.parkCmd
  · exact h.holdCmd
  · exact h.poisonStat.putCmd.finishCmd

protected theorem Sound.failCmd {f c status sector} : Sound (failCmd s f c status sector) := by
  unfold failCmd
  split
  · exact h.poisonStat.endWith
  · exact h.poisonStat.putCmd.finishCmd
  · exact h.poisonStat.putCmd.finishCmd

protected theorem Sound.settle {α : Type} {f c} {r : Pages × Try α} {k : α → State} (hk : ∀ v, Sound (k v)) :
    Sound (settle s f c r k) := by
  unfold settle
  split
  · exact hk _
  · exact h.parkCmd
  · exact h.holdCmd
  · exact h.failCmd

protected theorem Sound.usePorts {f us} : Sound (usePorts s f us) := .ite h h.modFerry

protected theorem Sound.writeRuns {c rs covers us} :
    ResultWith (fun x => Sound x.2.2) Sound (writeRuns c rs covers us s) := by
  induction us generalizing s with
  | nil => exact h
  | cons u us ih =>
    unfold writeRuns
    dsimp only
    split
    · exact h
    · have ht := h.storeUnit.of_ok_pair ‹_›
      refine ih ?_
      split
      · split
        · exact ht.cmdStat
        · exact ht
      · exact ht

protected theorem Sound.writeChunk {c us} : ResultWith (fun x => Sound x.2.2) Sound (writeChunk c us s) := h.writeRuns
protected theorem Sound.countBytes {c n} : Sound (countBytes s c n) := h.modOccF

protected theorem Sound.poolPut {c asid desc xl d p failed} : OkWith Sound (poolPut s c asid desc xl d p failed) :=
  .map h.putSpan fun _ h => h

protected theorem Sound.giveStreams {f} : Sound (giveStreams s f) := by
  refine .foldl h fun _ _ h => ?_
  split
  · exact h
  · exact h.putCmd

protected theorem Sound.stampLost {f c} : Sound (stampLost s f c) := .same h.finishCmd.modFerry

protected theorem Sound.issueFails {f c} : Sound (issueFails s f c) := by
  unfold issueFails
  split
  · exact h.stampLost
  · split
    · exact h.putCmd
    · exact h.finishCmd
  · split
    · exact h.putCmd
    · exact h.finishCmd
  · exact h.finishCmd

protected theorem Sound.issueOne {f c} : Sound (issueOne s f c) :=
  .ite h.modOccF.issueFails (.putCmd (.startFills (.foldl h.modOccF fun _ _ h => h.endFill)))

protected theorem Sound.execFerryIssue {ferry} : NextSound (execFerryIssue ferry s) := by
  refine Sound.giveStreams ?_
  split
  · exact h.issueOne
  · exact h
end

/-! ## The states: what a command does when it performs -/

section
variable {s t : State} (h : Sound s)
include h

protected theorem Sound.runShape {f c} : Sound (runShape s f c) := h.settle fun _ => .ite h.modCtx.finishCmd h.finishCmd
protected theorem Sound.runCard {f c} : Sound (runCard s f c) := h.settle fun _ => .finishCmd (.same h)

protected theorem Sound.withPages {f c r k} (hk : ∀ m, Sound (k m)) : Sound (withPages s f c r k) :=
  h.settle fun _ => hk _

protected theorem Sound.runAtom {f c} : Sound (runAtom s f c) := by
  refine .ite h.finishCmd (.ite h.failCmd (h.withPages fun m => h.settle fun bs => ?_))
  dsimp only
  split
  · exact h.failCmd
  · have ht := h.putSpan.of_ok ‹_›
    refine Sound.finishCmd ?_
    split
    · exact ht.modCtx
    · exact ht

protected theorem Sound.bindPage {asid page new} : Sound (bindPage s asid page new) :=
  .ite (.modBlock (.same (.ite h.modBlock h))) (.same (.ite h.modBlock h))

protected theorem Sound.runKvmap {f c} : Sound (runKvmap s f c) := by
  unfold runKvmap
  split
  · split
    · exact .ite h h.finishCmd
    · exact .ite h.finishCmd (.ite h.bindPage.finishCmd h.bindPage.putCmd)
  · exact h.finishCmd

protected theorem Sound.runAlloc {f c} : Sound (runAlloc s f c) := by
  unfold runAlloc
  dsimp only
  refine h.settle fun _ => ?_
  split
  · split
    · exact h.failCmd
    · refine h.withPages fun _ => ?_
      refine h.settle fun _ => ?_
      split
      · exact h.failCmd
      · refine h.withPages fun _ => ?_
        split
        · exact h.failCmd
        · split <;> exact (h.poolPut.of_ok ‹_›).endWith
  · exact h.failCmd

protected theorem Sound.runFree {f c} : Sound (runFree s f c) := by
  unfold runFree
  dsimp only
  refine h.settle fun _ => ?_
  split
  · split
    · exact h.failCmd
    · split
      · exact h.failCmd
      · refine h.withPages fun _ => ?_
        refine h.settle fun _ => ?_
        split
        · exact h.failCmd
        · split
          · exact h.failCmd
          · refine h.withPages fun _ => ?_
            split
            · exact h.failCmd
            · exact (h.poolPut.of_ok ‹_›).endWith
  · exact h.failCmd

protected theorem Sound.rebindPage {f c asid va m} : Sound (rebindPage s f c asid va m) :=
  .ite h.bindPage.finishCmd h.bindPage.putCmd

protected theorem Sound.runDedup {f c} : Sound (runDedup s f c) := by
  unfold runDedup
  dsimp only
  split
  · split
    · exact h
    · split
      · exact h.finishCmd
      · split
        · exact h.failCmd
        · split
          · exact h.finishCmd
          · exact h.rebindPage
        · split
          · exact h.finishCmd
          · exact .ite h.modBlock.putCmd h.parkCmd
  · exact h.finishCmd

protected theorem Sound.writeDedup {c us} : OkWith Sound (writeDedup c us s) := by
  induction us generalizing s with
  | nil => exact .ok h
  | cons u us ih =>
    unfold writeDedup
    dsimp only
    split
    · exact .error
    · exact ih (h.storeUnit.of_ok ‹_›)
end

/-! ## The states: chunks, stamps and counted lines -/

section
variable {s t : State} (h : Sound s)
include h

protected theorem Sound.beginChunk {f c} : Sound (beginChunk s f c) := by
  unfold beginChunk
  split
  · exact h.finishCmd
  · split
    · exact h.finishCmd
    · split
      · exact h.finishCmd
      · exact h.withPages fun _ => .putCmd (.foldl h fun _ _ h => .ite h h.tlbPut)

protected theorem Sound.endChunk {f c} : Sound (endChunk s f c) := .ite h.putCmd (.ite h.endWith h.putCmd.finishCmd)

protected theorem Sound.closeTiles {c p} : Sound (closeTiles s c p).1 := .foldl h fun _ _ h => h.endFill

protected theorem Sound.stepDedup {f c mask} : Sound (stepDedup s f c mask) := by
  unfold stepDedup
  dsimp only
  split
  · exact .ite h h.finishCmd
  · split
    · exact h.runDedup
    · split
      · exact h.parkCmd
      · split
        · exact h.finishCmd
        · have ht := h.writeDedup.of_ok ‹_›
          split
          · exact ht.putCmd.countBytes
          · split
            · exact ht.putCmd.countBytes.modBlock.finishCmd
            · exact ht.putCmd.countBytes.finishCmd

protected theorem Sound.stepChunk {f c mask} : Sound (stepChunk s f c mask) := by
  unfold stepChunk
  dsimp only
  split
  · split
    · exact h.failCmd
    · exact h.putCmd.usePorts
  · split
    · exact h.stepDedup
    · split
      · exact h.endChunk
      · split
        · exact h.parkCmd
        · split
          · rename_i hw
            exact .failCmd (h.writeChunk.of_error hw)
          · have ht := h.writeChunk.of_ok ‹_›
            exact .ite ht.usePorts.closeTiles.putCmd.countBytes.endChunk ht.usePorts.closeTiles.putCmd

protected theorem Sound.performStream {f c mask} : Sound (performStream s f c mask) := by
  unfold performStream
  split
  · exact h.endWith
  · exact h.runShape
  · exact h.runCard
  · exact h.runAtom
  · exact h.runKvmap
  · exact h.runAlloc
  · exact h.runFree
  · exact h
  · exact h
  · split
    · exact h.stepChunk
    · exact h.beginChunk

protected theorem Sound.runStream {f c} : Sound (runStream s f c) := .ite h (.ite h.draw h.draw.performStream.usePorts)

protected theorem Sound.execFerryChunk {ferry stream} : NextSound (execFerryChunk ferry stream s) := by
  unfold execFerryChunk
  split
  · exact h.runStream.giveStreams
  · exact h

protected theorem Sound.resumeCmd {f c} : Sound (resumeCmd s f c) := h.putCmd.fillEddies.giveStreams

protected theorem Sound.unresolved {f c} : Sound (unresolved s f c) := by
  unfold unresolved
  split
  · exact h.stampLost
  · exact h.resumeCmd
  · exact h.failCmd

protected theorem Sound.execPageArrive {ferry cmd resolved} : NextSound (execPageArrive ferry cmd resolved s) := by
  unfold execPageArrive
  split
  · split
    · split
      · exact h.resumeCmd
      · exact h.unresolved
    · exact h
  · exact h

protected theorem Sound.copyOnWrite {f c va} : Sound (copyOnWrite s f c va) := by
  unfold copyOnWrite
  dsimp only
  split
  · exact h.failCmd
  · split
    · exact h.resumeCmd
    · split
      · exact h.failCmd
      · split
        · exact .same h
        · split
          · exact h.draw.failCmd
          · split
            · exact h.draw.failCmd
            · exact h.draw.copySpan.modBlock.bindPage.resumeCmd

protected theorem Sound.execCowService {ferry cmd} : NextSound (execCowService ferry cmd s) := by
  unfold execCowService
  split
  · exact h
  · split
    · exact h.copyOnWrite
    · exact h

protected theorem Sound.writeStamp {f c} : Sound (writeStamp s f c) := by
  unfold writeStamp
  split
  · exact (h.smallWrite ‹_›).finishCmd.modFerry
  · exact h.parkCmd
  · exact h.holdCmd
  · exact h.poisonStat.stampLost

protected theorem Sound.execStampWrite {ferry cmd} : NextSound (execStampWrite ferry cmd s) := by
  unfold execStampWrite
  split
  · exact h
  · split
    · exact h.writeStamp.usePorts.giveStreams
    · exact h

protected theorem Sound.loadCounted {f c mask} : OkWith (fun r => Sound r.1) (loadCounted s f c mask) := by
  unfold loadCounted
  dsimp only
  split
  · exact .error
  · split
    · exact .ok h.usePorts
    · exact .error

protected theorem Sound.writeCounted {f c} : ResultWith (fun x => Sound x.2) Sound (writeCounted s f c) := by
  unfold writeCounted
  dsimp only
  split
  · split
    · exact h.writeRuns.of_ok ‹_›
    · rename_i hw
      exact h.writeRuns.of_error hw
  · exact h
  · exact h

protected theorem Sound.endCounted {f c status} : Sound (endCounted s f c status) := h.putCmd.finishCmd

protected theorem Sound.performLine {f c} : Sound (performLine s f c) := by
  unfold performLine
  split
  · exact h.endCounted
  · split
    · rename_i hw
      exact .endCounted (h.writeCounted.of_error hw)
    · have ht := h.writeCounted.of_ok ‹_›
      exact .ite ht.modFerry.countBytes.closeTiles.putCmd.finishCmd ht.modFerry.countBytes.closeTiles.putCmd

protected theorem Sound.readAhead {f c mask} : Sound (readAhead s f c mask) := by
  unfold readAhead
  dsimp only
  split
  · exact h
  · split
    · exact (h.loadCounted.of_ok ‹_›).putCmd
    · split
      · exact h.putCmd
      · exact h.poisonStat.endCounted

protected theorem Sound.execCountedLine {ferry cmd} : NextSound (execCountedLine ferry cmd s) := by
  unfold execCountedLine
  dsimp only
  split
  · exact h
  · split
    · exact h
    · split
      · exact h.draw.endCounted
      · split
        · exact .ite h.draw.performLine h.draw.endCounted
        · exact .ite h.draw (.ite h.draw.readAhead (.ite h.draw.readAhead h.draw))

protected theorem Sound.applyTag {c} : Sound (applyTag s c).2 := by
  unfold applyTag
  dsimp only
  split
  · split
    · exact h
    · split
      · exact h
      · split
        · exact h
        · split
          · exact h
          · exact h.setHeader
  · exact h

protected theorem Sound.execFmtagApply {ferry cmd} : NextSound (execFmtagApply ferry cmd s) := by
  unfold execFmtagApply
  split
  · exact h
  · split
    · exact h.applyTag.finishCmd.releaseHeld.giveStreams
    · exact h
end

/-! ## The states: waits, pipes and confluences -/

section
variable {s t : State} (h : Sound s)
include h

protected theorem Sound.fencePre {scope} : PreSound (fencePre s scope) := .ite h (.ite trivial (.ite trivial h))
protected theorem Sound.setFin {f} : Sound (setFin s f) := .same h

protected theorem Sound.waitOn {holds w} : Sound (waitOn s holds w) := .ite h.setFin h.modCurCtx.setFin

protected theorem Sound.pipeTurn {sl p} : PreSound (pipeTurn s sl p) := .ite h trivial
protected theorem Sound.fullPre {p} : PreSound (fullPre s p) := .ite (.ite trivial h) trivial
protected theorem Sound.emptyPre {p} : PreSound (emptyPre s p) := .ite (.ite trivial h) trivial

protected theorem Sound.execArriveCount {core conf} : NextSound (execArriveCount core conf s) := by
  unfold execArriveCount
  split
  · exact h
  · exact h.modCore_same.countArrival
end

/-! ## The states: contexts, faults and gangs -/

section
variable {s t : State} (h : Sound s)
include h

protected theorem Sound.ackCard {k x v} : Sound (ackCard s k x v) := by
  unfold ackCard
  split
  · exact h
  · exact .same h

protected theorem Sound.clearCtxPoison {k x} : Sound (clearCtxPoison s k x) := h.modCore_same

protected theorem Sound.restartCtx {k x off life host} : Sound (restartCtx s k x off life host) := by
  unfold restartCtx
  dsimp only
  split
  · exact h
  · split
    · exact h
    · exact .same h.clearCtxPoison.setCtx

protected theorem Sound.execSpawn {g d a b} : NextSound (execSpawn g d a b s) := by
  refine h.runSlot (.ite trivial trivial) ?_
  split
  · exact h
  · split
    · exact h.pushS
    · exact h.draw.restartCtx.modCtx.pushS

protected theorem Sound.unqueue {k x} : Sound (unqueue s k x) := by
  unfold unqueue
  dsimp only
  split
  · exact h.modGang
  · exact h

protected theorem Sound.retireServed {n key k x} : Sound (retireServed n s key k x) := by
  induction n generalizing s k x with
  | zero => exact h
  | succ n ih =>
    unfold retireServed
    split
    · exact h
    · refine h.foldl fun _ _ h => ?_
      dsimp only
      split
      · split
        · exact ih h.modGang.retireCtx
        · exact h
      · exact h

protected theorem Sound.resumeAs {k x how} : Sound (resumeAs s k x how) := by
  unfold resumeAs
  dsimp only
  split
  · exact h.unqueue.resumeFault
  · exact h.unqueue.resumeFault
  · split
    · exact h.unqueue.retireCtx.modCtx.retireServed
    · exact h.unqueue.retireCtx.modCtx

protected theorem Sound.execFresume {g a how} : NextSound (execFresume g a how s) := by
  refine h.runSlot (.ite trivial trivial) ?_
  split
  · exact h.resumeAs
  · exact h

protected theorem Sound.releaseCtx {k x} : Sound (releaseCtx s k x) := .modCore h.dropIssuer fun c => .same c.putCtx
protected theorem Sound.releaseMeeting {key} : Sound (releaseMeeting s key) := .same h

protected theorem Sound.endGang {key} : Sound (endGang s key) := by
  unfold endGang
  split
  · exact h
  · split
    · exact h
    · exact .releaseMeeting (.foldl h.modGang.cancelWhere.modGang fun _ _ h => h.releaseCtx)

protected theorem Sound.checkEnd {key} : Sound (checkEnd s key) := by
  unfold checkEnd
  split
  · split
    · exact h.endGang
    · exact h
  · exact h

protected theorem Sound.stopCtx {k x} : Sound (stopCtx s k x) := by
  unfold stopCtx
  exact .modCtx h.retireCtx.dropIssuer

protected theorem Sound.terminateGang {key status} : Sound (terminateGang s key status) := by
  unfold terminateGang
  split
  · exact h
  · split
    · exact h
    · exact .endGang (.foldl h.modGang fun _ _ h => h.stopCtx)

protected theorem Sound.noteFault {k x} : Sound (noteFault s k x) := by
  unfold noteFault
  dsimp only
  split
  · split
    · exact h.modGang.terminateGang
    · exact h.modGang
  · exact h

protected theorem Sound.startHost {key g w k x} : Sound (startHost s key g w k x) := by
  unfold startHost
  split
  · exact h
  · exact h.draw.restartCtx.modCtx.modCtx.modGang

protected theorem Sound.serveQueue {n key} : Sound (serveQueue n key s) := by
  induction n generalizing s with
  | zero => exact h
  | succ n ih =>
    unfold serveQueue
    split
    · exact h
    · split
      · exact h
      · split
        · exact ih h.modGang
        · split
          · exact h
          · exact ih h.startHost

protected theorem Sound.queueFault {key g i} : Sound (queueFault s key g i) := h.modGang
protected theorem Sound.afterRetire {key k x} : Sound (afterRetire s key k x) := h.retireServed.serveQueue.checkEnd
protected theorem Sound.noteQuiet {k x} : Sound (noteQuiet s k x) := h.modCtx
protected theorem Sound.markRecorded {k x queued} : Sound (markRecorded s k x queued) := h.modCtx
protected theorem Sound.recordFails {key} : Sound (recordFails s key) := .same h.terminateGang.modGang

protected theorem Sound.writeOpen {key o} : Sound (writeOpen s key o) := by
  unfold writeOpen
  dsimp only
  split
  · exact h
  · split
    · exact h.setGang.recordFails
    · exact h.setGang.dvWrite ‹_›

protected theorem Sound.execFaultRecordWrite {core ctx} : NextSound (execFaultRecordWrite core ctx s) := by
  unfold execFaultRecordWrite
  dsimp only
  split
  · exact h.writeOpen
  · split
    · split
      · exact h
      · split
        · exact h.markRecorded.recordFails
        · have ht := h.dvWrite ‹_›
          split
          · exact ht.markRecorded.startHost
          · exact Sound.ite ht.markRecorded.terminateGang ht.markRecorded.queueFault
    · exact h

protected theorem Sound.execCompletionRecordWrite {gang} : NextSound (execCompletionRecordWrite gang s) := by
  unfold execCompletionRecordWrite
  split
  · exact h
  · split
    · exact h
    · exact .same h.occWrite.complete

protected theorem Sound.execHeadReserving {stream} : NextSound (execHeadReserving stream s) := by
  unfold execHeadReserving
  split
  · exact h
  · split
    · exact h
    · exact .same h
end

/-! ## The states: admission -/

section
variable {s t : State} (h : Sound s)
include h

protected theorem Sound.headOut {n v} : Sound (headOut s n v) := .setStream (.ite (.same h) h)

protected theorem Sound.noteGrant {n g} : Sound (noteGrant s n g) := by
  unfold noteGrant
  split <;> exact .same h

protected theorem Sound.clearGrants {e} : Sound (clearGrants s e) := by
  refine Sound.wakeWords (h.modCore fun c => CoreSound.clearSpad ?_)
  exact .foldl (.foldl (.foldl c fun _ _ h => h.setTile) fun _ _ h => h.setGrove) fun _ _ h => h.setSig

protected theorem Sound.dropStale {g e} : Sound (dropStale g s e) := h.modCore_same
protected theorem Sound.grantEntry {g key ix} : Sound (grantEntry g key s ix) := .clearGrants (.same h.dropStale.modCtx)

protected theorem Sound.grantMeeting {g key} : Sound (grantMeeting s g key) := by
  refine Sound.mapCores (s := g.confs.foldl _ (g.pipes.foldl _ s)) ?_ rfl fun _ c => .same c
  exact .foldl (.foldl h fun _ _ h => h.setPipe) fun _ _ h => h.setConf

protected theorem Sound.loadImage {asid k off a n} : Sound (loadImage s asid k off a n) := by
  unfold loadImage
  split
  · split
    · exact h
    · exact h.ispPut.modCore_same
  · exact h

protected theorem Sound.loadImages {g} : Sound (loadImages s g) := by
  unfold loadImages
  split
  · exact .foldl h fun _ _ h => .ite h h.loadImage
  · exact .foldl (.foldl h fun _ _ h => .ite h h.loadImage) fun _ _ h => h.loadImage

protected theorem Sound.advanceHead {n launch} : Sound (advanceHead s n launch) := h.setStream

protected theorem Sound.loadGrove {g l} : Sound (loadGrove g s l) := by
  unfold loadGrove
  split
  · exact .modCore h fun c => c.setGrove
  · exact h

protected theorem Sound.admitLaunch {n l} : Sound (admitLaunch s n l) := by
  refine .loadImages (.foldl (.grantMeeting (.foldl (.setGang (.noteGrant (.same ?_))) ?_)) ?_)
  · exact .foldl h.draw.advanceHead fun _ _ h => .ite h (.modCore h fun c => c.clearArray)
  · exact fun _ _ h => h.grantEntry
  · exact fun _ _ h => h.loadGrove

protected theorem Sound.lateCommands {key} : Sound (lateCommands s key) := .same h
protected theorem Sound.shiftCards {key n} : Sound (shiftCards s key n) := .same h

protected theorem Sound.readmitGang {n v} : Sound (readmitGang s n v) := by
  refine Sound.shiftCards (Sound.lateCommands (Sound.loadImages ?_))
  refine Sound.foldl ?_ fun _ _ h => h.modCore_same
  refine Sound.foldl ?_ fun _ _ h => h.setConf
  refine Sound.foldl ?_ fun _ _ h => h.setPipe
  refine Sound.foldl ?_ fun _ _ h => h.modCore fun c =>
    .intro (mapWf_foldl_mapSet 0 Prod.fst Prod.snd _ _ c.spad) c.isp c.rows c.cols
  refine Sound.foldl ?_ fun _ _ h => h.modCore fun c => c.setSig
  refine Sound.foldl ?_ fun _ _ h => h.modCore fun c => c.setGrove
  refine Sound.foldl ?_ fun _ _ h => h.modCore fun c => c.setTile
  refine Sound.foldl ?_ fun _ _ h => h.setCtx
  refine Sound.foldl ?_ fun _ _ h => h.modCore_same
  refine Sound.foldl ?_ fun _ _ h => h.dropStale
  refine Sound.setGang (Sound.noteGrant (Sound.same (Sound.foldl h.setStream fun _ _ h => ?_)))
  exact .ite h (.modCore h fun c => c.clearArray)

protected theorem Sound.noteHead {n} : Sound (noteHead s n) := by
  unfold noteHead
  dsimp only
  split <;> exact .ite h.setStream h

protected theorem Sound.stopStream {n} : Sound (stopStream s n) := h.setStream.complete

protected theorem Sound.consumeRecord {n launch kind id status} : Sound (consumeRecord s n launch kind id status) :=
  .complete (.advanceHead (.ite (.same h) h))

protected theorem Sound.queueCard {n bs} : Sound (queueCard s n bs) := .same h.advanceHead

protected theorem Sound.consumeHead {n} : Sound (consumeHead s n) := by
  unfold consumeHead
  dsimp only
  split
  · exact h.noteHead.stopStream
  · exact h.noteHead.advanceHead
  · exact h.noteHead.queueCard
  · exact h.noteHead.consumeRecord
  · exact h.noteHead

protected theorem Sound.execAdmissionDecision : NextSound (execAdmissionDecision s) := by
  unfold execAdmissionDecision
  have hc : Sound ((List.range 16).foldl consumeHead s) := h.foldl fun _ _ h => h.consumeHead
  refine Sound.ite hc ?_
  split
  · exact hc
  · split
    · exact hc.admitLaunch
    · exact hc.readmitGang
    · exact hc

protected theorem Sound.startIdle {k} : Sound (startIdle s k) := by
  unfold startIdle
  dsimp only
  split
  · exact h
  · split
    · exact h
    · exact h.modCore_same

protected theorem Sound.startCtx {e} : Sound (startCtx s e) := h.modCtx

protected theorem Sound.execStartStep {gang} : NextSound (execStartStep gang s) := by
  unfold execStartStep
  split
  · split
    · exact .checkEnd (.foldl (.foldl h.modGang fun _ _ h => h.startCtx) fun _ _ h => h.startIdle)
    · exact h
  · exact h

protected theorem Sound.execSpawnStart {core ctx} : NextSound (execSpawnStart core ctx s) := Sound.ite h.modCtx h

protected theorem Sound.execHandlerStart {core ctx} : NextSound (execHandlerStart core ctx s) := Sound.ite h.modCtx h
end

/-! ## The states: the array and the tiles -/

section
variable {s t : State} (h : Sound s)
include h

protected theorem Sound.tagPre {ts} : PreSound (tagPre s ts) := by
  refine .ite ?_ (.ite h trivial)
  split
  · trivial
  · trivial

protected theorem Sound.tagTake {ts} : Sound (tagTake ts s) := .modCurCore h fun c => .foldl c fun _ _ h => h.setTile
protected theorem Sound.beatUntil {n} : Sound (beatUntil s n) := h.modCurCtx
protected theorem Sound.sampledPre {ts bad} : PreSound (sampledPre s ts bad) := .ite h (.ite trivial h.tagPre)
protected theorem Sound.issueBeat {k} : Sound (issueBeat k s) := .beatUntil (.modCurCore h fun c => c.noteBeat)

protected theorem Sound.pushBeat {diag a b k x y m} : Sound (pushBeat diag a b k x y m s) :=
  .modCurCore h.tagTake.issueBeat fun c => c.beatPush

protected theorem Sound.pushGrove {a n k w m} : Sound (pushGrove a n k w m s) :=
  .modCurCore h.tagTake.issueBeat fun c => c.beatPush

protected theorem Sound.maccBeat {t k w} : Sound (maccBeat t k w s) :=
  .modCurCore h.tagTake.issueBeat fun c => c.beatMacc

protected theorem Sound.execMmask {g r c} : NextSound (execMmask g r c s) := by
  have hr := r.isLt
  have hc := c.isLt
  refine h.runSlot trivial (.beatUntil (.modCurCore h fun k => .intro k.spad k.isp ?_ ?_))
  · dsimp only
    omega
  · dsimp only
    omega

protected theorem Sound.drainBeat {t k m} : Sound (drainBeat t k m s) :=
  .ite h.beatUntil (.push (.modCurCore h.beatUntil fun c => c.noteBeat))

protected theorem Sound.queueJob {t n count len dest} : Sound (queueJob s t n count len dest) :=
  h.modCurCore_same.beatUntil

protected theorem Sound.jobPre {n ts} : PreSound (jobPre s n ts) := h.sampledPre
end

/-! ## The states: cards -/

section
variable {s t : State} (h : Sound s)
include h

protected theorem Sound.putCard {y} : Sound (putCard s y) := .same h
protected theorem Sound.dropCard {key} : Sound (dropCard s key) := .same h

protected theorem Sound.writeCardStamp {y status} : Sound (writeCardStamp s y status) := by
  unfold writeCardStamp
  dsimp only
  split
  · exact h
  · split
    · exact h.dvPut
    · split
      · exact h.spadWrite
      · exact h
    · exact h

protected theorem Sound.endCard {y stamp status} : Sound (endCard s y stamp status) :=
  .dropCard (.complete (.ite h.writeCardStamp h))

protected theorem Sound.wakeServer {e idx key g} : Sound (wakeServer s e idx key g) :=
  .ite (.same h.clearCtxPoison.modCtx) h

protected theorem Sound.deliverCard {y key e} : Sound (deliverCard s y key e) := by
  refine Sound.putCard ?_
  refine Sound.spadWrite ?_
  refine Sound.spadWrite ?_
  refine Sound.modCtx ?_
  split
  · exact h.wakeServer
  · exact h

protected theorem Sound.execCardDeliver {card} : NextSound (execCardDeliver card s) := by
  unfold execCardDeliver
  split
  · exact h
  · split
    · exact h
    · split
      · exact h.endCard
      · split
        · exact h.endCard
        · split
          · exact h.deliverCard
          · exact h

protected theorem Sound.execCardComplete {card} : NextSound (execCardComplete card s) := by
  unfold execCardComplete
  split
  · exact h
  · split
    · split
      · exact h
      · exact h.endCard
    · exact h

protected theorem Sound.requeueFault {key g k x} : Sound (requeueFault s key g k x) := by
  unfold requeueFault
  dsimp only
  refine .foldl h fun _ _ h => ?_
  split
  · split
    · split
      · exact h.modCtx.modGang.dvPut
      · exact h.modCtx.modGang
    · exact h
  · exact h

protected theorem Sound.dropFlight {k x} : Sound (dropFlight s k x) := h.modCore_same

protected theorem Sound.resetCtx {key g e} : Sound (resetCtx key g s e) :=
  h.modGang.unqueue.dropFlight.dropIssuer.clearGrants.restartCtx.modCtx.requeueFault

protected theorem Sound.expireCard {y k x g} : Sound (expireCard s y k x g) := by
  unfold expireCard
  extract_lets es s1 s2 s3 s4
  have h4 : Sound s4 := .serveQueue (.statAppend (.foldl h.cancelWhere fun _ _ h => h.resetCtx))
  exact .ite h4.putCard h4.endCard

protected theorem Sound.execCardWatchdog {card} : NextSound (execCardWatchdog card s) := by
  unfold execCardWatchdog
  split
  · exact h
  · split
    · split
      · exact h.expireCard
      · exact h
    · exact h
end

/-! ## The states: the issue of a bundle -/

section
variable {s t : State} (h : Sound s)
include h

protected theorem Sound.aim {k x pos addr w lit} : Sound (aim s k x pos addr w lit) := .same h
protected theorem Sound.startCycle {k x} : Sound (startCycle s k x) := .same h
protected theorem Sound.raiseDeferred {d} : Sound (raiseDeferred s d) := .same h.takeFault

protected theorem Sound.settleRaised {k x} : Sound (settleRaised s k x) := by
  unfold settleRaised
  split
  · exact h.modCtx
  · exact h

protected theorem Sound.enterBundle {k x level ws} : Sound (enterBundle s k x level ws) := h.modCtx

protected theorem Sound.lastChecks {k x level ws} : Sound (lastChecks s k x level ws) :=
  .ite h.levelFault (.ite h.dirtyDetail.levelFault h.enterBundle)

protected theorem Sound.fetchWordIf {p : Prop} [Decidable p] {w k x a} :
    Sound (if p then (w, s) else fetchWord s k x a).2 := by
  split
  · exact h
  · exact h.fetchWord

protected theorem Sound.fetchBundle {k x} : Sound (fetchBundle s k x) := by
  unfold fetchBundle
  extract_lets +lift c nb a bubble s0 hw hd lw ws s1 level
  have h0 : Sound s0 := h.aim
  have h1 : Sound s1 := .aim (.fetchSlots (.fetchWordIf (.fetchWordIf h0)))
  refine .ite h0.levelFault (.ite h1.waits (.ite h1.levelFault ?_))
  split
  · exact h1.raiseDeferred
  · refine .ite h1.levelFault ?_
    split
    · exact h1.levelFault
    · exact .ite h1.waits h1.lastChecks

protected theorem Sound.slotMoves {k x sl p} : Sound (slotMoves s k x sl p) := .same h.dropRequests.modCtx

protected theorem Sound.slotGo {run k x least sl} (hrun : ∀ sl w s, Sound s → Sound (run sl w s)) :
    Sound (slotGo run k x least s sl) := by
  have hr : ∀ w pos addr hd lit, Sound (run sl w (aim s k x pos addr hd lit)) := fun w _ _ _ _ => hrun sl w _ h.aim
  unfold slotGo
  dsimp only
  split
  · exact h
  · split
    · exact h
    · split
      · exact h.aim.slotMoves
      · split
        · exact (hr _ _ _ _ _).slotMoves
        · exact .same (hr _ _ _ _ _)
        · exact hr _ _ _ _ _

protected theorem Sound.slotsGo {run k x least} (hrun : ∀ sl w s, Sound s → Sound (run sl w s)) :
    Sound (slotsGo run s k x least) := h.foldl fun _ _ h => h.slotGo hrun

protected theorem Sound.undo {r k} : Sound (undo s r k) := .same h.modCore_same

protected theorem Sound.undoFault {r k x} : Sound (undoFault s r k x) := by
  unfold undoFault
  split
  · exact h.undo
  · exact .same h.undo.takeFault

protected theorem Sound.parkTick {r k x} : Sound (parkTick s r k x) := .same h.undo.modCtx

protected theorem Sound.levelGo {run u k x least} (hrun : ∀ sl w s, Sound s → Sound (run sl w s)) (hu : Sound u) :
    Sound (levelGo run s u k x least) :=
  .ite h.undoFault (.ite (.ite h.parkTick h.undo) (hu.slotsGo hrun))

protected theorem Sound.cycleGo {run k x} (hrun : ∀ sl w s, Sound s → Sound (run sl w s)) :
    Sound (cycleGo run s k x) := by
  have hs := h.startCycle (k := k) (x := x)
  have ht : ∀ {p : Prop} [Decidable p], Sound (if p then Machine.fetchBundle (Machine.startCycle s k x) k x
      else Machine.waits (Machine.startCycle s k x)) := .ite hs.fetchBundle hs.waits
  refine .ite (.ite (.ite hs.waits hs.fetchBundle) hs.aim.levelFault) ?_
  dsimp only
  split
  · exact .ite (hs.levelGo hrun ht) (ht.slotsGo hrun)
  · exact .slotsGo (.same ht) hrun
  · exact .slotsGo (.same hs) hrun

protected theorem Sound.waitOver {k x w} : Sound (waitOver s k x w) := h.modCtx

protected theorem Sound.retireNow {k x} : Sound (retireNow s k x) := by
  unfold retireNow
  dsimp only
  split
  · exact h.retireCtx.switchPoint.afterRetire
  · exact h.retireCtx.switchPoint

protected theorem Sound.endBundle {k x b} : Sound (endBundle s k x b) := by
  unfold endBundle
  split
  · exact h.retireNow
  · exact h.switchPoint
  · split
    · exact h.waitOver.switchPoint
    · exact h.modCtx.switchPoint
  · split <;> exact h.switchPoint

protected theorem Sound.closeFault {k x} : Sound (closeFault s k x) := by
  unfold closeFault
  exact .noteFault h.dropRequests.modCtx.modCtx.switchPoint

protected theorem Sound.noteSlip {k x c} : Sound (noteSlip s k x c) := .ite h.modCtx (.ite h.statAppend.modCtx h)

protected theorem Sound.occCycle {k issuer moved} : Sound (occCycle s k issuer moved) := by
  unfold occCycle
  dsimp only
  refine .foldl h fun _ _ h => ?_
  split
  · exact h
  · split
    · exact h.modCtx
    · split
      · exact h.modCtx
      · exact h.modCtx
      · exact h

protected theorem Sound.countCycle {k x} : Sound (countCycle s k x) := h.modCtx.modCore_same

protected theorem Sound.sweepGang {g} : Sound (sweepGang s g) := by
  unfold sweepGang
  split
  · exact h.serveQueue.checkEnd
  · exact h

protected theorem Sound.closeCycle {k x} : Sound (closeCycle s k x) := by
  refine Sound.sweepGang ?_
  split
  · exact h.settleRaised.closeFault
  · split
    · exact h.modCtx.switchPoint
    · split
      · exact h.modCtx.endBundle
      · exact h.modCtx

protected theorem Sound.issueCtx {run k x} (hrun : ∀ sl w s, Sound s → Sound (run sl w s)) :
    Sound (issueCtx run s k x) := by
  unfold issueCtx
  dsimp only
  split
  · exact h.startCycle.countCycle.occCycle.closeCycle
  · split
    · exact h.startCycle.countCycle.occCycle
    · exact .closeCycle (.occCycle (.countCycle (.noteSlip (h.startCycle.cycleGo hrun))))

protected theorem Sound.dropFault {k x d} : Sound (dropFault s k x d) := by
  refine .ite (.ite h.waits h.fetchBundle) ?_
  split
  · exact h.aim.raiseDeferred
  · exact h

protected theorem Sound.dropStep {k} : Sound (dropStep s k) := by
  unfold dropStep
  dsimp only
  split
  · exact h.modCore_same.occCycle.chooseIdle
  · exact h.modCore_same.modCtx.startCycle.statAppend.dropFault.countCycle.occCycle.closeCycle

protected theorem Sound.issueCore {run k} (hrun : ∀ sl w s, Sound s → Sound (run sl w s)) :
    Sound (issueCore run s k) := by
  unfold issueCore
  split
  · exact h.dropStep
  · split
    · exact h.occCycle
    · exact h.issueCtx hrun

protected theorem Sound.execEmptyBundle {core} : NextSound (execEmptyBundle core s) :=
  Sound.ite (h.issueCore fun _ _ _ h => h) h

protected theorem Sound.execPauseOverdue {core} : NextSound (execPauseOverdue core s) := by
  unfold execPauseOverdue
  split
  · split
    · exact h.issueCore fun _ _ _ h => h
    · exact h
  · exact h
end

/-! ## The states: saves and restores -/

section
variable {s t : State} (h : Sound s)
include h

protected theorem Sound.writeArea {asid a} : Sound (writeArea s asid a) := h.draw.draw.dvPut

protected theorem Sound.execEvictionRequest {gang} : NextSound (execEvictionRequest gang s) := by
  unfold execEvictionRequest
  split
  · split
    · exact h.setGang
    · exact h
  · exact h

protected theorem Sound.releaseEvicted {key g} : Sound (releaseEvicted s key g) :=
  .same (.releaseMeeting (.foldl h fun _ _ h => .modCore h fun c => .same c.putCtx))

protected theorem Sound.execEvictionSave {gang} : NextSound (execEvictionSave gang s) := by
  unfold execEvictionSave
  split
  · split
    · exact h.occWrite.writeArea.releaseEvicted.headOut.complete
    · exact h
  · exact h

protected theorem Sound.execCheckpointRequest {gang} : NextSound (execCheckpointRequest gang s) := by
  unfold execCheckpointRequest
  split
  · split
    · exact h.setGang
    · exact h
  · exact h

protected theorem Sound.copyIn {c frame count base} : Sound (copyIn s c frame count base) :=
  h.withDram (mapWf_foldl_mapSet 0 _ Prod.snd _ _ (mapWf_mapClearRange 0 s.dram _ _ h.dram))

protected theorem Sound.execCheckpointComplete {gang} : NextSound (execCheckpointComplete gang s) := by
  unfold execCheckpointComplete
  split
  · split
    · exact .complete (.shiftCards (.setGang (.writeArea (.same h))))
    · exact h
  · exact h

protected theorem Sound.restoreBuffer {asid b} : Sound (restoreBuffer s asid b) := .foldl h fun _ _ h => h.copyIn
protected theorem Sound.restoreNew {asid es} : Sound (restoreNew s asid es) := .same h

protected theorem Sound.restoreBlock {asid b} : Sound (restoreBlock s asid b) := by
  unfold restoreBlock
  split
  · exact h.copyIn.modBlock
  · exact h

protected theorem Sound.restorePools {asid ps} : Sound (restorePools s asid ps) := .same h

protected theorem Sound.restoreSlot {c} : Sound (restoreSlot s c) := by
  unfold restoreSlot
  split
  · exact h
  · refine .headOut (.restorePools (.foldl (.restoreNew (.foldl h ?_)) ?_))
    · exact fun _ _ h => h.restoreBuffer
    · exact fun _ _ h => h.restoreBlock

protected theorem Sound.execDeviceFailureRecovery {chip spare} :
    NextSound (execDeviceFailureRecovery chip spare s) :=
  Sound.ite (.ite h (.foldl (.same h) fun _ _ h => h.restoreSlot)) (.same h)

protected theorem Sound.execEventRingTimeTrigger {ring} : NextSound (execEventRingTimeTrigger ring s) :=
  Sound.ite h.ringSignal h

protected theorem Sound.setEcons {ring val} : Sound (setEcons s ring val) := h.setRing.ringDrain
end

/-! ## The states: signals -/

section
variable {s t : State} (h : Sound s)
include h

protected theorem Sound.advance {id} : Sound (advance s id) := by
  unfold advance
  split
  · exact h
  · refine .iteStat ?_
    split
    · exact .setPipe (.modCurCore h fun c => .same c.setSig)
    · exact .modCurCore h fun c => .same c.setSig

protected theorem Sound.tickNow : Sound (tickNow s) := .foldl h.modCurCtx fun _ _ h => h.advance
protected theorem Sound.tickPark : Sound (tickPark s) := .same h.modCurCtx
end

/-! ## The states: tables and migrations -/

section
variable {s t : State} (h : Sound s)
include h

protected theorem Sound.refuseChange : Sound (refuseChange s) := .same h

protected theorem Sound.writeEntry {asid va level at' val} : Sound (writeEntry s asid va level at' val) := by
  refine .tlbDrop (h.withDram ?_)
  exact mapWf_writeBytes s.dram _ _ h.dram

protected theorem Sound.changeEntry {asid va level val} : Sound (changeEntry s asid va level val) := by
  unfold changeEntry
  split
  · exact h.refuseChange
  · refine .ite h.refuseChange ?_
    split
    · refine .ite (.writeEntry (h.withDram ?_)) h.refuseChange
      exact mapWf_mapClearRange 0 s.dram _ _ h.dram
    · exact .ite h.refuseChange h.writeEntry
    · exact h.writeEntry

protected theorem Sound.changeRoot {asid addr} : Sound (changeRoot s asid addr) := by
  refine .ite h.refuseChange (.tlbDrop (h.withDram ?_))
  exact mapWf_mapClearRange 0 s.dram _ _ h.dram

protected theorem Sound.installNew {asid bid w} (e : installNew s asid bid w = some t) : Sound t := by
  unfold installNew at e
  obtain ⟨ws, -, rfl⟩ := Option.map_eq_some_iff.mp e
  refine Sound.putPhys (h.withDram ?_)
  exact List.foldlRecOn (motive := fun m => Memory.wf m = true) _ _ h.dram fun m hm l _ =>
    mapWf_mapClearRange 0 m _ _ hm

protected theorem Sound.installOr {asid bid w} (ht : Sound t) : Sound ((installNew s asid bid w).getD t) := by
  cases e : installNew s asid bid w with
  | none => exact ht
  | some u => exact h.installNew e

protected theorem Sound.changeHeader {asid bid val} : Sound (changeHeader s asid bid val) :=
  .ite h.refuseChange (.ite (.ite (h.setHeader.installOr h.refuseChange) (.same h.setHeader)) h.setHeader)

protected theorem Sound.changeKv {asid page val} : Sound (changeKv s asid page val) := .ite h.refuseChange h.bindPage

protected theorem Sound.changeBlock {chip block val} : Sound (changeBlock s chip block val) :=
  .ite h.refuseChange h.setBlock

protected theorem Sound.changeAsid {n asid} : Sound (changeAsid s n asid) := .ite h.setStream h.refuseChange

protected theorem Sound.execHeartwoodTableChange {change} : NextSound (execHeartwoodTableChange change s) := by
  unfold execHeartwoodTableChange
  split
  · exact h.changeRoot
  · exact h.changeEntry
  · exact h.changeHeader
  · exact h.changeKv
  · exact h.changeBlock
  · exact h.changeAsid
  · exact .same h
  · exact .same h

protected theorem Sound.execMigrationStart {asid bid frames} : NextSound (execMigrationStart asid bid frames s) :=
  Sound.ite h.refuseChange (.same h.setHeader)

protected theorem Sound.moveLeaf {p} : Sound (moveLeaf s p) := by
  unfold moveLeaf
  dsimp only
  split
  · exact h
  · exact h.copySpan.writeEntry

protected theorem Sound.execMigrationCopy {asid bid} : NextSound (execMigrationCopy asid bid s) := by
  unfold execMigrationCopy
  dsimp only
  split
  · exact h
  · split
    · exact h
    · split
      · exact Sound.releaseHeld (.same h.setHeader)
      · exact Sound.releaseHeld (.foldl (.same h.setHeader) fun _ _ h => h.moveLeaf)

protected theorem Sound.execRequantBlock {asid bid block} : NextSound (execRequantBlock asid bid block s) := by
  unfold execRequantBlock
  dsimp only
  split
  · split
    · split
      · exact h.draw.writeNew.auxWrite.of_ok ‹_›
      · exact h
    · exact h
  · exact h
end

/-! ## The states: errors and host accesses -/

section
variable {s t : State} (h : Sound s)
include h

protected theorem Sound.countCorrected : Sound (countCorrected s) := .same h

protected theorem Sound.execMemoryPoison {chip error} : NextSound (execMemoryPoison chip error s) := by
  unfold execMemoryPoison
  split
  · exact h.countCorrected
  · exact .same h

protected theorem Sound.execCoreStorageError {core error} : NextSound (execCoreStorageError core error s) := by
  unfold execCoreStorageError
  split
  · exact h.countCorrected
  · exact .same (.modCore h fun c => c.spoilPlace)

protected theorem Sound.touchBlocks {phys len} : Sound (touchBlocks s phys len) := .same h

protected theorem Sound.hostWrite {line ws} : OkWith Sound (hostWrite s line ws) := by
  unfold hostWrite
  split
  · exact .map h.writeCoded fun _ h => h
  · exact h.writePhys

protected theorem Sound.hostWrites {ws ls} : OkWith Sound (hostWrites ws ls s) := by
  induction ls generalizing s with
  | nil => exact .ok h
  | cons l ls ih =>
    unfold hostWrites
    split
    · exact ih (h.hostWrite.of_ok ‹_›)
    · exact .error

protected theorem Sound.hostStore {port phys bs} : Sound (hostStore s port phys bs) := by
  unfold hostStore
  dsimp only
  split
  · exact .same h
  · split
    · exact (h.hostWrites.of_ok ‹_›).touchBlocks
    · exact .same h

protected theorem Sound.execCxlMemAccess {port addr len store} :
    NextSound (execCxlMemAccess port addr len store s) := by
  refine Sound.ite (.same h) ?_
  split
  · exact h.hostStore
  · split
    · exact .same h
    · exact .same h
end

/-! ## The states: registers -/

section
variable {s t : State} (h : Sound s)
include h

protected theorem Sound.ownerWrite {port f} (hf : Sound (f s)) : Sound (ownerWrite s port f) := .ite hf (.ite h h)

protected theorem Sound.claim {port} : Sound (claim s port) := .ite (.same h) h

protected theorem Sound.release {port} : Sound (release s port) := .ite (.same h) h

protected theorem Sound.clearError {port} : Sound (clearError s port) := h.ownerWrite (.same h)

protected theorem Sound.writeMown {port v} : Sound (writeMown s port v) :=
  .ite h.clearError (.ite h.release (.ite h.claim h))

protected theorem Sound.loseLink {port} : Sound (loseLink s port) := .release (.same h)

protected theorem Sound.execHostPortTraining {port near far} : NextSound (execHostPortTraining port near far s) :=
  Sound.ite h.loseLink (.same h)

protected theorem Sound.reservedWrite {port reserved f} (hf : Sound (f s)) :
    Sound (reservedWrite s port reserved f) :=
  .ite h hf

protected theorem Sound.writeQctl {n v} : Sound (writeQctl s n v) := h.setStream
protected theorem Sound.writeEctl {n v} : Sound (writeEctl s n v) := h.setRing.ringDrain.ringCount
protected theorem Sound.writeDroop {k bits} : Sound (writeDroop s k bits) := h.modCore_same

protected theorem Sound.execDroopReport {core levels} : NextSound (execDroopReport core levels s) := by
  unfold execDroopReport
  dsimp only
  refine .modCore h fun c => ?_
  split <;> exact .same (.same c)

protected theorem Sound.writeMonitor {v} : Sound (writeMonitor s v) := .same h

protected theorem Sound.writeStream {port n reg v} : Sound (writeStream s port n reg v) := by
  unfold writeStream
  split
  · split
    · exact h.setStream
    · exact h
  · split
    · exact h.setStream
    · exact h
  · split
    · exact h.reservedWrite h.writeQctl
    · exact h
  · split
    · exact h.reservedWrite h.changeAsid
    · exact h
  · exact h

protected theorem Sound.writeRing {port n reg v} : Sound (writeRing s port n reg v) := by
  unfold writeRing
  split
  · exact h.ownerWrite h.setRing
  · split
    · exact h.setEcons
    · exact h
  · exact h.ownerWrite h.writeEctl
  · exact h

protected theorem Sound.writeRegister {port off v} : Sound (writeRegister s port off v) := by
  unfold writeRegister
  split
  · exact h
  · split
    · split
      · exact h.writeMown
      · exact h
    · split
      · split
        · exact .same h
        · exact h
      · split
        · exact h.writeStream
        · split
          · exact h.writeRing
          · split
            · exact h.ownerWrite (h.reservedWrite h.writeDroop)
            · split
              · exact .ite (h.reservedWrite h.modCore_same) h
              · exact .ite (h.ownerWrite (h.reservedWrite h.writeMonitor)) h
end

/-! ## The states: boot and power -/

section
variable {s t : State} (h : Sound s)
include h

protected theorem Sound.setUnsync : Sound (setUnsync s) := .ite h (.same h)

protected theorem Sound.execSizenFlit {port gauge} : NextSound (execSizenFlit port gauge s) :=
  Sound.ite h (.ite (.same h) (.setUnsync (.same h)))

protected theorem Sound.bootFail : Sound (bootFail s) := .same h
protected theorem Sound.loadDomain {domain} : Sound (loadDomain s domain) := .same h

protected theorem Sound.bootNext {b} : Sound (bootNext s b) := by
  unfold bootNext
  split
  · exact .same h
  · split
    · exact .same h
    · exact h.bootFail
  · split
    · exact .same h
    · exact h.bootFail
  · split
    · exact h
    · exact .same h.loadDomain
  · exact .same h

protected theorem Sound.bootStep : Sound (bootStep s) := by
  unfold bootStep
  dsimp only
  split
  · exact h
  · split
    · exact h.draw
    · exact h.draw.bootNext

protected theorem Sound.bootFrom {stage img domain} : Sound (bootFrom s stage img domain) := .ite (.same h.draw) h

omit h in
theorem sound_afterPower : Sound (afterPower s) := .intro rfl fun _ => coreSound_default

protected theorem Sound.execBootRetry {img domain} : NextSound (execBootRetry img domain s) := Sound.ite h h.bootFrom

protected theorem Sound.execStandbyWake {domain} : NextSound (execStandbyWake domain s) := by
  unfold execStandbyWake
  split
  · exact h.bootFrom
  · exact h

protected theorem Sound.terminateAll : Sound (terminateAll s) := .foldl h fun _ _ h => h.terminateGang

protected theorem Sound.execThermalMonitor {temp vmin watts} : NextSound (execThermalMonitor temp vmin watts s) := by
  refine Sound.ite (.terminateAll ?_) ?_
  · exact .ite (.same (.same h)) (.same h)
  · exact .ite (.same (.same h)) (.same h)

protected theorem Sound.execAttestationRequest {nonce} : NextSound (execAttestationRequest nonce s) := by
  unfold execAttestationRequest
  split
  · split
    · exact h
    · exact .same h
  · exact h
end

/-! ## The states: instructions, events and steps -/

section
variable {s t : State} (h : Sound s)
include h

protected theorem Sound.nextOr {o} (ho : NextSound o) : Sound (nextOr s o) := by
  unfold nextOr
  split
  · exact ho
  · exact h

protected theorem Sound.exec {i} : NextSound (exec i s) := by
  cases i with
  | nop | trap | brk => exact h.runSlot trivial h
  | add | sub | mul | mulhi | mulhn | div | divn | rem | remn | and | or | xor | shl | shr | sra | min | max | minn
  | maxn | clz | popc | addi | andi | ori | xori | shli | shri | srai | sel | ldi | lit | lith | gauge | cycles
  | fmtget | gbest | snow | tstat | ctlrd | vcount | aupd | aupds | froom => exact h.runSlot trivial h.pushS
  | scmp | scmpl | bsgn | vsumm => exact h.runSlot trivial h.pushF
  | lqpop => exact h.runSlot h.lqsPre h.modCurCtx.pushS
  | lqpeek => exact h.runSlot h.lqsPre h.pushS
  | br | bri | ret => exact h.runSlot preSound_targetPre h.takeBranch
  | call => exact h.runSlot preSound_targetPre h.takeBranch.pushS
  | loop | loopi => exact h.runSlot preSound_loopPre h.openLoop
  | bswap => exact h.runSlot (.ite trivial trivial) h.modCurCtx.takeBranch
  | ifence => exact h.runSlot trivial h.modCurCtx
  | tick => exact h.runSlot (.ite h.tickPark trivial) h.tickNow
  | sclr | vcmp | xmov | bclr | bacc | badd | kand | kor | kxor | knot | twrow | cbld =>
    exact h.runSlot trivial h.push
  | waitp => exact h.runSlot preSound_boundPre h.waitOn
  | arrive => exact h.runSlot (.ite trivial trivial) h.modCurCtx.push
  | waitc => exact h.runSlot (.ite trivial trivial) (.waitOn (.ite h.modCurCtx h))
  | mwait =>
    exact h.runSlot (.andThen preSound_addrPre (.andThen preSound_spadPendingPre preSound_wordPoisonPre)) h.waitOn
  | fence => exact h.runSlot h.fencePre h
  | fmtset | gseed | sfeed => exact h.runSlot (.ite trivial trivial) h.push
  | sqpop => exact h.runSlot trivial h.modCurCtx.pushS
  | ctlwr => exact h.runSlot preSound_ctlPre (.push (.ite (.modCurCtx (.ite h.ackCard h)) (.ite h.ackCard h)))
  | retire => exact h.runSlot trivial h.modCurCtx.modCurCore_same.setFin
  | spawn => exact h.execSpawn
  | fresume => exact h.execFresume
  | vadd | vsub | vmul | vmin | vmax | vand | vor | vxor | vshl | vshr | vsra | vdiv | vperm | vabs | vneg | vcvt
  | vsqrt | vrcp | vrsq | vexp2 | vlog2 | vredadd | vredmax | vredmin | vargmx | vmov | vsel | vbcast | brnd
  | bmovb | trcol | trrow | vcbq | vcbx | vfma_d | vfma_s | vfma_h | vfma_b => exact h.vres
  | psend => exact h.runSlot (.andThen h.pipeTurn h.fullPre) h.setPipe.push
  | ptake => exact h.runSlot (.andThen preSound_boundPre (.andThen h.pipeTurn h.emptyPre)) h.setPipe.push
  | plook => exact h.runSlot (.andThen preSound_boundPre (.andThen h.pipeTurn h.emptyPre)) h.push
  | vsnorm => exact h.runSlot trivial h.push.push
  | mpush | mpushd => exact h.runSlot h.tagPre h.pushBeat
  | mshift => exact h.runSlot trivial h.beatUntil
  | macc => exact h.runSlot h.tagPre h.maccBeat
  | mdrain => exact h.runSlot trivial h.drainBeat
  | mclr => exact h.runSlot trivial (.modCurCore h.issueBeat fun c => c.beatClear)
  | mmask => exact h.execMmask
  | mpushg => exact h.runSlot h.sampledPre h.pushGrove
  | mgload => exact h.runSlot h.sampledPre h.tagTake.beatUntil.push
  | msrch | msproj => exact h.runSlot h.jobPre h.tagTake.queueJob
  | lda | vlda => exact h.runSlot preSound_loadPre h.modCurCtx.putAccess
  | tlrow | atom => exact h.runSlot (.andThen preSound_addrPre h.readWritePre) h.putReadWrite
  | st | vst | tsrow => exact h.runSlot (.andThen preSound_addrPre preSound_bankPre) h.putAccess
  | fcopy | fshape | fstamp | fquant | fdedup | falloc | ffree | fatom | fmtag | fkvmap | fcard | fsum =>
    exact h.runSlot h.cmdPre h.giveCmd
  | emptyBundle => exact h.execEmptyBundle
  | pauseOverdue => exact h.execPauseOverdue
  | idleCoreChoose => exact h.chooseIdle
  | admissionDecision => exact h.execAdmissionDecision
  | headReserving => exact h.execHeadReserving
  | startStep => exact h.execStartStep
  | spawnStart => exact h.execSpawnStart
  | cardDeliver => exact h.execCardDeliver
  | cardComplete => exact h.execCardComplete
  | cardWatchdog => exact h.execCardWatchdog
  | faultRecordWrite => exact h.execFaultRecordWrite
  | handlerStart => exact h.execHandlerStart
  | completionRecordWrite => exact h.execCompletionRecordWrite
  | evictionRequest => exact h.execEvictionRequest
  | evictionSave => exact h.execEvictionSave
  | checkpointRequest => exact h.execCheckpointRequest
  | checkpointComplete => exact h.execCheckpointComplete
  | gangTerminate => exact h.terminateGang
  | eventRingTimeTrigger => exact h.execEventRingTimeTrigger
  | econsWrite => exact h.setEcons
  | eventRingOvClear => exact h.ownerWrite h.setRing
  | qctlErrClear | qctlEnable => exact h.setStream
  | registerWrite => exact h.writeRegister
  | mownClaim => exact h.claim
  | mownRelease => exact h.release
  | mownErrorClear => exact h.clearError
  | hostLinkDown => exact h.loseLink
  | tripClear | peakClear => exact h.ownerWrite h.writeDroop
  | droopReport => exact h.execDroopReport
  | gaugeUnsync => exact h.setUnsync
  | sizenFlit => exact h.execSizenFlit
  | linkFail => exact .same h.draw
  | deviceFailureRecovery => exact h.execDeviceFailureRecovery
  | powerUp => exact sound_afterPower.bootFrom
  | bootRetry => exact h.execBootRetry
  | standbyEnter => exact Sound.ite h (.intro h.dram fun _ => coreSound_default)
  | standbyWake => exact h.execStandbyWake
  | thermalMonitor => exact h.execThermalMonitor
  | attestationRequest => exact h.execAttestationRequest
  | heartwoodTableChange => exact h.execHeartwoodTableChange
  | ferryIssue => exact h.execFerryIssue
  | ferryChunk => exact h.execFerryChunk
  | pageArrive => exact h.execPageArrive
  | stampWrite => exact h.execStampWrite
  | countedLine => exact h.execCountedLine
  | fmtagApply => exact h.execFmtagApply
  | migrationStart => exact h.execMigrationStart
  | migrationCopy => exact h.execMigrationCopy
  | requantBlock => exact h.execRequantBlock
  | cowService => exact h.execCowService
  | memoryPoison => exact h.execMemoryPoison
  | coreStorageError => exact h.execCoreStorageError
  | searchJobEnd => exact .same h.modCore_same
  | arriveCount => exact h.execArriveCount
  | peerGrant => exact h.execPeerGrant
  | illegalOpcode => exact h.encodingFault
  | sizenLinkTrained => exact .same h
  | hostPortTraining => exact h.execHostPortTraining
  | cxlMemAccess => exact h.execCxlMemAccess

protected theorem Sound.runWord {sl w} : Sound (runWord sl w s) := by
  unfold runWord
  split
  · exact h.nextOr h.exec
  · exact h.nextOr h.exec
  · exact h.encodingFault
  · refine .ite h.encodingFault ?_
    split
    · exact h.slotFault
    · exact h.encodingFault

protected theorem Sound.doFirst {as} : Sound (doFirst s as) := .same h
protected theorem Sound.doEvents {is} : Sound (doEvents s is) := h.doFirst
protected theorem Sound.mapCtxs {f} : Sound (mapCtxs s f) := h.mapCores rfl fun _ c => .same c
protected theorem Sound.runInputs : Sound (runInputs s) := .doEvents (.mapCtxs (.same h))
protected theorem Sound.runScheduler : Sound (runScheduler s) := h.bootStep.enterPinned.mapCtxs.doEvents
protected theorem Sound.runFerries : Sound (runFerries s) := h.doFirst
protected theorem Sound.runLoads : Sound (runLoads s) := h.doFirst
protected theorem Sound.runIssues : Sound (runIssues s) := h.doEvents
protected theorem Sound.runStreams {f} : Sound (runStreams s f) := h.doEvents
protected theorem Sound.runLoadsOf {f} : Sound (runLoadsOf s f) := h.doEvents

protected theorem Sound.runCores : Sound (runCores s) := by
  unfold runCores
  refine .doFirst (h.mapCores rfl fun _ c => .endRelock ?_)
  split
  · exact c
  · exact .same c

protected theorem Sound.runAgain {k} : Sound (runAgain s k) := by
  unfold runAgain
  split
  · exact h.doFirst
  · exact h

protected theorem Sound.beginCycle {k} : Sound (beginCycle s k) := by
  unfold beginCycle
  extract_lets meet s1 s2 s3
  have h2 : Sound s2 := .modCore (.same h) fun c => .same ?_
  · exact .ite h2.enterElastic.doEvents h2.enterElastic
  · split
    · exact .same c
    · exact .same c

protected theorem Sound.landCycle {k} : Sound (landCycle s k) := h.landAll.doEvents

protected theorem Sound.issueAct {k} : NextSound (issueAct s k) := by
  have hi : NextSound (.next (issueCore Machine.runWord s k)) := h.issueCore fun _ _ _ h => h.runWord
  unfold issueAct
  dsimp only
  split
  · exact hi
  · split
    · exact h.occCycle.exec
    · split
      · exact h.exec
      · split
        · exact h.exec
        · exact hi

protected theorem Sound.watchHalves : Sound (watchHalves s) := .same h

protected theorem Sound.runSettle : Sound (runSettle s) := by
  unfold runSettle
  refine Sound.mapCores (s := List.foldl _ (watchHalves s) (allCtxs (watchHalves s))) ?_ rfl fun _ c => .same ?_
  · exact .foldl h.watchHalves fun _ _ h => .ite h.noteQuiet h
  · split
    · exact c
    · exact c.pruneOld

protected theorem Sound.newStep : Sound (newStep s) := by
  unfold newStep
  split <;> exact .same h

protected theorem Sound.runAct {a} : NextSound (runAct a s) := by
  cases a with
  | ev i => exact h.exec
  | inputs => exact h.runInputs
  | scheduler => exact h.runScheduler
  | ferries => exact h.runFerries
  | loads => exact h.runLoads
  | issues => exact h.runIssues
  | streams f => exact h.runStreams
  | loadsOf f => exact h.runLoadsOf
  | cores => exact h.runCores
  | again k => exact h.runAgain
  | settle => exact h.runSettle
  | begin k => exact h.beginCycle
  | land k => exact h.landCycle
  | peerWrites => exact h.peerWritesNow
  | coreWrites k => exact h.coreWritesNow
  | reads => exact h.readsNow
  | issue k => exact h.issueAct

protected theorem Sound.step : NextSound (step s) := by
  unfold step
  split
  · exact h.newStep
  · exact Sound.runAct (.same h)
end

/-- Settles O53: the two halves are the predicate `Sound`, and a step is the start of an agenda or one of its acts, each
of which keeps it. -/
theorem stepKeepsInvariant : Obligations.StepKeepsInvariant := by
  unfold Obligations.StepKeepsInvariant
  intro s t hmem hmask hstep
  have hs : Sound s := (sound_iff s).mpr ⟨hmem, hmask⟩
  have ht := hs.step
  rw [hstep] at ht
  exact (sound_iff t).mp ht

end Sys2Proof.Machine
end
